-- ==== Sys2Proof/Word.lean ====
section
/-! DEFINITION. Sys2Proof/Word.lean: the plain types the CB-1204 counts and addresses with. Only what the manual treats
as bits is a bit vector (bytes, the 32-bit words of exchange memory, index copies that wrap); numbers of things are `Fin`
or `Nat`. -/
namespace Sys2Proof

/-- One byte of exchange memory. -/
abbrev Byte := BitVec 8

/-- A word of exchange memory is 4 bytes (00_scope, Addresses and byte order). -/
abbrev Word := BitVec 32

/-- A slot of the cabinet, 0–11. -/
abbrev Slot := Fin 12

/-- A traffic class: 0 Sync, 1 Control, 2 User, 3 Management. -/
abbrev Cls := Fin 4

/-- A request tag, 0–31 (R1). -/
abbrev Tag := Fin 32

/-- A ring number, slot × 8 + class × 2 + direction (R36, R83). -/
abbrev RingNo := Fin 96

/-- An alarm point number, 0–88 (R164). -/
abbrev Point := Fin 89

/-- A gate number, 0–7 (R38). -/
abbrev GateNo := Fin 8

/-- A status record number, 0–16 (Table 10-1). -/
abbrev RecordNo := Fin 17

end Sys2Proof
end

