-- ==== Sys2Proof/Syntax.lean ====
section
/-! DEFINITION. Sys2Proof/Syntax.lean: the commands of the CB-1204, one constructor for each row of spec/opcode_table.json,
in the table's order. The part has no instruction encoding: a row is an operation or an event that reaches the part from
its slot links, its memory port, its pins or its own timers. The operands are what the event carries (log entry 1). -/
namespace Sys2Proof

/-- A reference pulse input, REFA or REFB. -/
inductive RefId where
  | a
  | b
  deriving DecidableEq, Repr

/-- The five tick kinds of Table 8-1. -/
inductive TickKind where
  | second
  | frame
  | subframe
  | half
  | prog
  deriving DecidableEq, Repr

/-- The level of an environment contact (R167). -/
inductive Contact where
  | opened
  | closed
  deriving DecidableEq, Repr

/-- The commands. A Bool operand `err` of a read completion says that the memory reported an uncorrectable error (R13). -/
inductive Instr where
  /-- READ: a card READ arrives with its tag, byte address and length (R1, R5). -/
  | read (slot : Slot) (tag : Tag) (addr : Word) (len : Nat)
  /-- WRITE: a card WRITE arrives with its tag, byte address and data bytes (R1, R5). -/
  | write (slot : Slot) (tag : Tag) (addr : Word) (data : List Byte)
  /-- ACCESS_GRANT: the memory port accepts the next access the arbiter chooses (R14). -/
  | accessGrant
  /-- APPLY: the merged value of the APPLY word is handed to the plan loader (R41). -/
  | apply (value : Word)
  /-- LOG_CONSUMER: the merged value of LOG CONSUMER is handed to the status writer (R191). -/
  | logConsumer (value : Word)
  /-- CUTOFF: the merged value of CUTOFF is handed to the alarm unit (R175). -/
  | cutoff (value : Word)
  /-- SECONDS: the merged value of SECONDS is handed to the cabinet clock (R127). -/
  | seconds (value : Word)
  /-- FENCE: the value 1 of SLOT COMMAND n is handed to slot port n (R69). -/
  | fence (slot : Slot)
  /-- RELEASE: the value 2 of SLOT COMMAND n is handed to slot port n (R68, R69). -/
  | release (slot : Slot)
  /-- HEARTBEAT: the merged heartbeat word of a slot is handed to its slot port (R73). -/
  | heartbeat (slot : Slot) (value : Word)
  /-- ADMIT_WORD: the merged admit word of a slot is handed to its slot port (R59). -/
  | admitWord (slot : Slot) (value : Word)
  /-- EGRESS_PRODUCER: a merged egress producer word is handed to the ring table (R87). -/
  | egressProducer (slot : Slot) (cls : Cls) (value : Word)
  /-- INGRESS_CONSUMER: a merged ingress consumer word is handed to the ring table (R96). -/
  | ingressConsumer (slot : Slot) (cls : Cls) (value : Word)
  /-- READ_COMPLETION: the memory port completes a card READ (R10). -/
  | readCompletion (err : Bool)
  /-- ADMISSION_CHECK_READ_COMPLETE: the memory port completes an admission check read (R60). -/
  | admissionCheckReadComplete (err : Bool)
  /-- PLAN_READ_COMPLETE: the memory port completes a plan read (R42). -/
  | planReadComplete (err : Bool)
  /-- ACTIVATION: the staged image becomes the active plan (R47). -/
  | activation
  /-- HEADER_READ_COMPLETE: the memory port completes a take's header read (R90). -/
  | headerReadComplete (err : Bool)
  /-- SERVICE_CHOICE: the engine chooses a head and begins a batch (R107). -/
  | serviceChoice
  /-- COPY_READ_COMPLETE: the memory port completes a block read of the copy (R111, R114). -/
  | copyReadComplete (err : Bool)
  /-- HOLD_EXPIRED: the head of an egress ring reaches its hold limit (R115). -/
  | holdExpired (slot : Slot) (cls : Cls)
  /-- SETTLEMENT: a slot is settled (R66). -/
  | settlement (slot : Slot)
  /-- LINK_TRAINED: a slot link reports trained (R58). -/
  | linkTrained (slot : Slot)
  /-- LINK_LOST: a slot link reports lost (R12). -/
  | linkLost (slot : Slot)
  /-- PRESENCE_LEVEL_CHANGE: the level of PRESENTn becomes present or absent (R55). -/
  | presenceLevelChange (slot : Slot) (present : Bool)
  /-- PRESENCE_FOUND: the debounce expires with the card present (R55, R56). -/
  | presenceFound (slot : Slot)
  /-- PRESENCE_LOST: the debounce expires with the card absent (R55). -/
  | presenceLost (slot : Slot)
  /-- PWRGD_ASSERTED: PWRGDn is asserted (R57). -/
  | pwrgdAsserted (slot : Slot)
  /-- PWRGD_DEASSERTED: PWRGDn is deasserted (R58, R64, R67). -/
  | pwrgdDeasserted (slot : Slot)
  /-- POWER_GOOD_LIMIT_EXPIRY: the power-good limit is reached in POWERING (R57). -/
  | powerGoodLimitExpiry (slot : Slot)
  /-- TRAINING_LIMIT_EXPIRY: the training limit is reached in TRAINING (R58). -/
  | trainingLimitExpiry (slot : Slot)
  /-- ADMIT_DELAY_EXPIRY: the admit delay ends (R62, R63). -/
  | admitDelayExpiry (slot : Slot)
  /-- REMOVING_END: a slot in REMOVING has finished its work (R71). -/
  | removingEnd (slot : Slot)
  /-- HEARTBEAT_WINDOW_EXPIRY: the heartbeat window passes without a valid write (R74). -/
  | heartbeatWindowExpiry (slot : Slot)
  /-- REFERENCE_PULSE: a rising edge on REFA or REFB (R128). -/
  | referencePulse (ref : RefId)
  /-- MISS: the miss deadline of a QUALIFIED reference is reached (R132). -/
  | miss (ref : RefId)
  /-- HOLDOVER_LIMIT: the holdover timer reaches the holdover limit (R137). -/
  | holdoverLimit
  /-- SECOND_TURNOVER: the oscillator period whose increment carries the nanoseconds past a second (R124, R127). -/
  | secondTurnover
  /-- TICK: cabinet time has reached the next boundary of a tick kind (R150). -/
  | tick (kind : TickKind)
  /-- GATE_OPEN_DELAY_EXPIRY: the open delay of an ARMED gate passes (R157). -/
  | gateOpenDelayExpiry (gate : GateNo)
  /-- GATE_WINDOW_EXPIRY: the window of an OPEN gate in WINDOW mode passes (R159). -/
  | gateWindowExpiry (gate : GateNo)
  /-- STROBE_BEGIN: the oscillator period of a pending strobe is reached (R161). -/
  | strobeBegin (slot : Slot)
  /-- STROBE_END: a strobe pulse has lasted 125 oscillator periods (R161). -/
  | strobeEnd (slot : Slot)
  /-- ENV_CHANGE: an environment contact changes level (R167). -/
  | envChange (input : Fin 8) (level : Contact)
  /-- RAISE_TIMER_EXPIRY: the raise timer of a RISING point expires (R169). -/
  | raiseTimerExpiry (point : Point)
  /-- CLEAR_TIMER_EXPIRY: the clear timer of a FALLING point expires (R170). -/
  | clearTimerExpiry (point : Point)
  /-- EVENT_HOLD_EXPIRY: at a SECOND tick the event hold of an event-type point has passed (R168). -/
  | eventHoldExpiry (point : Point)
  /-- STATUS_RECORD_BEGIN: the status writer begins the lowest dirty record (R181). -/
  | statusRecordBegin
  /-- POWER_ON_RESET: power is applied (R192). -/
  | powerOnReset
  /-- SUPPLY_FALL: the supply falls below the threshold (R193). -/
  | supplyFall
  /-- SUPPLY_RETURN: the supply returns above the threshold (R193). -/
  | supplyReturn
  /-- SUPPLY_DIP_RESET: the dip timer reaches 2,000 µs (R193). -/
  | supplyDipReset
  /-- RESET_PIN_ASSERT: RESETN is asserted (R192). -/
  | resetPinAssert
  /-- RESET_END: RESETN is released if it was asserted, and the reset ends if nothing else holds it (R192). -/
  | resetEnd
  deriving DecidableEq, Repr

end Sys2Proof
end

