-- ==== Sys2Proof/Decode.lean ====
section
/-! DEFINITION. Sys2Proof/Decode.lean: the decoder over the rows of spec/opcode_table.json that give bits. No row of this
part's table gives any ("fields": [] in all 54, and no "fixed"): the part takes its commands from slot links, pins and
timers, not from an instruction word. -/
namespace Sys2Proof

/-- The command a word spells by the table's bits: no row gives bits, so no word spells one. -/
def decodeTableWord (_nbits _w : Nat) : Option Instr := none

end Sys2Proof
end

