-- ==== Sys2Proof/Machine/Bytes.lean ====
section
/-! DEFINITION. Sys2Proof/Machine/Bytes.lean: fields of structures in exchange memory as bytes. A field of more than one
byte is little-endian (00_scope, Addresses and byte order; R194). -/
namespace Sys2Proof.Machine

/-- The low `k` bytes of `v`, least significant first: a field of `k` bytes (R194). -/
def leBytes : Nat → Nat → List Byte
  | 0, _ => []
  | k + 1, v => BitVec.ofNat 8 v :: leBytes k (v / 256)

/-- The unsigned number a list of bytes holds, least significant first (R194). -/
def ofLe : List Byte → Nat
  | [] => 0
  | b :: bs => b.toNat + 256 * ofLe bs

/-- `k` unused bytes, written 0 (R194). -/
def zeros (k : Nat) : List Byte := List.replicate k 0

/-- The unsigned field of `k` bytes at byte offset `o` of a structure; a byte the structure does not have reads 0. -/
def field (bytes : List Byte) (o k : Nat) : Nat := ofLe ((bytes.drop o).take k)

/-- A yes/no field: 0 means no and any other value means yes (R33, R194). -/
def flagAt (bytes : List Byte) (o : Nat) : Bool := field bytes o 1 != 0

/-- A yes/no field as the part writes it (R194). -/
def flagByte (b : Bool) : Byte := if b then 1 else 0

/-- A signed number as a 4-byte field in two's complement (R194). -/
def leSigned (v : Int) : List Byte := leBytes 4 (BitVec.ofInt 32 v).toNat

/-- Aligned 64-byte blocks of a structure, in ascending order; `n` blocks. -/
def blocksOf : Nat → List Byte → List (List Byte)
  | 0, _ => []
  | n + 1, bytes => bytes.take 64 :: blocksOf n (bytes.drop 64)

end Sys2Proof.Machine
end

