-- ==== Sys2Proof/Machine/Tables.lean ====
section
/-! DEFINITION. Sys2Proof/Machine/Tables.lean: tables of a fixed number of like things (slots, rings, gates, points), the
three ways they are made and changed, and folding an operation over a range of numbers. -/
namespace Sys2Proof.Machine

/-- The table whose entry i is `f i`. -/
def tabulate {α : Type} {n : Nat} (f : Fin n → α) : Vector α n := ⟨⟨List.ofFn f⟩, by simp⟩

/-- The table with entry i changed by `f`. -/
def modify {α : Type} {n : Nat} (v : Vector α n) (i : Fin n) (f : α → α) : Vector α n := v.set i (f v[i])

/-- The table with every entry changed, each by its own number. -/
def mapTable {α β : Type} {n : Nat} (f : Fin n → α → β) (v : Vector α n) : Vector β n := tabulate fun i => f i v[i]

/-- The operation `f` carried out for each number 0 … n − 1 in ascending order (log entry 18). -/
def forEach {σ : Type} (n : Nat) (f : Fin n → σ → σ) (s : σ) : σ := (List.finRange n).foldl (fun s i => f i s) s

/-- The first number 0 … n − 1 for which `p` holds. -/
def firstFin (n : Nat) (p : Fin n → Bool) : Option (Fin n) := (List.finRange n).find? p

/-- Whether `p` holds for some number 0 … n − 1. -/
def anyFin (n : Nat) (p : Fin n → Bool) : Bool := (List.finRange n).any p

@[simp] theorem getElem_tabulate {α : Type} {n : Nat} (f : Fin n → α) (i : Nat) (h : i < n) :
    (tabulate f)[i] = f ⟨i, h⟩ := by
  simp [tabulate]

@[simp] theorem getElem_modify_self {α : Type} {n : Nat} (v : Vector α n) (i : Fin n) (f : α → α) :
    (modify v i f)[i.val] = f v[i.val] := by
  simp [modify]

theorem getElem_modify_ne {α : Type} {n : Nat} (v : Vector α n) (i : Fin n) (f : α → α) (j : Nat) (hj : j < n)
    (h : i.val ≠ j) : (modify v i f)[j] = v[j] := by
  simp [modify, h]

@[simp] theorem getElem_mapTable {α β : Type} {n : Nat} (f : Fin n → α → β) (v : Vector α n) (i : Nat) (h : i < n) :
    (mapTable f v)[i] = f ⟨i, h⟩ v[i] := by
  simp [mapTable]

theorem foldl_keeps {σ α β : Type} (g : σ → β) (f : σ → α → σ) (h : ∀ s a, g (f s a) = g s) (l : List α) (s : σ) :
    g (l.foldl f s) = g s := by
  induction l generalizing s with
  | nil => rfl
  | cons a l ih => rw [List.foldl_cons, ih, h]

/-- What every round of `forEach` leaves unchanged, the whole of it leaves unchanged. -/
theorem forEach_keeps {σ β : Type} (g : σ → β) (n : Nat) (f : Fin n → σ → σ) (h : ∀ i s, g (f i s) = g s) (s : σ) :
    g (forEach n f s) = g s :=
  foldl_keeps g _ (fun s i => h i s) _ s

end Sys2Proof.Machine
end

