-- ==== Sys2Proof/Machine/Plan.lean ====
section
/-! DEFINITION. Sys2Proof/Machine/Plan.lean: the cabinet plan as the part holds it once it is active (Chapter 3), and the
bootstrap plan of Table 3-11. Address fields are byte addresses: the unit of R33 has been multiplied out. -/
namespace Sys2Proof.Machine

/-- A window of a slot (R21). Base and size are in bytes; size 0 means the window is absent. -/
structure Window where
  base  : Nat
  size  : Nat
  read  : Bool
  write : Bool
  deriving DecidableEq, Repr

/-- A slot entry of the plan (Table 3-2). Times are in the unit the plan gives them: ms, and ns for the strobe delay. -/
structure SlotPlan where
  enabled         : Bool
  expected        : Bool
  expectedKind    : Nat
  minRevision     : Nat
  key             : Word
  heartbeatPeriod : Nat
  fenceOnHeartbeat : Bool
  violationLimit  : Nat
  admitDelay      : Nat
  debounce        : Nat
  powerGoodLimit  : Nat
  trainingLimit   : Nat
  strobeKind      : Option TickKind
  strobeDelay     : Nat
  windows         : Vector Window 6
  deriving DecidableEq, Repr

/-- A ring entry of the plan (Table 3-3). Entry count 0 means the ring is absent. -/
structure RingPlan where
  base      : Nat
  count     : Nat
  high      : Nat
  low       : Nat
  attention : Bool
  deriving DecidableEq, Repr

/-- The destination-down policy of a class (R37, R116). -/
inductive DownPolicy where
  | hold
  | drop
  deriving DecidableEq, Repr

/-- A class entry of the plan (Table 3-4). -/
structure ClassPlan where
  holdLimit  : Nat
  policy     : DownPolicy
  batchLimit : Nat
  deriving DecidableEq, Repr

/-- The mode of a gate (R38). -/
inductive GateMode where
  | pulse
  | window
  deriving DecidableEq, Repr

/-- A gate entry of the plan (Table 3-5); `source` none is the tick kind NONE. -/
structure GatePlan where
  source       : Option TickKind
  openDelay    : Nat
  mode         : GateMode
  windowLength : Nat
  traceable    : Bool
  deriving DecidableEq, Repr

/-- The settings of one reference (Table 3-6); `owner` none is the owner code none. -/
structure RefPlan where
  enabled      : Bool
  owner        : Option Slot
  cableDelay   : Nat
  qualifyCount : Nat
  missLimit    : Nat
  tolerance    : Nat
  deriving DecidableEq, Repr

/-- The clock section of the plan (Table 3-6); `first` is the reference that comes first in the priority order. -/
structure ClockPlan where
  refA          : RefPlan
  refB          : RefPlan
  first         : RefId
  revertive     : Bool
  gp            : Nat
  gi            : Nat
  fmax          : Nat
  slew          : Nat
  stepThreshold : Nat
  lockThreshold : Nat
  lockCount     : Nat
  strayLimit    : Nat
  holdoverLimit : Nat
  progPeriod    : Nat
  deriving DecidableEq, Repr

/-- The severity of an alarm point (R40). -/
inductive Severity where
  | critical
  | major
  | minor
  | warning
  deriving DecidableEq, Repr

/-- The plan's record of an alarm point (Table 3-7); times in ms. -/
structure PointPlan where
  severity  : Severity
  mask      : Bool
  force     : Bool
  raiseTime : Nat
  clearTime : Nat
  deriving DecidableEq, Repr

/-- The alarm section of the plan (Table 3-7); `logBase` is a byte address and capacity 0 means no log ring. -/
structure AlarmPlan where
  points           : Vector PointPlan 89
  eventHold        : Nat
  polarity         : Vector Contact 8
  logBase          : Nat
  logCapacity      : Nat
  discardThreshold : Nat
  deriving DecidableEq, Repr

/-- A cabinet plan. Generation 0 is the bootstrap plan's alone, and `waiver` is its admission waiver (R50). -/
structure Plan where
  generation : Nat
  memorySize : Nat
  slots      : Vector SlotPlan 12
  rings      : Vector RingPlan 96
  classes    : Vector ClassPlan 4
  gates      : Vector GatePlan 8
  clock      : ClockPlan
  alarm      : AlarmPlan
  waiver     : Bool
  deriving DecidableEq, Repr

/-- An absent window (R21). Table 3-11 says of the windows of the bootstrap plan that they are absent and no more: the model holds
base 0 and no rights for them, which nothing reads (DESIGN CHOICE, log entry 32). -/
def Window.absent : Window := { base := 0, size := 0, read := false, write := false }

/-- Slot entry of the bootstrap plan (Table 3-11): slot 0 is enabled and expected and holds window 0, slots 1–11 are
disabled and hold nothing. The table gives strobe NONE and no strobe delay: the model holds a delay of 0 ns, which nothing
reads while the kind is NONE (DESIGN CHOICE, log entry 32). -/
def SlotPlan.bootstrap (n : Slot) : SlotPlan where
  enabled := n.val == 0
  expected := n.val == 0
  expectedKind := 0
  minRevision := 0
  key := 1
  heartbeatPeriod := 10000
  fenceOnHeartbeat := false
  violationLimit := 0
  admitDelay := 0
  debounce := 10
  powerGoodLimit := 500
  trainingLimit := 1000
  strobeKind := none
  strobeDelay := 0
  windows := tabulate fun w =>
    if n.val == 0 && w.val == 0 then { base := 0x40000, size := 0x3FC0000, read := true, write := true } else Window.absent

/-- An absent ring (R36). Table 3-11 says of the rings of the bootstrap plan that they are absent and no more: the model holds base
0, thresholds 0 and attention no for them, which nothing reads while the entry count is 0 (DESIGN CHOICE, log entry 32). -/
def RingPlan.absent : RingPlan := { base := 0, count := 0, high := 0, low := 0, attention := false }

/-- Settings of a reference under the bootstrap plan (Table 3-11). -/
def RefPlan.bootstrap : RefPlan :=
  { enabled := false, owner := none, cableDelay := 0, qualifyCount := 4, missLimit := 2, tolerance := 100 }

/-- Clock section of the bootstrap plan (Table 3-11). -/
def ClockPlan.bootstrap : ClockPlan where
  refA := RefPlan.bootstrap
  refB := RefPlan.bootstrap
  first := .a
  revertive := false
  gp := 64
  gi := 4
  fmax := 5120000
  slew := 256000
  stepThreshold := 20000
  lockThreshold := 1000
  lockCount := 16
  strayLimit := 10000
  holdoverLimit := 86400
  progPeriod := 1000

/-- Alarm section of the bootstrap plan (Table 3-11): points 6–71 masked. -/
def AlarmPlan.bootstrap : AlarmPlan where
  points := tabulate fun p =>
    { severity := .major, mask := 6 ≤ p.val && p.val ≤ 71, force := false, raiseTime := 0, clearTime := 0 }
  eventHold := 10
  polarity := tabulate fun _ => .closed
  logBase := 0
  logCapacity := 0
  discardThreshold := 100

/-- The bootstrap plan (R50, Table 3-11). -/
def Plan.bootstrap : Plan where
  generation := 0
  memorySize := 0x4000000
  slots := tabulate SlotPlan.bootstrap
  rings := tabulate fun _ => RingPlan.absent
  classes := tabulate fun _ => { holdLimit := 65535, policy := .hold, batchLimit := 1 }
  gates := tabulate fun _ => { source := none, openDelay := 0, mode := .pulse, windowLength := 1, traceable := false }
  clock := ClockPlan.bootstrap
  alarm := AlarmPlan.bootstrap
  waiver := true

/-- The settings of one reference in a clock section. -/
def ClockPlan.ref (c : ClockPlan) : RefId → RefPlan
  | .a => c.refA
  | .b => c.refB

end Sys2Proof.Machine
end

