-- ==== Sys2Proof/Config.lean ====
section
/-! DEFINITION. Sys2Proof/Config.lean: what is fixed for one part, and the choices the manual leaves open. -/
namespace Sys2Proof.Config

/-- Oscillator periods in one microsecond of the service clock (R123). -/
def periodsPerMicrosecond : Nat := 125

/-- Oscillator periods of a driven strobe pulse, 1,000 ns (R161). -/
def strobePeriods : Nat := 125

/-- Oscillator periods of the 2,000 µs that make a supply dip a reset (R193). -/
def dipPeriods : Nat := 250000

/-- The fixed power-off of a power cycle of slot 0, in µs: 500 ms (R54, R71). -/
def powerOffMicroseconds : Nat := 500000

/-- Places of a slot's request queue (R4). -/
def queuePlaces : Nat := 8

/-- The first address beyond the control region (R5, Table 1-2). -/
def controlEnd : Nat := 0x40000

/-- Blocks of the plan image (11.4). -/
def planBlocks : Nat := 65

/-- Family code of the reset record (R184). -/
def familyCode : Nat := 0x1204

/-- Revision of the reset record (R184). -/
def revision : Nat := 0x0003

/-- What a byte of exchange memory that nothing has written reads as. The exchange memory is outside the part and the
manual says only "whatever memory holds": DESIGN CHOICE, log entry 3, unsafe. -/
def unwrittenByte : Byte := 0

/-- Whether the REFUSAL FENCED of a request that arrives while its slot is REMOVING is sent: R6 says that a refusal made at
arrival is sent, R12 that a slot in REMOVING is sent no further response. The manual gives both, so the model fixes
neither: no body, and nothing can be proved of it (log entry 6). -/
opaque removingRefusalSent : Bool

/-- Whether the link of a slot sends the oldest response that waits, at an oscillator period: the manual says in which order
responses are sent and gives no time that one takes, so the model fixes none: no body, and nothing can be proved of it (log
entry 4). -/
opaque linkSends (slot : Slot) (period : Nat) : Bool

end Sys2Proof.Config
end

