-- ==== Sys2Proof/Machine/Memory.lean ====
section
/-! DEFINITION. Sys2Proof/Machine/Memory.lean: exchange memory, the byte memory behind the memory port. It is a list of
(address, byte) pairs in one canonical form: addresses strictly rising, and no entry equal to what an unlisted address reads
as. The part writes and reads it only by granted accesses (R13). -/
namespace Sys2Proof.Machine

/-- Exchange memory. -/
abbrev Memory := List Host.Cell

/-- The byte at an address: the listed one, or `Config.unwrittenByte`. -/
def Memory.get : Memory → Nat → Byte
  | [], _ => Config.unwrittenByte
  | (k, b) :: m, a => if k = a then b else Memory.get m a

/-- One byte stored, keeping the canonical form. -/
def Memory.put : Memory → Nat → Byte → Memory
  | [], a, b => if b = Config.unwrittenByte then [] else [(a, b)]
  | (k, c) :: m, a, b =>
    if a < k then (if b = Config.unwrittenByte then (k, c) :: m else (a, b) :: (k, c) :: m)
    else if a = k then (if b = Config.unwrittenByte then m else (a, b) :: m)
    else (k, c) :: Memory.put m a b

/-- Every address of the list is above `lo`, they rise strictly, and no entry is what an unlisted address reads as. -/
def Memory.wfAbove (lo : Nat) : Memory → Bool
  | [] => true
  | (k, b) :: m => lo ≤ k && b != Config.unwrittenByte && Memory.wfAbove (k + 1) m

/-- The canonical form of exchange memory. -/
def Memory.wf (m : Memory) : Bool := Memory.wfAbove 0 m

/-- The `n` bytes from address `a` up, in ascending address order (R2). -/
def Memory.read (m : Memory) (a : Nat) : Nat → List Byte
  | 0 => []
  | n + 1 => Memory.get m a :: Memory.read m (a + 1) n

/-- Bytes stored at consecutive addresses from `a` up (R1, R13). -/
def Memory.write (m : Memory) (a : Nat) : List Byte → Memory
  | [] => m
  | b :: bs => Memory.write (Memory.put m a b) (a + 1) bs

end Sys2Proof.Machine
end

