-- ==== Sys2Proof/Machine/Records.lean ====
section
/-! DEFINITION. Sys2Proof/Machine/Records.lean: the records the part's blocks hold, each with the value every reset gives
it where one value serves all three resets. Service-clock times are in µs, but for the references and strobes, which the
manual places to the oscillator period (R123, R161). Counts that saturate are `Nat`; counts that wrap are bit vectors. -/
namespace Sys2Proof.Machine

/-! ### Time -/

/-- Cabinet time as it is handed to a reader (R125): the fraction is truncated. -/
structure CabinetTime where
  seconds : Word
  ns      : Nat
  epoch   : Byte
  deriving DecidableEq, Repr

/-! ### Requests, responses and memory accesses (Chapter 1) -/

/-- The eight refusal reasons of Table 1-1. -/
inductive Reason where
  | fenced
  | tagBusy
  | boundary
  | quarantine
  | control
  | owned
  | window
  | memory
  deriving DecidableEq, Repr

/-- A response on a slot link (R2). -/
inductive Response where
  | readData (tag : Tag) (bytes : List Byte)
  | refusal (tag : Tag) (reason : Reason)
  deriving DecidableEq, Repr

/-- The tag a response carries (R2). -/
def Response.tag : Response → Tag
  | .readData t _ => t
  | .refusal t _ => t

/-- What a request asks for: `len` bytes read, or bytes stored (R1). -/
inductive RequestBody where
  | read (len : Nat)
  | write (data : List Byte)
  deriving DecidableEq, Repr

/-- A card's request (R1). -/
structure Request where
  tag  : Tag
  addr : Word
  body : RequestBody
  deriving DecidableEq, Repr

/-- Whom a read in flight belongs to (R15, R16). A card READ carries the two marks of R10: its slot was fenced, or entered
REMOVING or lost its link, while it was in flight. An admission check read is live while its check record is present (R61). -/
inductive Purpose where
  | card (slot : Slot) (tag : Tag) (fenced dropped : Bool)
  | check (slot : Slot) (live : Bool)
  | plan
  | header (ring : RingNo)
  | copy
  deriving DecidableEq, Repr

/-- A granted read that has not completed, with the bytes exchange memory held at its grant (R13). -/
structure Flight where
  purpose : Purpose
  data    : List Byte
  deriving DecidableEq, Repr

/-- The two groups of the arbiter (R14). -/
inductive Group where
  | card
  | internal
  deriving DecidableEq, Repr

/-- The arbiter's state (R14). -/
structure Arbiter where
  lastGroup : Group
  lastSlot  : Slot
  deriving DecidableEq, Repr

/-- R14: after every reset the group granted last is INTERNAL and the slot granted last is 11. -/
def Arbiter.reset : Arbiter := { lastGroup := .internal, lastSlot := 11 }

/-- The watched-word copies: ten words of each slot and sixteen of the command block (Table 1-3, R17). -/
structure Watched where
  egressProducer  : Vector Word 48
  ingressConsumer : Vector Word 48
  heartbeat       : Vector Word 12
  admitWords      : Vector Word 12
  apply           : Word
  logConsumer     : Word
  cutoff          : Word
  seconds         : Word
  slotCommand     : Vector Word 12
  deriving DecidableEq, Repr

/-- R17: after every reset each copy is 0. -/
def Watched.reset : Watched where
  egressProducer := Vector.replicate 48 0
  ingressConsumer := Vector.replicate 48 0
  heartbeat := Vector.replicate 12 0
  admitWords := Vector.replicate 12 0
  apply := 0
  logConsumer := 0
  cutoff := 0
  seconds := 0
  slotCommand := Vector.replicate 12 0

/-! ### Slot ports (Chapter 4) -/

/-- The nine slot states of Table 4-1. -/
inductive SlotState where
  | empty
  | standby
  | powering
  | training
  | quarantine
  | admitting
  | admitted
  | removing
  | fenced
  deriving DecidableEq, Repr

/-- Fence reasons (Table 4-3). -/
inductive FenceReason where
  | none
  | powerFault
  | trainTimeout
  | linkLost
  | command
  | violations
  | heartbeatLost
  | heartbeatInvalid
  | planMismatch
  deriving DecidableEq, Repr

/-- Admit results (Table 4-3). -/
inductive AdmitResult where
  | none
  | passed
  | waived
  | kind
  | revision
  | memory
  deriving DecidableEq, Repr

/-- The check record of an admission check: when it began, and whether its read is in flight or still waiting (R59). -/
structure CheckRecord where
  start    : Nat
  inFlight : Bool
  deriving DecidableEq, Repr

/-- The identity of a card (R54): kind, hardware revision and the 8 bytes of its serial number in address order. -/
structure Identity where
  kind     : Nat
  revision : Nat
  serial   : List Byte
  deriving DecidableEq, Repr

/-- The heartbeat supervision record (R72). -/
structure Heartbeat where
  supervising : Bool
  expected    : Word
  lastValid   : Option Word
  windowStart : Nat
  lost        : Bool
  deriving DecidableEq, Repr

/-- The strobe schedule of a slot (R161). `pending` is the oscillator period at which the pulse begins; `driven` is the
oscillator period at which the pulse now driven began. -/
structure Strobe where
  armed   : Bool
  pending : Option Nat
  driven  : Option Nat
  deriving DecidableEq, Repr

/-- The slot exchange counters (Table 6-2), each a 32-bit count that wraps (R104). -/
structure Counters where
  owed        : Word
  delivered   : Word
  received    : Word
  holdExpired : Word
  destDown    : Word
  oversize    : Word
  sourceDown  : Word
  plan        : Word
  memory      : Word
  malformed   : Word
  deriving DecidableEq, Repr

/-- A slot port: the slot record of Table 4-3, the request queue and tag table of its card (R3, R4) with the card's credits,
the responses made and not yet sent (`unsent`) and those sent (`responses`), each oldest first (R2, R12; log entry 4), the
strobe schedule, and whether its two input pins are at their active level (R198). -/
structure Port where
  state           : SlotState
  presence        : Bool
  presenceTimer   : Option Nat
  link            : Bool
  stateTimer      : Option Nat
  fenceReason     : FenceReason
  powerRemoved    : Bool
  settlementOwed  : Bool
  releaseHeld     : Bool
  check           : Option CheckRecord
  identity        : Option Identity
  identityShown   : Bool
  admitResult     : AdmitResult
  waived          : Bool
  powerCycle      : Bool
  heartbeat       : Heartbeat
  violations      : Nat
  queue           : List Request
  tags            : List Tag
  credits         : Nat
  unsent          : List Response
  responses       : List Response
  ringFaults      : Nat
  counters        : Counters
  strobe          : Strobe
  presentLevel    : Bool
  pwrgd           : Bool
  deriving DecidableEq, Repr

def Counters.zero : Counters where
  owed := 0
  delivered := 0
  received := 0
  holdExpired := 0
  destDown := 0
  oversize := 0
  sourceDown := 0
  plan := 0
  memory := 0
  malformed := 0

/-- Supervision after a reset (R81): not supervising, lost flag no. The values of the other fields have no meaning while
supervising is no and the manual gives them none (log entry 2). -/
def Heartbeat.reset : Heartbeat :=
  { supervising := false, expected := 0, lastValid := none, windowStart := 0, lost := false }

/-- R163: disarmed, nothing pending, not driven. -/
def Strobe.reset : Strobe := { armed := false, pending := none, driven := none }

/-- A slot port with the values of R81, R88, R104 and R163 and the given levels of its input pins. -/
def Port.reset (presentLevel pwrgd : Bool) : Port where
  state := .empty
  presence := false
  presenceTimer := none
  link := false
  stateTimer := none
  fenceReason := .none
  powerRemoved := false
  settlementOwed := false
  releaseHeld := false
  check := none
  identity := none
  identityShown := false
  admitResult := .none
  waived := false
  powerCycle := false
  heartbeat := Heartbeat.reset
  violations := 0
  queue := []
  tags := []
  credits := 0
  unsent := []
  responses := []
  ringFaults := 0
  counters := Counters.zero
  strobe := Strobe.reset
  presentLevel := presentLevel
  pwrgd := pwrgd

/-! ### Plan loader (Chapter 3) -/

/-- The loader's phases (3.7). VALIDATING and ACTIVATING last no longer than the step that passes through them (DEDUCED, log
entry 23). -/
inductive Phase where
  | idle
  | reading
  | validating
  | waiting
  | activating
  deriving DecidableEq, Repr

/-- The kind of an apply operation (R49). -/
inductive OpKind where
  | apply
  | warmStart
  deriving DecidableEq, Repr

/-- The outcome field of the plan result (R49). -/
inductive PlanOutcome where
  | none
  | accepted
  | acceptedClamped
  | rejected
  deriving DecidableEq, Repr

/-- The failing section field of the plan result (R49). -/
inductive PlanSection where
  | none
  | header
  | ring
  | slot
  | clock
  | alarm
  | memory
  deriving DecidableEq, Repr

/-- The plan result (Table 3-10). -/
structure PlanResult where
  applyNumber      : Nat
  warmCount        : Nat
  kind             : OpKind
  generation       : Nat
  outcome          : PlanOutcome
  failingSection   : PlanSection
  failingEntry     : Nat
  clampCount       : Nat
  activeGeneration : Nat
  deriving DecidableEq, Repr

/-- The reset values of the plan result, with the warm-reset count after that reset (Table 3-10). -/
def PlanResult.reset (warmCount : Nat) : PlanResult where
  applyNumber := 0
  warmCount := warmCount
  kind := .apply
  generation := 0
  outcome := .none
  failingSection := .none
  failingEntry := 0
  clampCount := 0
  activeGeneration := 0

/-- The plan loader. `generation` is that of the operation under way (none while a warm start has not read its header,
R52), `block` the block whose read is waiting (`readWaiting`) or in flight, `image` the blocks read so far, and `staged` the
staged image after validation with its clamp count. -/
structure Loader where
  phase        : Phase
  kind         : OpKind
  generation   : Option Nat
  block        : Nat
  readWaiting  : Bool
  image        : List (List Byte)
  staged       : Option Plan
  clamps       : Nat
  pendingApply : Option Nat
  result       : PlanResult
  deriving DecidableEq, Repr

/-- The loader after every reset (R51, R53), before a warm start begins. -/
def Loader.reset (warmCount : Nat) : Loader where
  phase := .idle
  kind := .apply
  generation := none
  block := 0
  readWaiting := false
  image := []
  staged := none
  clamps := 0
  pendingApply := none
  result := PlanResult.reset warmCount

/-! ### Rings and the exchange engine (Chapters 5 and 6) -/

/-- The six card fields of a frame header (Table 5-3) as read at the take. -/
structure FrameHeader where
  dest     : Nat
  tag      : Nat
  entries  : Nat
  gate     : Nat
  length   : Nat
  sequence : Nat
  deriving DecidableEq, Repr

/-- Block reasons of a head (R105). -/
inductive BlockReason where
  | none
  | space
  | gate
  | destDown
  deriving DecidableEq, Repr

/-- A head record (R92) with the gate-passed mark of R103. `dests` is the destination set in ascending order. -/
structure Head where
  header       : FrameHeader
  taken        : CabinetTime
  dests        : List Slot
  blockedSince : Option Nat
  blockReason  : BlockReason
  gatePassed   : Bool
  deriving DecidableEq, Repr

/-- The take state of an egress ring (R89). The head record is present exactly in HEAD, so HEAD carries it. -/
inductive Take where
  | idle
  | listed
  | reading
  | waiting
  | head (h : Head)
  deriving DecidableEq, Repr

/-- A ring record's own state (Table 5-1). Base, entry count, thresholds and attention flag are those of the active plan. -/
structure Ring where
  producer : BitVec 16
  consumer : BitVec 16
  high     : Bool
  take     : Take
  deriving DecidableEq, Repr

/-- R83, R102: the record of an absent ring. -/
def Ring.reset : Ring := { producer := 0, consumer := 0, high := false, take := .idle }

/-- What access of the copy in progress is due and not yet issued (R111). -/
inductive CopyDue where
  | nothing
  | read
  | write (data : List Byte)
  | producer
  deriving DecidableEq, Repr

/-- The copy in progress (Table 6-1). `headPresent` is the model's own mark: the head this copy is made of is still the
head of its ring, which a void copy's need not be (R99). -/
structure Copy where
  ring        : RingNo
  dest        : Slot
  destPos     : BitVec 16
  block       : Nat
  void        : Bool
  headPresent : Bool
  due         : CopyDue
  deriving DecidableEq, Repr

/-- The batch (Table 6-1). -/
structure Batch where
  ring  : RingNo
  count : Nat
  deriving DecidableEq, Repr

/-- A requested write of a part-owned index word (R103): the ring, whose part-owned word it is, and the value. -/
structure IndexWrite where
  ring  : RingNo
  value : BitVec 16
  deriving DecidableEq, Repr

/-- An access the engine has issued and that waits for the memory port (R110). -/
inductive EngineAccess where
  | index (w : IndexWrite)
  | header (ring : RingNo)
  | copyRead
  | copyWrite (data : List Byte)
  | copyProducer
  deriving DecidableEq, Repr

/-- The rings of the take list and of the index write queue as they stood when an instant began. -/
structure Joined where
  takes  : List RingNo
  writes : List RingNo
  deriving DecidableEq, Repr

/-- The exchange engine's records (Table 6-1), with the take list (R89) and the access it has issued. The settings of the
class service records are those of the active plan. Two marks are the model's own (log entry 30): `before` says how the
lists stood at the beginning of an instant at which more may still join them, and `handing` that a WRITE's watched words are
being handed over, which lasts no longer than the step that does it. -/
structure Engine where
  lastServed  : Vector Slot 4
  copy        : Option Copy
  batch       : Option Batch
  indexQueue  : List IndexWrite
  takeList    : List RingNo
  waiting     : Option EngineAccess
  tally       : Nat
  lastSecond  : Nat
  before      : Option Joined
  handing     : Bool
  deriving DecidableEq, Repr

/-- Table 6-1: the engine after every reset. -/
def Engine.reset : Engine where
  lastServed := Vector.replicate 4 11
  copy := none
  batch := none
  indexQueue := []
  takeList := []
  waiting := none
  tally := 0
  lastSecond := 0
  before := none
  handing := false

/-! ### Cabinet clock (Chapter 7) -/

/-- The states of a reference (R128). -/
inductive RefState where
  | quiet
  | qualifying
  | qualified
  deriving DecidableEq, Repr

/-- A reference record (Table 7-2). `previous` and `deadline` are service-clock times in oscillator periods. -/
structure Reference where
  state    : RefState
  previous : Option Nat
  run      : Nat
  misses   : Nat
  deadline : Option Nat
  deriving DecidableEq, Repr

/-- QUIET with everything cleared (R129, R147). -/
def Reference.quiet : Reference := { state := .quiet, previous := none, run := 0, misses := 0, deadline := none }

/-- The clock states of Table 7-3. -/
inductive ClockState where
  | freerun
  | acquiring
  | tracking
  | holdover
  deriving DecidableEq, Repr

/-- Cabinet time (Table 7-1), the clock record (Table 7-4) and the two reference records. -/
structure Clock where
  seconds         : Word
  ns              : Nat
  fraction        : Nat
  epoch           : Byte
  state           : ClockState
  selected        : Option RefId
  trained         : Bool
  strays          : Nat
  lock            : Nat
  facc            : Int
  p               : Int
  c               : Int
  increment       : Nat
  lastError       : Int
  holdoverStart   : Option Nat
  holdoverReached : Bool
  pendingSeconds  : Option Word
  refA            : Reference
  refB            : Reference
  deriving DecidableEq, Repr

/-- Table of R147: the clock after a power-on or supply-dip reset. -/
def Clock.reset : Clock where
  seconds := 0
  ns := 0
  fraction := 0
  epoch := 0
  state := .freerun
  selected := none
  trained := false
  strays := 0
  lock := 0
  facc := 0
  p := 0
  c := 0
  increment := 34359738368
  lastError := 0
  holdoverStart := none
  holdoverReached := false
  pendingSeconds := none
  refA := Reference.quiet
  refB := Reference.quiet

def Clock.ref (c : Clock) : RefId → Reference
  | .a => c.refA
  | .b => c.refB

def Clock.setRef (c : Clock) (r : RefId) (x : Reference) : Clock :=
  match r with
  | .a => { c with refA := x }
  | .b => { c with refB := x }

/-! ### Tick unit (Chapter 8) -/

/-- A tick generator record (R149): the last emitted boundary and the skipped count. The period is fixed by the kind, or
the active plan's for PROG. -/
structure TickGen where
  last    : CabinetTime
  skipped : Word
  deriving DecidableEq, Repr

/-- R155, power-on and supply-dip: last boundary 0 s, 0 ns, epoch 0, skipped count 0. -/
def TickGen.reset : TickGen := { last := { seconds := 0, ns := 0, epoch := 0 }, skipped := 0 }

/-- The number of a tick kind, as the time record orders them (Table 11-14). -/
def kindNo : TickKind → Fin 5
  | .second => 0
  | .frame => 1
  | .subframe => 2
  | .half => 3
  | .prog => 4

/-- The five tick kinds in the order of Table 8-1. -/
def tickKinds : List TickKind := [.second, .frame, .subframe, .half, .prog]

/-- Gate states (R156). -/
inductive GateState where
  | closed
  | armed
  | opened
  deriving DecidableEq, Repr

/-- A gate record (R156). -/
structure Gate where
  state       : GateState
  delayStart  : Nat
  windowStart : Nat
  opens       : Word
  overruns    : Word
  suppressed  : Word
  deriving DecidableEq, Repr

/-- R160: CLOSED, no timer runs, counts 0. -/
def Gate.reset : Gate :=
  { state := .closed, delayStart := 0, windowStart := 0, opens := 0, overruns := 0, suppressed := 0 }

/-! ### Alarm unit (Chapter 9) -/

/-- Alarm point states (R164). -/
inductive PointState where
  | clear
  | rising
  | raised
  | falling
  deriving DecidableEq, Repr

/-- An alarm point record's own state (Table 9-1). Force, mask, severity and times are those of the active plan. -/
structure AlarmPoint where
  raw        : Bool
  lastEvent  : Option Nat
  state      : PointState
  start      : Option Nat
  raiseCount : Nat
  lastChange : Option CabinetTime
  deriving DecidableEq, Repr

/-- Table of R178. The raw condition of a condition-type point, which R178 takes from its owner after the reset, is false while a
reset lasts (DESIGN CHOICE, log entry 36). -/
def AlarmPoint.reset : AlarmPoint :=
  { raw := false, lastEvent := none, state := .clear, start := none, raiseCount := 0, lastChange := none }

/-- The alarm unit: the 89 point records, the cut-off flag and the last-second discards it was handed (R166). -/
structure Alarm where
  points   : Vector AlarmPoint 89
  cutoff   : Bool
  discards : Nat
  deriving DecidableEq, Repr

/-- R178. -/
def Alarm.reset : Alarm := { points := Vector.replicate 89 AlarmPoint.reset, cutoff := false, discards := 0 }

/-! ### Status writer and reset control (Chapter 10) -/

/-- A log record (R172) with the sequence number it took at its offer (R189). -/
structure LogRecord where
  sequence : Word
  point    : Point
  raised   : Bool
  severity : Severity
  forced   : Bool
  time     : CabinetTime
  deriving DecidableEq, Repr

/-- The log ring record (R188). -/
structure LogRing where
  base         : Nat
  capacity     : Nat
  producer     : Nat
  consumer     : Nat
  nextSequence : Word
  overflow     : Word
  deriving DecidableEq, Repr

/-- R188: after every reset every field is 0. -/
def LogRing.reset : LogRing :=
  { base := 0, capacity := 0, producer := 0, consumer := 0, nextSequence := 0, overflow := 0 }

/-- The record in progress (R179): its number, its captured blocks not yet granted, and the number of the next block. -/
structure Progress where
  record : RecordNo
  blocks : List (List Byte)
  next   : Nat
  deriving DecidableEq, Repr

/-- An access the status writer has issued and that waits for the memory port (R182). -/
inductive WriterAccess where
  | log
  | block
  deriving DecidableEq, Repr

/-- The status writer (R179). `offered` is the model's own mark: how many log records the present oscillator period has
brought into the queue (R188; log entry 31). -/
structure Status where
  dirty    : Vector Bool 17
  progress : Option Progress
  updates  : Vector (BitVec 16) 17
  log      : LogRing
  logQueue : List LogRecord
  waiting  : Option WriterAccess
  offered  : Nat
  deriving DecidableEq, Repr

/-- R179: after any reset the dirty set is the reset record alone and the rest is empty or 0. -/
def Status.reset : Status where
  dirty := (Vector.replicate 17 false).set 0 true
  progress := none
  updates := Vector.replicate 17 0
  log := LogRing.reset
  logQueue := []
  waiting := none
  offered := 0

/-- The kinds of reset (R192). -/
inductive ResetKind where
  | powerOn
  | supplyDip
  | resetPin
  deriving DecidableEq, Repr

/-- Reset control and supply monitor (R192, R193). `active` is the strongest of the resets now in progress; `pinLow` and
`supplyLow` say that RESETN is low and that the supply is below the threshold; `dip` is how many oscillator periods the dip
timer has run; `cause` and `warmCount` are the fields of the reset record. -/
structure ResetControl where
  active    : Option ResetKind
  pinLow    : Bool
  supplyLow : Bool
  dip       : Option Nat
  cause     : ResetKind
  warmCount : Nat
  deriving DecidableEq, Repr

end Sys2Proof.Machine
end

