-- ==== Sys2Proof/Machine/PlanImage.lean ====
section
/-! DEFINITION. Sys2Proof/Machine/PlanImage.lean: the plan image in exchange memory: its layout (11.4), the structural checks
of Table 3-8 (R43) and the range checks of Tables 3-2 to 3-7 (R44). An image is the list of its 64-byte blocks. -/
namespace Sys2Proof.Machine

/-- The plan image: its blocks in order (R33). -/
abbrev PlanImage := List (List Byte)

/-- The unsigned field of `k` bytes at offset `o` of block `b` (Table 11-6). -/
def imageField (img : PlanImage) (b o k : Nat) : Nat := field (img.getD b []) o k

/-! ### Range checks: a value with the number of clamps made on it (R44) -/

/-- A value and the number of clamps made to reach it. -/
abbrev Clamped (α : Type) := α × Nat

/-- A numeric value brought to the nearer limit of lo–hi, counted as one clamp if it lay outside. -/
def clampRange (lo hi v : Nat) : Clamped Nat := if v < lo then (lo, 1) else if hi < v then (hi, 1) else (v, 0)

/-- The tick kind of a code; an undefined code becomes NONE (Table 11-1, Tables 3-2 and 3-5). -/
def tickKindOf : Nat → Clamped (Option TickKind)
  | 0 => (none, 0)
  | 1 => (some .second, 0)
  | 2 => (some .frame, 0)
  | 3 => (some .subframe, 0)
  | 4 => (some .half, 0)
  | 5 => (some .prog, 0)
  | _ => (none, 1)

/-- An undefined policy code becomes HOLD (Table 3-4). -/
def policyOf : Nat → Clamped DownPolicy
  | 0 => (.hold, 0)
  | 1 => (.drop, 0)
  | _ => (.hold, 1)

/-- An undefined mode code becomes PULSE (Table 3-5). -/
def gateModeOf : Nat → Clamped GateMode
  | 0 => (.pulse, 0)
  | 1 => (.window, 0)
  | _ => (.pulse, 1)

/-- An undefined priority code becomes A first (Table 3-6). -/
def priorityOf : Nat → Clamped RefId
  | 0 => (.a, 0)
  | 1 => (.b, 0)
  | _ => (.a, 1)

/-- An undefined severity code becomes MAJOR (Table 3-7). -/
def severityOf : Nat → Clamped Severity
  | 0 => (.critical, 0)
  | 1 => (.major, 0)
  | 2 => (.minor, 0)
  | 3 => (.warning, 0)
  | _ => (.major, 1)

/-- The owner slot of a code: 0–11 the slot, FFh none. Any other code fails structural check 5 and is never read here. -/
def ownerOf (code : Nat) : Option Slot := if h : code < 12 then some ⟨code, h⟩ else none

/-- The owner codes that name a slot 0–11 or none (Table 3-6). -/
def ownerCodeValid (code : Nat) : Bool := code < 12 || code == 0xFF

/-- The memory size of a code (Table 3-1). -/
def memorySizeOf : Nat → Option Nat
  | 0 => some 0x4000000
  | 1 => some 0x8000000
  | 2 => some 0x10000000
  | 3 => some 0x20000000
  | 4 => some 0x40000000
  | _ => none

/-- The divisors of 1,000,000, the product of the powers 0–6 of 2 and of 5 (R39). -/
def progDivisors : List Nat := (List.range 7).flatMap fun a => (List.range 7).map fun b => 2 ^ a * 5 ^ b

/-- The PROG period: clamped to 10–1,000,000, then brought to the largest divisor of 1,000,000 not above it; one clamp in
all (R39). -/
def clampProg (v : Nat) : Clamped Nat :=
  let r := (clampRange 10 1000000 v).1
  let d := (progDivisors.filter (· ≤ r)).foldl max 1
  (d, if d = v then 0 else 1)

/-- The log capacity: 1–15 becomes 16 and above 1,024 becomes 1,024 (R40). -/
def clampCapacity (v : Nat) : Clamped Nat := if v = 0 then (0, 0) else clampRange 16 1024 v

/-! ### Entries as they stand in the image -/

/-- Window `w` of a slot entry's 128 bytes, in bytes of address (R33, Table 11-7). -/
def readWindow (entry : List Byte) (w : Fin 6) : Window where
  base := field entry (32 + 16 * w.val) 4 * 4096
  size := field entry (36 + 16 * w.val) 4 * 4096
  read := flagAt entry (40 + 16 * w.val)
  write := flagAt entry (41 + 16 * w.val)

/-- The 128 bytes of slot entry `n` (Table 11-6). -/
def slotEntry (img : PlanImage) (n : Slot) : List Byte := img.getD (1 + 2 * n.val) [] ++ img.getD (2 + 2 * n.val) []

/-- The 16 bytes of ring entry `r` (Table 11-6). -/
def ringEntry (img : PlanImage) (r : RingNo) : List Byte := (img.getD (25 + r.val / 4) []).drop (16 * (r.val % 4))

/-- Ring entry `r` before its range checks (Table 11-8). -/
def rawRing (img : PlanImage) (r : RingNo) : RingPlan :=
  let e := ringEntry img r
  { base := field e 0 4 * 128, count := field e 4 2, high := field e 6 2, low := field e 8 2, attention := flagAt e 10 }

/-- Slot entry `n` after its range checks (Table 3-2, Table 11-7). -/
def readSlotPlan (img : PlanImage) (n : Slot) : Clamped SlotPlan :=
  let e := slotEntry img n
  let enabled := flagAt e 0
  let key := field e 8 4
  let period := clampRange 10 10000 (field e 12 2)
  let delay := clampRange 0 5000 (field e 14 2)
  let debounce := clampRange 1 1000 (field e 16 2)
  let good := clampRange 1 5000 (field e 18 2)
  let training := clampRange 1 5000 (field e 20 2)
  let strobe := tickKindOf (field e 22 1)
  ({ enabled := enabled || n.val == 0
     expected := flagAt e 1
     fenceOnHeartbeat := flagAt e 2
     violationLimit := field e 3 1
     expectedKind := field e 4 2
     minRevision := field e 6 2
     key := if key = 0 then 1 else BitVec.ofNat 32 key
     heartbeatPeriod := period.1
     admitDelay := delay.1
     debounce := debounce.1
     powerGoodLimit := good.1
     trainingLimit := training.1
     strobeKind := strobe.1
     strobeDelay := field e 24 2
     windows := tabulate (readWindow e) },
   (if n.val == 0 && !enabled then 1 else 0) + (if key = 0 then 1 else 0) + period.2 + delay.2 + debounce.2 + good.2
     + training.2 + strobe.2)

/-- Ring entry `r` after its range checks: the thresholds of a present ingress ring, the high threshold first (R36). -/
def readRingPlan (img : PlanImage) (r : RingNo) : Clamped RingPlan :=
  let x := rawRing img r
  if x.count = 0 ∨ r.val % 2 = 0 then (x, 0)
  else
    let high := clampRange 1 x.count x.high
    let low := clampRange 0 (high.1 - 1) x.low
    ({ x with high := high.1, low := low.1 }, high.2 + low.2)

/-- Class entry `c` after its range checks (Table 3-4, Table 11-9). -/
def readClassPlan (img : PlanImage) (c : Cls) : Clamped ClassPlan :=
  let o := 8 * c.val
  let limit := clampRange 1 65535 (imageField img 49 o 2)
  let policy := policyOf (imageField img 49 (o + 2) 1)
  let batch := clampRange 1 16 (imageField img 49 (o + 3) 1)
  ({ holdLimit := limit.1, policy := policy.1, batchLimit := batch.1 }, limit.2 + policy.2 + batch.2)

/-- Gate entry `g` after its range checks (Table 3-5, Table 11-9). -/
def readGatePlan (img : PlanImage) (g : GateNo) : Clamped GatePlan :=
  let o := 8 * g.val
  let source := tickKindOf (imageField img 50 o 1)
  let mode := gateModeOf (imageField img 50 (o + 1) 1)
  let delay := clampRange 0 999 (imageField img 50 (o + 4) 2)
  let window := clampRange 1 65535 (imageField img 50 (o + 6) 2)
  ({ source := source.1, openDelay := delay.1, mode := mode.1, windowLength := window.1,
     traceable := flagAt (img.getD 50 []) (o + 2) },
   source.2 + mode.2 + delay.2 + window.2)

/-- The settings of reference 0 (A) or 1 (B) after their range checks (Table 3-6, Table 11-10). -/
def readRefPlan (img : PlanImage) (x : Nat) : Clamped RefPlan :=
  let o := 8 * x
  let qualify := clampRange 2 16 (imageField img 51 (o + 2) 1)
  let misses := clampRange 1 8 (imageField img 51 (o + 3) 1)
  let tolerance := clampRange 1 1000 (imageField img 51 (o + 6) 2)
  ({ enabled := flagAt (img.getD 51 []) o, owner := ownerOf (imageField img 51 (o + 1) 1), qualifyCount := qualify.1,
     missLimit := misses.1, cableDelay := imageField img 51 (o + 4) 2, tolerance := tolerance.1 },
   qualify.2 + misses.2 + tolerance.2)

/-- The clock section after its range checks (Table 3-6, Table 11-10). -/
def readClockPlan (img : PlanImage) : Clamped ClockPlan :=
  let a := readRefPlan img 0
  let b := readRefPlan img 1
  let first := priorityOf (imageField img 51 16 1)
  let gp := clampRange 1 4096 (imageField img 51 18 2)
  let gi := clampRange 0 256 (imageField img 51 20 2)
  let lockCount := clampRange 2 64 (imageField img 51 22 1)
  let fmax := clampRange 0 5120000 (imageField img 51 24 4)
  let slew := clampRange 0 2560000 (imageField img 51 28 4)
  let step := clampRange 100 1000000 (imageField img 51 32 4)
  let lock := clampRange 10 10000 (imageField img 51 36 2)
  let stray := clampRange 100 100000 (imageField img 51 40 4)
  let holdover := clampRange 60 86400 (imageField img 51 44 4)
  let prog := clampProg (imageField img 51 48 4)
  ({ refA := a.1, refB := b.1, first := first.1, revertive := flagAt (img.getD 51 []) 17, gp := gp.1, gi := gi.1,
     fmax := fmax.1, slew := slew.1, stepThreshold := step.1, lockThreshold := lock.1, lockCount := lockCount.1,
     strayLimit := stray.1, holdoverLimit := holdover.1, progPeriod := prog.1 },
   a.2 + b.2 + first.2 + gp.2 + gi.2 + lockCount.2 + fmax.2 + slew.2 + step.2 + lock.2 + stray.2 + holdover.2 + prog.2)

/-- The record of alarm point `i` after its range checks (Table 3-7, Table 11-11). -/
def readPointPlan (img : PlanImage) (i : Point) : Clamped PointPlan :=
  let e := (img.getD (52 + i.val / 8) []).drop (8 * (i.val % 8))
  let severity := severityOf (field e 0 1)
  let raise := clampRange 0 60000 (field e 4 2)
  let clear := clampRange 0 60000 (field e 6 2)
  ({ severity := severity.1, mask := flagAt e 1, force := flagAt e 2, raiseTime := raise.1, clearTime := clear.1 },
   severity.2 + raise.2 + clear.2)

/-- The sum of a clamp count over 0 … n − 1. -/
def clampSum (n : Nat) (f : Fin n → Nat) : Nat := (List.finRange n).foldl (fun s i => s + f i) 0

/-- The alarm section after its range checks (Table 3-7, Table 11-11). With capacity 0 there is no log ring and the base is
held as 0 (Table 11-16, log entry 16). -/
def readAlarmPlan (img : PlanImage) : Clamped AlarmPlan :=
  let hold := clampRange 1 3600 (imageField img 64 0 2)
  let capacity := clampCapacity (imageField img 64 8 2)
  ({ points := tabulate fun i => (readPointPlan img i).1
     eventHold := hold.1
     polarity := tabulate fun n => if imageField img 64 (16 + n.val) 1 = 0 then .opened else .closed
     logBase := if capacity.1 = 0 then 0 else imageField img 64 4 4 * 32
     logCapacity := capacity.1
     discardThreshold := imageField img 64 2 2 },
   clampSum 89 (fun i => (readPointPlan img i).2) + hold.2 + capacity.2)

/-- The plan of an image that has passed the structural checks, and its clamp count, which saturates at 65,535 (R44). -/
def readPlan (img : PlanImage) : Clamped Plan :=
  let clock := readClockPlan img
  let alarm := readAlarmPlan img
  ({ generation := imageField img 0 0 2
     memorySize := (memorySizeOf (imageField img 0 2 1)).getD 0
     slots := tabulate fun n => (readSlotPlan img n).1
     rings := tabulate fun r => (readRingPlan img r).1
     classes := tabulate fun c => (readClassPlan img c).1
     gates := tabulate fun g => (readGatePlan img g).1
     clock := clock.1
     alarm := alarm.1
     waiver := false },
   min 65535 (clampSum 12 (fun n => (readSlotPlan img n).2) + clampSum 96 (fun r => (readRingPlan img r).2)
     + clampSum 4 (fun c => (readClassPlan img c).2) + clampSum 8 (fun g => (readGatePlan img g).2) + clock.2 + alarm.2))

/-! ### Structural checks (Table 3-8) -/

/-- Two areas of addresses overlap. -/
def overlap (base₁ size₁ base₂ size₂ : Nat) : Bool := base₁ < base₂ + size₂ && base₂ < base₁ + size₁

/-- An entry count is a power of two from 16 to 4,096 (Table 3-3). -/
def ringCountValid (count : Nat) : Bool := [16, 32, 64, 128, 256, 512, 1024, 2048, 4096].contains count

/-- Check 3 fails at ring `r` (Table 3-8). -/
def ringFails (img : PlanImage) (memory : Nat) (r : RingNo) : Bool :=
  let x := rawRing img r
  x.count != 0 &&
    (!ringCountValid x.count || memory < x.base + 128 * x.count || x.base < 0x40000
      || anyFin 96 fun q =>
          let y := rawRing img q
          q.val < r.val && y.count != 0 && overlap x.base (128 * x.count) y.base (128 * y.count))

/-- Check 4 fails at a window (Table 3-8). -/
def windowFails (img : PlanImage) (memory : Nat) (x : Window) : Bool :=
  x.size != 0 &&
    (memory < x.base + x.size || x.base < 0x40000
      || anyFin 96 fun q =>
          let y := rawRing img q
          y.count != 0 && overlap x.base x.size y.base (128 * y.count))

/-- Check 6 fails for the log area (Table 3-8). -/
def logFails (img : PlanImage) (memory : Nat) : Bool :=
  let capacity := (clampCapacity (imageField img 64 8 2)).1
  let base := imageField img 64 4 4 * 32
  capacity != 0 &&
    (memory < base + 32 * capacity || base < 0x40000
      || (anyFin 96 fun q =>
          let y := rawRing img q
          y.count != 0 && overlap base (32 * capacity) y.base (128 * y.count))
      || anyFin 12 fun n => anyFin 6 fun w =>
          let y := readWindow (slotEntry img n) w
          y.size != 0 && overlap base (32 * capacity) y.base y.size)

/-- Windows in the order of check 4: slot × 6 + window number (Table 3-8). -/
def windowNo (k : Fin 72) : Slot × Fin 6 := (⟨k.val / 6, by omega⟩, ⟨k.val % 6, by omega⟩)

/-- The structural checks in the order of Table 3-8 for an operation of generation `g`: the section and entry of the first
that fails (R43). -/
def structuralFault (img : PlanImage) (g : Nat) : Option (PlanSection × Nat) :=
  let generation := imageField img 0 0 2
  if generation = 0 ∨ generation ≠ g then some (.header, 0)
  else
    match memorySizeOf (imageField img 0 2 1) with
    | none => some (.header, 1)
    | some memory =>
      match firstFin 96 (ringFails img memory) with
      | some r => some (.ring, r.val)
      | none =>
        match firstFin 72 fun k => windowFails img memory (readWindow (slotEntry img (windowNo k).1) (windowNo k).2) with
        | some k => some (.slot, k.val)
        | none =>
          if !ownerCodeValid (imageField img 51 1 1) then some (.clock, 0)
          else if !ownerCodeValid (imageField img 51 9 1) then some (.clock, 1)
          else if logFails img memory then some (.alarm, 0)
          else none

end Sys2Proof.Machine
end

