-- ==== Sys2Proof/Machine/State.lean ====
section
/-! DEFINITION. Sys2Proof/Machine/State.lean: the machine. `Part` is every piece of state the manual gives the CB-1204 and
the levels of its input pins; `State` adds the exchange memory behind the memory port and the queue of commands that wait. -/
namespace Sys2Proof.Machine

/-- The CB-1204 itself. -/
structure Part where
  /-- Oscillator periods since the last reset ended; the service clock is this count in µs (R123; log entry 12). -/
  osc        : Nat
  control    : ResetControl
  /-- Contact levels of ENV0–ENV7 (R167). -/
  env        : Vector Contact 8
  /-- The active plan (R47). -/
  plan       : Plan
  loader     : Loader
  ports      : Vector Port 12
  rings      : Vector Ring 96
  engine     : Engine
  watched    : Watched
  arbiter    : Arbiter
  /-- Reads granted and not completed, oldest first (R13). -/
  flights    : List Flight
  clock      : Clock
  gens       : Vector TickGen 5
  gates      : Vector Gate 8
  /-- The model's own mark: a SECOND tick has been emitted in the present oscillator period, so event holds are examined
  in it (R168; log entry 20). -/
  secondTick : Bool
  alarm      : Alarm
  status     : Status
  deriving DecidableEq, Repr

/-- The whole machine: the part, exchange memory (log entry 25), and the commands waiting, first in, first out (log
entry 28). -/
structure State where
  part    : Part
  memory  : Memory
  pending : List Instr
  deriving DecidableEq, Repr

/-- The machine never stops with a fault: every command has the effect the manual gives it, and where the manual gives it
none in the present state the machine goes on unchanged. So no constructor: nothing raises one, which is safe. -/
inductive Fault where
  deriving DecidableEq, Repr

/-- Reasons a command is refused. -/
inductive Refusal where
  /-- Raised by no arm of exec: every row of the table has its meaning. Safe. -/
  | notModelled (mnemonic : String)
  deriving DecidableEq, Repr

/-- The point record of a condition-type point right after a reset whose condition is true when the reset ends: raised at
once under the bootstrap raise time 0, at cabinet time 0 (R178). -/
def AlarmPoint.raisedAtReset : AlarmPoint where
  raw := true
  lastEvent := none
  state := .raised
  start := none
  raiseCount := 1
  lastChange := some { seconds := 0, ns := 0, epoch := 0 }

/-- The part right after a power-on reset has ended, with no card present, no power-good, every contact open, the supply
good and RESETN released (DESIGN CHOICE, log entry 15). Every block holds its reset values; the end of the reset has raised CARD_MISSING of slot 0 and
CLOCK_FREERUN, whose two log offers are counted in the overflow count, and marked the alarm summary dirty (R178, R192). -/
def Part.reset : Part where
  osc := 0
  control := { active := none, pinLow := false, supplyLow := false, dip := none, cause := .powerOn, warmCount := 0 }
  env := Vector.replicate 8 .opened
  plan := Plan.bootstrap
  loader := Loader.reset 0
  ports := Vector.replicate 12 (Port.reset false false)
  rings := Vector.replicate 96 Ring.reset
  engine := Engine.reset
  watched := Watched.reset
  arbiter := Arbiter.reset
  flights := []
  clock := Clock.reset
  gens := Vector.replicate 5 TickGen.reset
  gates := Vector.replicate 8 Gate.reset
  secondTick := false
  alarm := { Alarm.reset with
    points := ((Vector.replicate 89 AlarmPoint.reset).set 0 AlarmPoint.raisedAtReset).set 74 AlarmPoint.raisedAtReset }
  status := { Status.reset with
    dirty := ((Vector.replicate 17 false).set 0 true).set 16 true
    log := { LogRing.reset with nextSequence := 2, overflow := 2 } }

/-- The machine right after reset: a power-on reset that has ended, nothing listed in memory, no command waiting. -/
def State.reset : State := { part := Part.reset, memory := [], pending := [] }

end Sys2Proof.Machine
end

