-- ==== Sys2Proof/Machine/Flags.lean ====
section
/-! DEFINITION. Sys2Proof/Machine/Flags.lean: everything the part computes from its state without changing it: the clocks as
read, ring occupancy, the output pins, the conditions of the alarm points, the conditions of the heads, and when a timer
has expired. Output pins are views of the state, so a pin can never differ from the condition its rule gives. -/
namespace Sys2Proof.Machine

/-! ### Clocks -/

/-- The service clock in µs (R123). -/
def Part.now (p : Part) : Nat := p.osc / Config.periodsPerMicrosecond

/-- Cabinet time as handed to a reader (R125). -/
def Part.cabinetTime (p : Part) : CabinetTime :=
  { seconds := p.clock.seconds, ns := p.clock.ns, epoch := p.clock.epoch }

/-- Whether the part is running, that is, in no reset (R192). -/
def Part.running (p : Part) : Bool := p.control.active.isNone

/-- A µs timer running since `start` has run for `length` µs (R123). -/
def Part.elapsed (p : Part) (start : Option Nat) (length : Nat) : Bool :=
  match start with
  | some t => t + length ≤ p.now
  | none => false

/-! ### Rings -/

/-- The egress ring of a slot and class (R36). -/
def egressRing (n : Slot) (c : Cls) : RingNo := ⟨n.val * 8 + c.val * 2, by omega⟩

/-- The ingress ring of a slot and class (R36). -/
def ingressRing (n : Slot) (c : Cls) : RingNo := ⟨n.val * 8 + c.val * 2 + 1, by omega⟩

/-- The slot of a ring (R83). -/
def ringSlot (r : RingNo) : Slot := ⟨r.val / 8, by omega⟩

/-- The class of a ring (R83). -/
def ringClass (r : RingNo) : Cls := ⟨r.val % 8 / 2, by omega⟩

/-- Direction 0 is egress (R83). -/
def isEgress (r : RingNo) : Bool := r.val % 2 == 0

/-- The place of a slot and class in the watched-word copies. -/
def wordIndex (n : Slot) (c : Cls) : Fin 48 := ⟨n.val * 4 + c.val, by omega⟩

/-- A ring is present when its entry count is nonzero (R36). -/
def RingPlan.present (r : RingPlan) : Bool := r.count != 0

/-- Occupancy: (producer copy − consumer copy) modulo 65,536 (R84). -/
def Ring.occupancy (r : Ring) : Nat := (r.producer - r.consumer).toNat

/-- Free entries of a ring: entry count less occupancy (R84). -/
def Part.freeEntries (p : Part) (r : RingNo) : Nat := p.plan.rings[r].count - p.rings[r].occupancy

/-- The high flag of an ingress ring with occupancy `occ` (R97). -/
def highFlag (plan : RingPlan) (occ : Nat) (old : Bool) : Bool :=
  if plan.high < occ then true else if occ ≤ plan.low then false else old

/-- The head record of an egress ring, present exactly in take state HEAD (R89); an ingress ring takes nothing and has
none. -/
def Part.headRecord (p : Part) (r : RingNo) : Option Head :=
  match isEgress r, p.rings[r].take with
  | true, .head h => some h
  | _, _ => none

/-- A slot is ADMITTED. -/
def Part.admitted (p : Part) (n : Slot) : Bool := p.ports[n].state == .admitted

/-- The apply hold of R46 is in force: the loader is WAITING. -/
def Part.hold (p : Part) : Bool := p.loader.phase == .waiting

/-! ### Heads (6.2) -/

/-- Conditions of a head (R105). -/
inductive HeadCondition where
  | inCopy
  | stopped
  | ready
  | blocked
  deriving DecidableEq, Repr

/-- The copy in progress is a copy of the head of ring `r` (R105). -/
def Part.inCopy (p : Part) (r : RingNo) : Bool :=
  match p.engine.copy with
  | some c => c.ring == r && c.headPresent
  | none => false

/-- The copy in progress is a copy of the head of `r` to destination `d`. -/
def Part.copyingTo (p : Part) (r : RingNo) (d : Slot) : Bool :=
  match p.engine.copy with
  | some c => c.ring == r && c.headPresent && c.dest == d
  | none => false

/-- A copy involving slot `n`, as source or as destination, is in progress (R66, R71). -/
def Part.copyInvolves (p : Part) (n : Slot) : Bool :=
  match p.engine.copy with
  | some c => ringSlot c.ring == n || c.dest == n
  | none => false

/-- Destination `d` of a head of class `c` is ready (R105). -/
def Part.destReady (p : Part) (c : Cls) (h : Head) (d : Slot) : Bool :=
  p.admitted d && p.plan.rings[ingressRing d c].present && h.header.entries ≤ p.freeEntries (ingressRing d c)

/-- The gate condition of a head (R105): no gate named, the gate already passed, or the gate OPEN. A gate field of 8–254
is malformed and never reaches a head (R91). -/
def Part.gateMet (p : Part) (h : Head) : Bool :=
  if hg : h.header.gate < 8 then h.gatePassed || p.gates[h.header.gate].state == .opened else true

/-- The condition of the head `h` of egress ring `r`: the first line of R105 that applies. -/
def Part.headCondition (p : Part) (r : RingNo) (h : Head) : HeadCondition :=
  if p.inCopy r then .inCopy
  else if !p.admitted (ringSlot r) then .stopped
  else if p.gateMet h && h.dests.any (p.destReady (ringClass r) h) then .ready
  else .blocked

/-- The block reason of a BLOCKED head (R105). -/
def Part.blockReason (p : Part) (h : Head) : BlockReason :=
  if !p.gateMet h then .gate
  else if h.dests.any p.admitted then .space
  else .destDown

/-- Ring `r` is an egress ring whose head is in condition `k`. -/
def Part.headIs (p : Part) (r : RingNo) (k : HeadCondition) : Bool :=
  match p.headRecord r with
  | some h => p.headCondition r h == k
  | none => false

/-- Class `c` has a READY head (R107). -/
def Part.classReady (p : Part) (c : Cls) : Bool := anyFin 12 fun n => p.headIs (egressRing n c) .ready

/-! ### Output pins (Table 11-18), true for the driven, on or energised level (log entry 24) -/

/-- PWRENn (Table 4-1). -/
def Part.pwren (p : Part) (n : Slot) : Bool :=
  match p.ports[n].state with
  | .empty | .standby | .removing => false
  | .powering | .training | .quarantine | .admitting | .admitted => true
  | .fenced => !p.ports[n].powerRemoved

/-- An ingress ring of slot `n` that is present and has its attention flag set holds entries (R75). -/
def Part.ringAttention (p : Part) (n : Slot) : Bool :=
  anyFin 4 fun c =>
    let r := ingressRing n c
    p.plan.rings[r].present && p.plan.rings[r].attention && p.rings[r].producer != p.rings[r].consumer

/-- ATTNn (R75). -/
def Part.attn (p : Part) (n : Slot) : Bool :=
  p.admitted n && (p.ringAttention n || (n.val == 0 && p.status.log.producer != p.status.log.consumer))

/-- STROBEn (R161). -/
def Part.strobe (p : Part) (n : Slot) : Bool := p.ports[n].strobe.driven.isSome

/-- The relay output of a severity (R174); WARNING drives none. -/
def Part.relay (p : Part) (v : Severity) : Bool :=
  v != .warning && !p.alarm.cutoff && anyFin 89 fun i =>
    p.alarm.points[i].state == .raised && !p.plan.alarm.points[i].mask && p.plan.alarm.points[i].severity == v

/-! ### Alarm conditions (9.1) -/

/-- The raw condition the owner of per-slot point `kind` of slot `n` reports (Table 9-2); none for an event-type kind. -/
def Part.slotCondition (p : Part) (n : Slot) (kind : Nat) : Option Bool :=
  match kind with
  | 0 => some (p.plan.slots[n].expected && !p.admitted n)
  | 1 => some (p.ports[n].state == .fenced)
  | 2 => some p.ports[n].heartbeat.lost
  | 3 => some (anyFin 4 fun c => p.rings[ingressRing n c].high)
  | _ => none

/-- The raw condition the owner of a point reports (Tables 9-2 and 9-3, R167); none for an event-type point. -/
def Part.condition (p : Part) (i : Point) : Option Bool :=
  if h : i.val < 72 then p.slotCondition ⟨i.val / 6, by omega⟩ (i.val % 6)
  else if h : 81 ≤ i.val then some (p.env[i.val - 81] == p.plan.alarm.polarity[i.val - 81])
  else
    match i.val with
    | 72 => some (p.plan.clock.refA.enabled && p.clock.refA.state != .qualified)
    | 73 => some (p.plan.clock.refB.enabled && p.clock.refB.state != .qualified)
    | 74 => some (p.clock.state == .freerun)
    | 75 => some (p.clock.state == .holdover)
    | 76 => some p.clock.holdoverReached
    | 80 => some (p.plan.alarm.discardThreshold < p.alarm.discards)
    | _ => none

/-- The effective condition of a point with raw condition `raw` (R164). -/
def effective (plan : PointPlan) (raw : Bool) : Bool := raw || plan.force

/-- Point number slot × 6 + kind (R165). -/
def slotPoint (n : Slot) (kind : Fin 6) : Point := ⟨n.val * 6 + kind.val, by omega⟩

/-- The condition-type points of a slot: CARD_MISSING, CARD_FENCED, HEARTBEAT_LOST and INGRESS_HIGH (R165). -/
def slotPoints (n : Slot) : List Point := [slotPoint n 0, slotPoint n 1, slotPoint n 2, slotPoint n 3]

/-- The points the cabinet clock owns (R138). -/
def clockPoints : List Point := [72, 73, 74, 75, 76]

/-- Every alarm point in ascending order. -/
def allPoints : List Point := List.finRange 89

/-! ### Expiry of timers: true when the event is due at the present instant -/

/-- The presence timer of slot `n` has run for the presence debounce, and the level is `level` (R55). -/
def Part.presenceDue (p : Part) (n : Slot) (level : Bool) : Bool :=
  p.elapsed p.ports[n].presenceTimer (p.plan.slots[n].debounce * 1000)
    && p.ports[n].presentLevel == level && p.ports[n].presence != level

/-- The state timer reaches the power-good limit in POWERING (R57). -/
def Part.powerGoodDue (p : Part) (n : Slot) : Bool :=
  p.ports[n].state == .powering && p.elapsed p.ports[n].stateTimer (p.plan.slots[n].powerGoodLimit * 1000)

/-- The state timer reaches the training limit in TRAINING. While a reset-pin reset's bootstrap plan is active that is the
bootstrap training limit (R58, R82). -/
def Part.trainingDue (p : Part) (n : Slot) : Bool :=
  p.ports[n].state == .training && p.elapsed p.ports[n].stateTimer (p.plan.slots[n].trainingLimit * 1000)

/-- The state timer reaches the admit delay in ADMITTING (R62). -/
def Part.admitDue (p : Part) (n : Slot) : Bool :=
  p.ports[n].state == .admitting && p.elapsed p.ports[n].stateTimer (p.plan.slots[n].admitDelay * 1000)

/-- The heartbeat window expires (R74). -/
def Part.heartbeatDue (p : Part) (n : Slot) : Bool :=
  p.ports[n].heartbeat.supervising && !p.ports[n].heartbeat.lost
    && p.elapsed (some p.ports[n].heartbeat.windowStart) (p.plan.slots[n].heartbeatPeriod * 1000)

/-- No card READ of slot `n` is in flight, and no admission check read of it (R71). -/
def Part.noReadOf (p : Part) (n : Slot) : Bool :=
  p.flights.all fun f =>
    match f.purpose with
    | .card m _ _ _ => m != n
    | .check m _ => m != n
    | _ => true

/-- All that a slot in REMOVING waits for holds (R71). -/
def Part.removingDue (p : Part) (n : Slot) : Bool :=
  p.ports[n].state == .removing && p.ports[n].queue.isEmpty && p.noReadOf n && p.ports[n].check.isNone
    && !p.copyInvolves n && (!p.ports[n].powerCycle || p.elapsed p.ports[n].stateTimer Config.powerOffMicroseconds)

/-- Settlement of slot `n` is to be carried out: owed, no copy involving the slot, and not REMOVING, which R71 settles
(R66). -/
def Part.settlementDue (p : Part) (n : Slot) : Bool :=
  p.ports[n].settlementOwed && !p.copyInvolves n && p.ports[n].state != .removing

/-- A slot's settlement or its leaving REMOVING is due at this instant. After the end of a copy it comes before the engine
serves on (R113; log entry 8). -/
def Part.settlesFirst (p : Part) : Bool := anyFin 12 fun n => p.settlementDue n || p.removingDue n

/-- The head of an egress ring is BLOCKED and at or past its hold limit (R115). -/
def Part.holdDue (p : Part) (r : RingNo) : Bool :=
  match p.headRecord r with
  | some h => p.headCondition r h == .blocked
      && p.elapsed h.blockedSince p.plan.classes[ringClass r].holdLimit
  | none => false

/-- The conditions of R107 for a choice, which comes after a settlement of the same instant (R113). -/
def Part.choiceDue (p : Part) : Bool :=
  p.engine.copy.isNone && p.engine.batch.isNone && !p.hold && anyFin 4 p.classReady && !p.settlesFirst

/-- No header read is in flight (R89). -/
def Part.noHeaderRead (p : Part) : Bool :=
  p.flights.all fun f =>
    match f.purpose with
    | .header _ => false
    | _ => true

/-- The exchange engine is at rest (R46, R120). -/
def Part.engineAtRest (p : Part) : Bool := p.engine.copy.isNone && p.noHeaderRead && p.engine.waiting.isNone

/-- The status writer is at rest (R183), or was so but for the log records offered at this instant, which an activation may
follow (R188). -/
def Part.writerAtRest (p : Part) : Bool := p.status.progress.isNone && p.status.logQueue.length ≤ p.status.offered

/-- The loader is WAITING and both blocks are at rest, so it enters ACTIVATING (R46). -/
def Part.activationDue (p : Part) : Bool := p.hold && p.engineAtRest && p.writerAtRest

/-- The status writer begins a record (R181). -/
def Part.recordDue (p : Part) : Bool :=
  p.status.progress.isNone && p.status.logQueue.isEmpty && !p.hold && anyFin 17 fun k => p.status.dirty[k]

/-- The miss deadline of a QUALIFIED reference is reached (R132). -/
def Part.missDue (p : Part) (r : RefId) : Bool :=
  (p.clock.ref r).state == .qualified &&
    match (p.clock.ref r).deadline with
    | some t => t ≤ p.osc
    | none => false

/-- The holdover timer reaches the holdover limit (R137). -/
def Part.holdoverDue (p : Part) : Bool :=
  p.clock.state == .holdover && !p.clock.holdoverReached
    && p.elapsed p.clock.holdoverStart (p.plan.clock.holdoverLimit * 1000000)

/-- The open delay of an ARMED gate expires (R157). -/
def Part.gateDelayDue (p : Part) (g : GateNo) : Bool :=
  p.gates[g].state == .armed && p.elapsed (some p.gates[g].delayStart) p.plan.gates[g].openDelay

/-- The window of an OPEN gate in WINDOW mode ends (R159). -/
def Part.gateWindowDue (p : Part) (g : GateNo) : Bool :=
  p.gates[g].state == .opened && p.plan.gates[g].mode == .window
    && p.elapsed (some p.gates[g].windowStart) p.plan.gates[g].windowLength

/-- The choice due at this instant may close a PULSE gate: a READY head that has not passed its gate names one (R109, R158). A
READY head has its gate OPEN (R105), so after an activation, which closes every gate, there is none (R120, R160). -/
def Part.choiceMayClose (p : Part) : Bool :=
  p.choiceDue && anyFin 96 fun r =>
    match p.headRecord r with
    | some h => p.headCondition r h == .ready && !h.gatePassed
        && (if hg : h.header.gate < 8 then p.plan.gates[h.header.gate].mode == .pulse else false)
    | none => false

/-- An event of the part's own is due at this instant by which, or in the train of which, rings may join the take list or the
index write queue: one of a slot's events; a hold expiry; the end of a gate's window, or a choice that may close a PULSE gate,
after which heads past their hold limit may be BLOCKED; or the activation, which resets rings. The engine issues its next
access when none is left, so that all that joins at one instant has joined in ascending order (R89, R103, R110; log entry
30). -/
def Part.joinsDue (p : Part) : Bool :=
  (anyFin 12 fun n => p.settlementDue n || p.removingDue n || p.presenceDue n false || p.presenceDue n true
    || p.powerGoodDue n || p.trainingDue n || p.admitDue n || p.heartbeatDue n)
  || anyFin 96 p.holdDue
  || anyFin 8 p.gateWindowDue
  || p.choiceMayClose
  || p.activationDue

/-- The pending strobe's oscillator period is reached (R161). -/
def Part.strobeBeginDue (p : Part) (n : Slot) : Bool :=
  match p.ports[n].strobe.pending with
  | some t => t ≤ p.osc
  | none => false

/-- The strobe pulse has lasted 125 oscillator periods (R161). -/
def Part.strobeEndDue (p : Part) (n : Slot) : Bool :=
  match p.ports[n].strobe.driven with
  | some t => t + Config.strobePeriods ≤ p.osc
  | none => false

/-- The raise timer of a RISING point expires (R169). -/
def Part.raiseDue (p : Part) (i : Point) : Bool :=
  p.alarm.points[i].state == .rising
    && p.elapsed p.alarm.points[i].start (p.plan.alarm.points[i].raiseTime * 1000)

/-- The clear timer of a FALLING point expires (R170). -/
def Part.clearDue (p : Part) (i : Point) : Bool :=
  p.alarm.points[i].state == .falling
    && p.elapsed p.alarm.points[i].start (p.plan.alarm.points[i].clearTime * 1000)

/-- At a SECOND tick, the event hold of an event-type point whose raw condition is true has passed (R168). -/
def Part.eventHoldDue (p : Part) (i : Point) : Bool :=
  p.secondTick && (p.condition i).isNone && p.alarm.points[i].raw
    && p.elapsed p.alarm.points[i].lastEvent (p.plan.alarm.eventHold * 1000000)

/-- The dip timer has reached 2,000 µs (R193). -/
def Part.dipDue (p : Part) : Bool :=
  match p.control.dip with
  | some k => Config.dipPeriods ≤ k
  | none => false

/-- A power-on or supply-dip reset has begun and the supply has not stood above the threshold since: it is low and no dip
timer runs, because the monitor waits for its return (R192, R193). -/
def ResetControl.awaitsSupply (c : ResetControl) : Bool := c.supplyLow && c.dip.isNone

/-- Nothing holds the reset any longer: RESETN is released and no reset waits for the supply. A dip shorter than 2 ms in a
reset that RESETN alone still holds does not prolong it (R192, R193; log entry 14). -/
def Part.resetOver (p : Part) : Bool :=
  p.control.active.isSome && !p.control.pinLow && !p.control.awaitsSupply

end Sys2Proof.Machine
end

