-- ==== Sys2Proof/Machine/Operands.lean ====
section
/-! DEFINITION. Sys2Proof/Machine/Operands.lean: the forms of a request (R1), where a request lies (Table 1-2, R22–R24), the
outcome of the arrival checks (R5), the watched words a WRITE covers (Table 1-3, Tables 11-3 to 11-5), and the addresses of
rings, log records and index words. -/
namespace Sys2Proof.Machine

/-! ### Form of a request -/

/-- The number of bytes a request covers (R1). -/
def Request.length (q : Request) : Nat :=
  match q.body with
  | .read len => len
  | .write data => data.length

/-- Whether a request is a READ. -/
def Request.isRead (q : Request) : Bool :=
  match q.body with
  | .read _ => true
  | .write _ => false

/-- First byte address of a request. -/
def Request.first (q : Request) : Nat := q.addr.toNat

/-- Last byte address of a request of at least one byte. -/
def Request.last (q : Request) : Nat := q.first + (q.length - 1)

/-- The first and last bytes lie in the same aligned 64-byte block (R1). -/
def Request.inOneBlock (q : Request) : Bool := 1 ≤ q.length && q.first / 64 == q.last / 64

/-- A request is well formed (R1). -/
def Request.formed (q : Request) : Bool :=
  match q.body with
  | .read len => q.first % 4 == 0 && len % 4 == 0 && 4 ≤ len && len ≤ 64 && q.inOneBlock
  | .write data => data.length ≤ 64 && q.inOneBlock

/-- A request lies wholly within `size` bytes from `base` up. -/
def Request.within (q : Request) (base size : Nat) : Bool := base ≤ q.first && q.last < base + size

/-! ### The control region (1.4, 11.3) -/

/-- The parts of the control region (Table 1-2), and what lies outside it. -/
inductive Region where
  | plan
  | command
  | status
  | ringBlock (n : Slot)
  | admitArea (n : Slot)
  | unused
  | outside
  deriving DecidableEq, Repr

/-- First address of a slot's ring index block (Table 11-3). -/
def ringBlockBase (n : Slot) : Nat := 0x30000 + 0x100 * n.val

/-- First address of a slot's admit area (Table 11-4). -/
def admitBase (n : Slot) : Nat := 0x31000 + 0x40 * n.val

/-- First address of a slot's record in the status area (Table 11-12). -/
def slotRecordBase (n : Slot) : Nat := 0x20100 + 0x80 * n.val

/-- The part of exchange memory an address lies in (Table 1-2). -/
def regionOf (a : Nat) : Region :=
  if Config.controlEnd ≤ a then .outside
  else if a < 0x10000 then .plan
  else if a < 0x10100 then .command
  else if a < 0x20000 then .unused
  else if a < 0x30000 then .status
  else if h : a < 0x30C00 then .ringBlock ⟨(a - 0x30000) / 0x100, by omega⟩
  else if a < 0x31000 then .unused
  else if h : a < 0x31300 then .admitArea ⟨(a - 0x31000) / 0x40, by omega⟩
  else .unused

/-- The control-region rules of R7 and R8 for a request of slot `n`: none passes it. -/
def controlRule (n : Slot) (q : Request) : Option Reason :=
  match regionOf q.first with
  | .plan => if q.isRead || n.val == 0 then none else some .control
  | .command => if n.val == 0 then none else some .control
  | .status => if q.isRead then none else some .control
  | .ringBlock m =>
    if m != n then some .control
    else if q.isRead then none
    else if 0x44 ≤ q.last - ringBlockBase n then some .control
    else if q.last - ringBlockBase n < 0x20 || 0x40 ≤ q.first - ringBlockBase n then none
    else some .owned
  | .admitArea m => if m == n then none else some .control
  | .unused => some .control
  | .outside => none

/-! ### Rings, the log and windows outside the control region (Chapter 2) -/

/-- The bytes of a ring area (R22). -/
def RingPlan.areaSize (r : RingPlan) : Nat := 128 * r.count

/-- The present ring whose area holds an address (R22). -/
def Plan.ringAt (plan : Plan) (a : Nat) : Option RingNo :=
  firstFin 96 fun r => plan.rings[r].present && plan.rings[r].base ≤ a && a < plan.rings[r].base + plan.rings[r].areaSize

/-- A request lies wholly in the log area of the plan (R23). -/
def Plan.inLog (plan : Plan) (q : Request) : Bool :=
  plan.alarm.logCapacity != 0 && q.within plan.alarm.logBase (32 * plan.alarm.logCapacity)

/-- A window of slot `n` covers a request and grants the right it needs (R24 step 4). -/
def Plan.windowGrants (plan : Plan) (n : Slot) (q : Request) : Bool :=
  anyFin 6 fun w =>
    let x := plan.slots[n].windows[w]
    x.size != 0 && q.within x.base x.size && (if q.isRead then x.read else x.write)

/-- The steps of R24 for a request outside the control region: none passes it. A request lies in one 64-byte block, so one that
begins in a ring area lies in it whole; the log is laid out in 32 bytes, so one may lie in it in part, and no right covers
that one. -/
def windowRule (plan : Plan) (n : Slot) (q : Request) : Option Reason :=
  if plan.memorySize ≤ q.first then some .window
  else
    match plan.ringAt q.first with
    | some r => if ringSlot r == n && (q.isRead || isEgress r) then none else some .window
    | none =>
      if plan.inLog q then (if n.val == 0 && q.isRead then none else some .window)
      else if plan.windowGrants n q then none
      else some .window

/-- A request of a slot in QUARANTINE or ADMITTING that test 4 of R5 passes: wholly within the slot's admit area, or a READ
wholly within its slot record (R26). -/
def beforeAdmission (n : Slot) (q : Request) : Bool :=
  q.within (admitBase n) 0x40 || (q.isRead && q.within (slotRecordBase n) 0x80)

/-- The arrival checks of R5 in their order: the refusal reason, or none for a request that is accepted. -/
def arrivalCheck (plan : Plan) (port : Port) (n : Slot) (q : Request) : Option Reason :=
  if port.state == .fenced || port.state == .removing then some .fenced
  else if port.tags.contains q.tag then some .tagBusy
  else if !q.formed then some .boundary
  else if (port.state == .quarantine || port.state == .admitting) && !beforeAdmission n q then some .quarantine
  else if q.first < Config.controlEnd then controlRule n q
  else windowRule plan n q

/-- The refusal reasons that are access violations (Table 1-1). -/
def Reason.isViolation : Reason → Bool
  | .boundary | .quarantine | .control | .owned | .window => true
  | .fenced | .tagBusy | .memory => false

/-! ### Watched words (1.7) -/

/-- The 136 watched words (Table 1-3). -/
inductive WatchedWord where
  | egressProducer (n : Slot) (c : Cls)
  | ingressConsumer (n : Slot) (c : Cls)
  | heartbeat (n : Slot)
  | admitWord (n : Slot)
  | apply
  | logConsumer
  | cutoff
  | seconds
  | slotCommand (n : Slot)
  deriving DecidableEq, Repr

/-- The watched word at a word-aligned address (Tables 11-3, 11-4 and 11-5). -/
def watchedAt (a : Nat) : Option WatchedWord :=
  match regionOf a with
  | .ringBlock n =>
    let o := a - ringBlockBase n
    if h : o < 0x10 then some (.egressProducer n ⟨o / 4, by omega⟩)
    else if h : o < 0x20 then some (.ingressConsumer n ⟨(o - 0x10) / 4, by omega⟩)
    else if o == 0x40 then some (.heartbeat n)
    else none
  | .admitArea n => if a - admitBase n == 0x3C then some (.admitWord n) else none
  | .command =>
    let o := a - 0x10000
    if o == 0 then some .apply
    else if o == 4 then some .logConsumer
    else if o == 8 then some .cutoff
    else if o == 0xC then some .seconds
    else if h : 0x40 ≤ o ∧ o < 0x70 then some (.slotCommand ⟨(o - 0x40) / 4, by omega⟩)
    else none
  | _ => none

/-- The watched-word copy of a word (R17). -/
def Watched.get (w : Watched) : WatchedWord → Word
  | .egressProducer n c => w.egressProducer[wordIndex n c]
  | .ingressConsumer n c => w.ingressConsumer[wordIndex n c]
  | .heartbeat n => w.heartbeat[n]
  | .admitWord n => w.admitWords[n]
  | .apply => w.apply
  | .logConsumer => w.logConsumer
  | .cutoff => w.cutoff
  | .seconds => w.seconds
  | .slotCommand n => w.slotCommand[n]

/-- The copies with one word changed (R17, R18). -/
def Watched.set (w : Watched) (k : WatchedWord) (v : Word) : Watched :=
  match k with
  | .egressProducer n c => { w with egressProducer := modify w.egressProducer (wordIndex n c) fun _ => v }
  | .ingressConsumer n c => { w with ingressConsumer := modify w.ingressConsumer (wordIndex n c) fun _ => v }
  | .heartbeat n => { w with heartbeat := modify w.heartbeat n fun _ => v }
  | .admitWord n => { w with admitWords := modify w.admitWords n fun _ => v }
  | .apply => { w with apply := v }
  | .logConsumer => { w with logConsumer := v }
  | .cutoff => { w with cutoff := v }
  | .seconds => { w with seconds := v }
  | .slotCommand n => { w with slotCommand := modify w.slotCommand n fun _ => v }

/-- Byte `i` of a word at address `a` after a WRITE of `data` at address `start`: the WRITE's byte where it covers it, and
the copy's byte otherwise (R18). -/
def mergedByte (copy : Word) (a start : Nat) (data : List Byte) (i : Nat) : Byte :=
  if start ≤ a + i ∧ a + i < start + data.length then data.getD (a + i - start) 0
  else BitVec.ofNat 8 (copy.toNat / 256 ^ i)

/-- The merged value of the word at address `a` (R18). -/
def mergeWord (copy : Word) (a start : Nat) (data : List Byte) : Word :=
  BitVec.ofNat 32 (ofLe ((List.range 4).map (mergedByte copy a start data)))

/-- Word-aligned addresses of the words a WRITE covers in whole or in part, in ascending order: at most 16, since the WRITE
lies in one 64-byte block (R1, R18). -/
def coveredWords (start len : Nat) : List Nat :=
  ((List.range 16).map fun k => start / 64 * 64 + 4 * k).filter fun a => decide (start < a + 4 ∧ a < start + len)

/-! ### Addresses of ring entries, index words and log records -/

/-- Byte address of the entry with index `x` of a ring (R83). -/
def RingPlan.entryAddr (r : RingPlan) (x : Nat) : Nat := r.base + 128 * (x % r.count)

/-- Address of a ring's part-owned index word: the egress consumer or the ingress producer word (Table 11-3). -/
def partOwnedAddr (r : RingNo) : Nat :=
  ringBlockBase (ringSlot r) + (if isEgress r then 0x20 else 0x30) + 4 * (ringClass r).val

/-- The watched word a ring's card owns: the egress producer or the ingress consumer word (R98). -/
def cardOwnedWord (r : RingNo) : WatchedWord :=
  if isEgress r then .egressProducer (ringSlot r) (ringClass r) else .ingressConsumer (ringSlot r) (ringClass r)

/-- Bytes of an index word as the part writes it: the 16-bit value in the low half, 0 in the upper half (R84). -/
def indexWordBytes (v : BitVec 16) : List Byte := leBytes 4 v.toNat

/-- Address of the 64 bytes of block `b` of a frame whose first entry has index `first` in a ring (R111). -/
def RingPlan.blockAddr (r : RingPlan) (first b : Nat) : Nat := r.entryAddr (first + b / 2) + 64 * (b % 2)

/-- Address of the log record with index `x` (R188). -/
def LogRing.recordAddr (l : LogRing) (x : Nat) : Nat := l.base + 32 * (x % l.capacity)

end Sys2Proof.Machine
end

