-- ==== Sys2Proof/Machine/AlarmOps.lean ====
section
/-! DEFINITION. Sys2Proof/Machine/AlarmOps.lean: the shared operations of the status writer's dirty set and log queue, and
of the alarm unit's integration. They change the fields `alarm` and `status` of the part and no other. -/
namespace Sys2Proof.Machine

/-! ### Dirty set and alarm log (R180, R182, R189) -/

/-- A record is made dirty (R180). -/
def Status.mark (st : Status) (k : RecordNo) : Status := { st with dirty := modify st.dirty k fun _ => true }

/-- The writer issues the next access that is due, if it has none waiting: the front log record before a block (R182). -/
def Status.issue (st : Status) : Status :=
  match st.waiting with
  | some _ => st
  | none =>
    if !st.logQueue.isEmpty then { st with waiting := some .log }
    else if st.progress.isSome then { st with waiting := some .block }
    else st

/-- Occupancy of the log with `queued` accepted records not yet written (R188, R189). -/
def LogRing.occupied (l : LogRing) (queued : Nat) : Nat :=
  (l.producer + queued + 2 * l.capacity - l.consumer) % (2 * l.capacity)

/-- A log record is offered: it takes the next sequence number, and is accepted or counted as overflow (R189). -/
def Status.offerRecord (st : Status) (r : LogRecord) : Status :=
  let log := { st.log with nextSequence := st.log.nextSequence + 1 }
  if st.log.capacity != 0 && st.log.occupied st.logQueue.length < st.log.capacity then
    Status.issue { st with
      log := log
      logQueue := st.logQueue ++ [{ r with sequence := st.log.nextSequence }]
      offered := st.offered + 1 }
  else Status.mark { st with log := { log with overflow := st.log.overflow + 1 } } 16

/-- The record of a transition of point `i` is offered (R172). -/
def Status.offer (st : Status) (i : Point) (raised : Bool) (plan : PointPlan) (time : CabinetTime) : Status :=
  st.offerRecord { sequence := st.log.nextSequence, point := i, raised := raised, severity := plan.severity,
                   forced := plan.force, time := time }

/-- A record is made dirty (R180). -/
def Part.mark (k : RecordNo) (p : Part) : Part := { p with status := p.status.mark k }

/-- The number of a slot's status record (Table 10-1). -/
def slotRecordNo (n : Slot) : RecordNo := ⟨3 + n.val, by omega⟩

/-! ### Integration (9.3) -/

/-- What an alarm point works with: the plan's record of it, the service clock and cabinet time. -/
structure PointContext where
  plan : PointPlan
  now  : Nat
  time : CabinetTime

/-- A transition of point `i` into RAISED or into CLEAR (R171). -/
def transition (x : PointContext) (i : Point) (raised : Bool) (as : Alarm × Status) : Alarm × Status :=
  let pt := as.1.points[i]
  let pt' := { pt with
    state := if raised then .raised else .clear
    start := none
    raiseCount := if raised then min 255 (pt.raiseCount + 1) else pt.raiseCount
    lastChange := some x.time }
  let a := { as.1 with
    points := modify as.1.points i fun _ => pt'
    cutoff := as.1.cutoff && !(raised && !x.plan.mask) }
  let st := as.2.mark 16
  (a, if x.plan.mask then st else st.offer i raised x.plan x.time)

/-- Point `i` enters RISING, or RAISED at once where the raise time is 0 (R169). -/
def beginRise (x : PointContext) (i : Point) (as : Alarm × Status) : Alarm × Status :=
  if x.plan.raiseTime = 0 then transition x i true as
  else ({ as.1 with points := modify as.1.points i fun pt => { pt with state := .rising, start := some x.now } }, as.2)

/-- Point `i` enters FALLING, or CLEAR at once where the clear time is 0 (R170). -/
def beginFall (x : PointContext) (i : Point) (as : Alarm × Status) : Alarm × Status :=
  if x.plan.clearTime = 0 then transition x i false as
  else ({ as.1 with points := modify as.1.points i fun pt => { pt with state := .falling, start := some x.now } }, as.2)

/-- Point `i` acts on its effective condition (R169, R170). -/
def react (x : PointContext) (i : Point) (as : Alarm × Status) : Alarm × Status :=
  let pt := as.1.points[i]
  match pt.state, effective x.plan pt.raw with
  | .clear, true => beginRise x i as
  | .rising, false =>
    ({ as.1 with points := modify as.1.points i fun pt => { pt with state := .clear, start := none } }, as.2)
  | .raised, false => beginFall x i as
  | .falling, true =>
    ({ as.1 with points := modify as.1.points i fun pt => { pt with state := .raised, start := none } }, as.2)
  | _, _ => as

/-- The owner of condition-type point `i` reports its raw condition; a report that changes nothing is none (R165). -/
def reportOn (x : PointContext) (i : Point) (raw : Bool) (as : Alarm × Status) : Alarm × Status :=
  if as.1.points[i].raw = raw then as
  else react x i ({ as.1 with points := modify as.1.points i fun pt => { pt with raw := raw } }, as.2)

/-- An event of event-type point `i` (R168). -/
def eventOn (x : PointContext) (i : Point) (as : Alarm × Status) : Alarm × Status :=
  react x i ({ as.1 with points := modify as.1.points i fun pt => { pt with raw := true, lastEvent := some x.now } }, as.2)

/-- The context of point `i` in a part. -/
def Part.context (p : Part) (i : Point) : PointContext :=
  { plan := p.plan.alarm.points[i], now := p.now, time := p.cabinetTime }

/-- The part with an alarm unit and a status writer. -/
def Part.withAlarm (p : Part) (as : Alarm × Status) : Part := { p with alarm := as.1, status := as.2 }

/-- An event of an event-type point reaches the alarm unit (R168). -/
def Part.raiseEvent (i : Point) (p : Part) : Part := p.withAlarm (eventOn (p.context i) i (p.alarm, p.status))

/-- The alarm unit takes the present conditions of the listed points from their owners (R165–R167). -/
def Part.report (points : List Point) (p : Part) : Part :=
  p.withAlarm (points.foldl (fun as i =>
    match p.condition i with
    | some raw => reportOn (p.context i) i raw as
    | none => as) (p.alarm, p.status))

/-- The raise timer of point `i` expires: RISING to RAISED, a transition (R169). -/
def Part.raisePoint (i : Point) (p : Part) : Part := p.withAlarm (transition (p.context i) i true (p.alarm, p.status))

/-- The clear timer of point `i` expires: FALLING to CLEAR, a transition (R170). -/
def Part.clearPoint (i : Point) (p : Part) : Part := p.withAlarm (transition (p.context i) i false (p.alarm, p.status))

/-- The event hold of point `i` has passed: the raw condition becomes false and the last event absent (R168). -/
def Part.endHold (i : Point) (p : Part) : Part :=
  p.withAlarm (react (p.context i) i
    ({ p.alarm with points := modify p.alarm.points i fun pt => { pt with raw := false, lastEvent := none } }, p.status))

/-- At an activation or at the end of a reset every point's effective condition is found afresh, once, as it then stands: a
condition that changed and changed back within the activation makes no change (R176–R178; DESIGN CHOICE, log entry 37). -/
def Part.reintegrate (p : Part) : Part :=
  p.withAlarm (allPoints.foldl (fun as i =>
    let raw := match p.condition i with
      | some raw => raw
      | none => as.1.points[i].raw
    react (p.context i) i ({ as.1 with points := modify as.1.points i fun pt => { pt with raw := raw } }, as.2))
    (p.alarm, p.status))

/-- A raise or clear timer whose new length has already passed expires (R176). -/
def Part.expirePoints (p : Part) : Part :=
  forEach 89 (fun i q => if q.raiseDue i then q.raisePoint i else if q.clearDue i then q.clearPoint i else q) p

/-- Cut-off is set to a value; a change of it makes the alarm summary dirty (R175). -/
def Part.setCutoff (b : Bool) (p : Part) : Part :=
  if p.alarm.cutoff = b then p else Part.mark 16 { p with alarm := { p.alarm with cutoff := b } }

/-- The event points a slot's ring table and window check raise (R165), and the cabinet's (R166). -/
def ringFaultPoint (n : Slot) : Point := slotPoint n 4
def violationPoint (n : Slot) : Point := slotPoint n 5
def phaseStepPoint : Point := 77
def planRejectedPoint : Point := 78
def memoryErrorPoint : Point := 79

end Sys2Proof.Machine
end

