-- ==== Sys2Proof/Machine/ClockOps.lean ====
section
/-! DEFINITION. Sys2Proof/Machine/ClockOps.lean: the shared operations of the cabinet clock: the references, the selection,
the discipline computation, steps and steady advance (Chapter 7). Those on `Clock` change the clock alone. -/
namespace Sys2Proof.Machine

/-- One second in nanoseconds. -/
def nsPerSecond : Nat := 1000000000

/-- One second in oscillator periods (R123). -/
def periodsPerSecond : Nat := 125000000

/-- x ÷ d rounded to the nearest whole number, a half away from zero (R143). -/
def roundDiv (x : Int) (d : Nat) : Int :=
  if 0 ≤ x then (2 * x + d) / (2 * d) else -((-2 * x + d) / (2 * d))

/-- The increment for a correction C: 2³⁵ + round(C × 2²⁷ ÷ 10⁹) (R143). -/
def incrementOf (c : Int) : Nat := (34359738368 + roundDiv (c * 134217728) 1000000000).toNat

/-- A value brought to the range −limit to +limit (R143). -/
def clampTo (limit : Nat) (x : Int) : Int := max (-(limit : Int)) (min (limit : Int) x)

/-- The correction in force, and the increment with it (R135). -/
def Clock.setCorrection (k : Clock) (facc pTerm : Int) : Clock :=
  { k with facc := facc, p := pTerm, c := facc + pTerm, increment := incrementOf (facc + pTerm) }

/-- The clock leaves HOLDOVER: the holdover start becomes absent and the flag no (R137). -/
def Clock.enterAcquiring (k : Clock) : Clock :=
  { k with state := .acquiring, strays := 0, lock := 0, holdoverStart := none, holdoverReached := false }

/-- Entry to FREERUN or HOLDOVER at service-clock time `now`: P becomes 0, C becomes Facc; the holdover timer starts on
entry to HOLDOVER (R136, R137). -/
def Clock.loseReference (k : Clock) (toHoldover : Bool) (now : Nat) : Clock :=
  let k := k.setCorrection k.facc 0
  if toHoldover then { k with state := .holdover, holdoverStart := some now, holdoverReached := false }
  else { k with state := .freerun, holdoverStart := none, holdoverReached := false }

/-- The reference the selection finds (R133). -/
def Clock.found (k : Clock) (plan : ClockPlan) : Option RefId :=
  let other : RefId := if plan.first = .a then .b else .a
  let best := if (k.ref plan.first).state = .qualified then some plan.first
    else if (k.ref other).state = .qualified then some other else none
  match k.selected with
  | some r => if !plan.revertive && (k.ref r).state == .qualified then some r else best
  | none => best

/-- The selection is found afresh, and a change of it is taken (R133, R134, R136). -/
def Clock.select (k : Clock) (plan : ClockPlan) (now : Nat) : Clock :=
  let sel := k.found plan
  if sel = k.selected then k
  else
    let k := { k with selected := sel, strays := 0, lock := 0 }
    match sel with
    | some _ => k.enterAcquiring
    | none =>
      match k.state with
      | .acquiring => k.loseReference k.trained now
      | .tracking => k.loseReference true now
      | .freerun | .holdover => k

/-- Whether a reference is usable (R129). -/
def Part.usable (p : Part) (r : RefId) : Bool :=
  (p.plan.clock.ref r).enabled &&
    match (p.plan.clock.ref r).owner with
    | none => true
    | some n => p.admitted n

/-- References that are not usable are held in QUIET, and the selection is found afresh (R129, R133). -/
def Part.reviewReferences (p : Part) : Part :=
  let k := if p.usable .a then p.clock else { p.clock with refA := Reference.quiet }
  let k := if p.usable .b then k else { k with refB := Reference.quiet }
  { p with clock := k.select p.plan.clock p.now }

/-- The miss deadline after `misses` misses (R132). -/
def missDeadline (plan : RefPlan) (previous misses : Nat) : Nat :=
  previous + (misses + 1) * periodsPerSecond + plan.tolerance * Config.periodsPerMicrosecond

/-- A spacing lies within `seconds` s ± the tolerance, both ends included (R130, R131). -/
def goodSpacing (plan : RefPlan) (spacing seconds : Nat) : Bool :=
  seconds * periodsPerSecond ≤ spacing + plan.tolerance * Config.periodsPerMicrosecond
    && spacing ≤ seconds * periodsPerSecond + plan.tolerance * Config.periodsPerMicrosecond

/-- The record of a usable reference after a pulse at oscillator period `at_` (R130, R131). -/
def Reference.pulse (x : Reference) (plan : RefPlan) (at_ : Nat) : Reference :=
  let spacing := at_ - x.previous.getD 0
  match x.state with
  | .quiet => { x with state := .qualifying, run := 1, previous := some at_ }
  | .qualifying =>
    if goodSpacing plan spacing 1 then
      if plan.qualifyCount ≤ x.run + 1 then
        { state := .qualified, run := x.run + 1, previous := some at_, misses := 0,
          deadline := some (missDeadline plan at_ 0) }
      else { x with run := x.run + 1, previous := some at_ }
    else { x with run := 1, previous := some at_ }
  | .qualified =>
    if goodSpacing plan spacing (1 + x.misses) then
      { x with previous := some at_, misses := 0, deadline := some (missDeadline plan at_ 0) }
    else Reference.quiet

/-- A miss of a QUALIFIED reference (R132). -/
def Reference.miss (x : Reference) (plan : RefPlan) : Reference :=
  if plan.missLimit ≤ x.misses + 1 then Reference.quiet
  else { x with misses := x.misses + 1, deadline := some (missDeadline plan (x.previous.getD 0) (x.misses + 1)) }

/-- The phase error of a pulse at cabinet nanoseconds `n` with cable delay `d` (R139). -/
def phaseError (n d : Nat) : Int :=
  let a := if d ≤ n then n - d else n + nsPerSecond - d
  if a < 500000000 then (a : Int) else (a : Int) - 1000000000

/-- An update of the loop from phase error `e` (R143). -/
def Clock.update (k : Clock) (plan : ClockPlan) (e : Int) : Clock :=
  k.setCorrection (clampTo plan.fmax (k.facc - e * plan.gi)) (clampTo plan.slew (-e * plan.gp))

/-- A disciplined pulse in TRACKING (R140). -/
def Clock.trackingPulse (k : Clock) (plan : ClockPlan) (e : Int) : Clock :=
  if plan.strayLimit < e.natAbs then
    if 3 ≤ k.strays + 1 then k.enterAcquiring else { k with strays := k.strays + 1 }
  else Clock.update { k with strays := 0 } plan e

/-- A disciplined pulse in ACQUIRING that does not step (R141). -/
def Clock.acquiringPulse (k : Clock) (plan : ClockPlan) (e : Int) : Clock :=
  let k := k.update plan e
  let lock := if e.natAbs ≤ plan.lockThreshold then k.lock + 1 else 0
  if plan.lockCount ≤ lock then { k with lock := lock, state := .tracking, strays := 0, trained := true }
  else { k with lock := lock }

/-- A phase step by −e ns: the nanoseconds take the result, with a borrow from or a carry into the seconds; the step epoch
increases and the lock counter becomes 0 (R142). -/
def Clock.step (k : Clock) (e : Int) : Clock :=
  let t := (k.ns : Int) - e
  let k := { k with epoch := k.epoch + 1, lock := 0 }
  if t < 0 then { k with ns := (t + 1000000000).toNat, seconds := k.seconds - 1 }
  else if 1000000000 ≤ t then { k with ns := (t - 1000000000).toNat, seconds := k.seconds + 1 }
  else { k with ns := t.toNat }

/-- The fraction and the nanoseconds after one oscillator period, before a second is carried (R124). -/
def Clock.advancedFraction (k : Clock) : Nat := (k.fraction + k.increment) % 2 ^ 32
def Clock.advancedNs (k : Clock) : Nat := k.ns + (k.fraction + k.increment) / 2 ^ 32

/-- The increment of the next oscillator period carries the nanoseconds past a second (R124). -/
def Clock.turnoverNext (k : Clock) : Bool := nsPerSecond ≤ k.advancedNs

/-- One oscillator period of steady advance with no second turnover (R124). -/
def Clock.advance (k : Clock) : Clock := { k with fraction := k.advancedFraction, ns := k.advancedNs }

/-- One oscillator period of steady advance with a second turnover: the seconds increase, or take the pending SECONDS
value, which raises the step epoch (R124, R126, R127). -/
def Clock.turnover (k : Clock) : Clock :=
  let k := { k with fraction := k.advancedFraction, ns := k.advancedNs - nsPerSecond }
  match k.pendingSeconds with
  | none => { k with seconds := k.seconds + 1 }
  | some v => { k with seconds := v, epoch := k.epoch + 1, pendingSeconds := none }

/-- The whole seconds of service-clock time since the holdover start, 0 outside HOLDOVER (R137). -/
def Part.holdoverSeconds (p : Part) : Nat :=
  match p.clock.state, p.clock.holdoverStart with
  | .holdover, some t => (p.now - t) / 1000000
  | _, _ => 0

end Sys2Proof.Machine
end

