-- ==== Sys2Proof/Machine/TickOps.lean ====
section
/-! DEFINITION. Sys2Proof/Machine/TickOps.lean: the shared operations of the tick unit: boundaries, ticks and their receivers,
gates and strobe schedules (Chapter 8). -/
namespace Sys2Proof.Machine

/-- The period of a tick kind in ns (Table 8-1). -/
def Plan.period (plan : Plan) : TickKind → Nat
  | .second => 1000000000
  | .frame => 10000000
  | .subframe => 1000000
  | .half => 500000
  | .prog => plan.clock.progPeriod * 1000

/-- How far time `t` lies after time `b` in ns, negative if before. The seconds wrap, so their difference is read as the
nearer way round (R149: "ordered as steady advance of cabinet time reaches them"; DESIGN CHOICE, log entry 19). -/
def CabinetTime.since (t b : CabinetTime) : Int := (t.seconds - b.seconds).toInt * 1000000000 + t.ns - b.ns

/-- How many boundaries of a generator of period `period` lie after its last emitted one, up to and including time `t`
(R151). -/
def TickGen.passed (g : TickGen) (period : Nat) (t : CabinetTime) : Nat := (t.since g.last).toNat / period

/-- The boundary `n` periods after boundary `b`, with step epoch `epoch` (R149, R150). -/
def CabinetTime.after (b : CabinetTime) (n period : Nat) (epoch : Byte) : CabinetTime :=
  { seconds := b.seconds + BitVec.ofNat 32 ((b.ns + n * period) / nsPerSecond), ns := (b.ns + n * period) % nsPerSecond,
    epoch := epoch }

/-- The latest boundary of period `period` at or before `t` (R154, R155). -/
def CabinetTime.boundary (t : CabinetTime) (period : Nat) : CabinetTime := { t with ns := t.ns - t.ns % period }

/-- The next boundary of a kind has been reached by cabinet time (R150). -/
def Part.tickDue (p : Part) (k : TickKind) : Bool := 1 ≤ p.gens[kindNo k].passed (p.plan.period k) p.cabinetTime

/-! ### Gates (8.3) -/

/-- The clock state is one in which the traceable-time flag suppresses (R156, R157). -/
def ClockState.untraceable : ClockState → Bool
  | .freerun | .acquiring => true
  | .tracking | .holdover => false

/-- The open delay of a gate expires (R157). -/
def Gate.openNow (g : Gate) (plan : GatePlan) (clock : ClockState) (now : Nat) : Gate :=
  if plan.traceable && clock.untraceable then { g with state := .closed, suppressed := g.suppressed + 1 }
  else { g with state := .opened, opens := g.opens + 1, windowStart := if plan.mode = .window then now else g.windowStart }

/-- A tick of a gate's source kind (R156); an open delay of 0 expires at the instant of arming (R157). -/
def Gate.tick (g : Gate) (plan : GatePlan) (clock : ClockState) (now : Nat) : Gate :=
  match g.state with
  | .closed =>
    if plan.traceable && clock.untraceable then { g with suppressed := g.suppressed + 1 }
    else if plan.openDelay = 0 then Gate.openNow { g with state := .armed, delayStart := now } plan clock now
    else { g with state := .armed, delayStart := now }
  | .armed | .opened => { g with overruns := g.overruns + 1 }

/-- A copy start of a frame that names a gate: a gate in PULSE mode closes (R158). -/
def Gate.copyStart (g : Gate) (plan : GatePlan) : Gate :=
  if g.state = .opened && plan.mode = .pulse then { g with state := .closed } else g

/-! ### Strobes (8.4) -/

/-- A tick of a slot's strobe kind at oscillator period `osc` (R161). -/
def Strobe.tick (x : Strobe) (plan : SlotPlan) (osc : Nat) : Strobe :=
  if x.armed && x.pending.isNone && x.driven.isNone then { x with pending := some (osc + plan.strobeDelay / 8) } else x

/-! ### Ticks and their receivers (R150) -/

/-- A tick of kind `k` reaches the gates and the strobe schedules that take it. -/
def Part.tickReceivers (k : TickKind) (p : Part) : Part :=
  { p with
    gates := mapTable (fun g x =>
      if p.plan.gates[g].source = some k then x.tick p.plan.gates[g] p.clock.state p.now else x) p.gates
    ports := mapTable (fun n x =>
      if p.plan.slots[n].strobeKind = some k then { x with strobe := x.strobe.tick p.plan.slots[n] p.osc } else x) p.ports }

/-- The once-a-second work of a SECOND tick: the discard tally is closed and handed to the alarm unit, event holds are
examined, and the time record, the slot records and the gate record become dirty (R122, R150, R166, R168, R180). -/
def Part.secondWork (p : Part) : Part :=
  let p := { p with
    engine := { p.engine with lastSecond := p.engine.tally, tally := 0 }
    alarm := { p.alarm with discards := p.engine.tally }
    secondTick := true }
  let p := p.report [80]
  forEach 14 (fun k q => q.mark ⟨k.val + 2, by omega⟩) p

/-- One tick of kind `k` is emitted for the boundary `n` periods after the last: the record takes the boundary with the
current step epoch, the skipped count rises by n − 1, and the tick reaches its receivers (R150, R151). -/
def Part.emitTick (k : TickKind) (n : Nat) (p : Part) : Part :=
  let p := { p with gens := modify p.gens (kindNo k) fun g =>
    { last := g.last.after n (p.plan.period k) p.clock.epoch, skipped := g.skipped + BitVec.ofNat 32 (n - 1) } }
  let p := p.tickReceivers k
  if k = .second then p.secondWork else p

/-- A phase step reaches the tick unit: each record emits one tick for the latest of the boundaries a forward step passed;
after a backward step no boundary is passed (R151, R152). -/
def Part.stepTicks (p : Part) : Part :=
  tickKinds.foldl (fun q k =>
    let n := q.gens[kindNo k].passed (q.plan.period k) q.cabinetTime
    if n = 0 then q else q.emitTick k n) p

/-- A SECONDS application with difference `d` reaches the tick unit (R153). -/
def Part.shiftTicks (d : Word) (p : Part) : Part :=
  { p with gens := mapTable (fun _ g =>
      { g with last := { g.last with seconds := g.last.seconds + d, epoch := p.clock.epoch } }) p.gens }

/-- A change of the PROG period at an activation from the plan `old`: the formula of R154, which can give a boundary earlier than
the old last emitted one although R152 says that the record moves to no earlier boundary (DESIGN CHOICE, log entry 34; which of
two times is the later, log entry 19). -/
def Part.retimeProg (old : Plan) (p : Part) : Part :=
  if old.clock.progPeriod = p.plan.clock.progPeriod then p
  else { p with gens := modify p.gens 4 fun g =>
    let later := if (p.cabinetTime.since g.last) < 0 then g.last else p.cabinetTime
    { g with last := { later.boundary (p.plan.period .prog) with epoch := p.clock.epoch } } }

/-- At an activation every gate goes to CLOSED, its counts kept (R160). -/
def Part.closeGates (p : Part) : Part := { p with gates := mapTable (fun _ g => { g with state := .closed }) p.gates }

end Sys2Proof.Machine
end

