-- ==== Sys2Proof/Machine/ExchangeOps.lean ====
section
/-! DEFINITION. Sys2Proof/Machine/ExchangeOps.lean: the shared operations of the ring table and the exchange engine: index
writes, retirement, discards, ring resets, the destination rules, the copy and its service (Chapters 5 and 6). -/
namespace Sys2Proof.Machine

/-! ### Small changes of one record -/

def Part.modPort (n : Slot) (f : Port → Port) (p : Part) : Part := { p with ports := modify p.ports n f }
def Part.modRing (r : RingNo) (f : Ring → Ring) (p : Part) : Part := { p with rings := modify p.rings r f }
def Part.modGate (g : GateNo) (f : Gate → Gate) (p : Part) : Part := { p with gates := modify p.gates g f }
def Part.modEngine (f : Engine → Engine) (p : Part) : Part := { p with engine := f p.engine }
def Part.setWatched (k : WatchedWord) (v : Word) (p : Part) : Part := { p with watched := p.watched.set k v }
def Part.modCounters (n : Slot) (f : Counters → Counters) (p : Part) : Part :=
  p.modPort n fun x => { x with counters := f x.counters }

/-! ### Discards (R104, R122) -/

/-- The discard reasons (Table 6-2). -/
inductive Discard where
  | holdExpired
  | destDown
  | oversize
  | sourceDown
  | plan
  | memory
  deriving DecidableEq, Repr

/-- A discard counter increased by `k` (Table 6-2). -/
def Counters.discard (c : Counters) (why : Discard) (k : Word) : Counters :=
  match why with
  | .holdExpired => { c with holdExpired := c.holdExpired + k }
  | .destDown => { c with destDown := c.destDown + k }
  | .oversize => { c with oversize := c.oversize + k }
  | .sourceDown => { c with sourceDown := c.sourceDown + k }
  | .plan => { c with plan := c.plan + k }
  | .memory => { c with memory := c.memory + k }

/-- `k` copies are discarded against source slot `n`; each adds one to the discard tally, which saturates (R104, R103). -/
def Part.discard (why : Discard) (n : Slot) (k : Nat) (p : Part) : Part :=
  let p := p.modCounters n fun c => c.discard why (BitVec.ofNat 32 k)
  p.modEngine fun e => { e with tally := min 4294967295 (e.tally + k) }

/-! ### Index writes and the take list -/

/-- A write of a part-owned word is requested: it replaces the value of a write of that word already queued, and joins the
queue otherwise (R103). -/
def requestIndex (q : List IndexWrite) (w : IndexWrite) : List IndexWrite :=
  if q.any fun x => x.ring == w.ring then q.map fun x => if x.ring = w.ring then w else x else q ++ [w]

def Part.writeIndex (r : RingNo) (v : BitVec 16) (p : Part) : Part :=
  p.modEngine fun e => { e with indexQueue := requestIndex e.indexQueue { ring := r, value := v } }

/-- The take state of a ring is set, and its place in the take list with it: a ring is on the list exactly while LISTED
(R89). -/
def Part.setTake (r : RingNo) (t : Take) (p : Part) : Part :=
  let p := p.modRing r fun x => { x with take := t }
  p.modEngine fun e =>
    { e with takeList := if t = .listed then (if e.takeList.contains r then e.takeList else e.takeList ++ [r])
                         else e.takeList.filter (· != r) }

/-- A member inserted into an ascending list, after those with an equal key. -/
def insertBy {α : Type} (key : α → Nat) (x : α) : List α → List α
  | [] => [x]
  | y :: ys => if key x < key y then x :: y :: ys else y :: insertBy key x ys

/-- The list `new` with the members whose rings did not stand on it before brought to its end in ascending ring number order:
so join the rings of one instant (R89, R103). -/
def joinInOrder {α : Type} (ring : α → RingNo) (stood : List RingNo) (new : List α) : List α :=
  new.filter (fun x => stood.contains (ring x))
    ++ (new.filter fun x => !stood.contains (ring x)).foldl (fun l x => insertBy (fun y => (ring y).val) x l) []

/-- How the take list and the index write queue stood when the present instant began: as marked while it goes on, and otherwise
as they stand. -/
def Engine.instant (e : Engine) : Joined :=
  e.before.getD { takes := e.takeList, writes := e.indexQueue.map IndexWrite.ring }

/-- The take list and the index write queue in the order in which rings joined them since the instant began. -/
def Engine.orderJoins (stood : Joined) (e : Engine) : Engine :=
  { e with takeList := joinInOrder id stood.takes e.takeList
           indexQueue := joinInOrder IndexWrite.ring stood.writes e.indexQueue }

/-! ### Heads -/

/-- The copy in progress is no longer a copy of the head of ring `r`: its head is being dropped (R99). -/
def Part.orphanCopy (r : RingNo) (p : Part) : Part :=
  p.modEngine fun e => { e with copy := e.copy.map fun c => if c.ring = r then { c with headPresent := false } else c }

/-- The batch count increases by one if ring `r` is the batch ring (R108). -/
def Part.countBatch (r : RingNo) (p : Part) : Part :=
  p.modEngine fun e => { e with batch := e.batch.map fun b => if b.ring = r then { b with count := b.count + 1 } else b }

/-- The frame of `entries` entries at the head of egress ring `r` is retired (R94). -/
def Part.retire (r : RingNo) (entries : Nat) (p : Part) : Part :=
  let consumer := p.rings[r].consumer + BitVec.ofNat 16 entries
  let p := (p.modRing r fun x => { x with consumer := consumer }).writeIndex r consumer
  let p := p.orphanCopy r
  let p := p.setTake r (if p.rings[r].occupancy != 0 && p.admitted (ringSlot r) then .listed else .idle)
  p.countBatch r

/-- The head of ring `r` keeps the destinations for which `keep` holds; the others are discarded for reason `why`, and a
frame with an empty set is retired (R94, R104). -/
def Part.keepDests (r : RingNo) (h : Head) (why : Discard) (keep : Slot → Bool) (p : Part) : Part :=
  let kept := h.dests.filter keep
  if kept.length = h.dests.length then p
  else
    let p := p.discard why (ringSlot r) (h.dests.length - kept.length)
    if kept = [] then p.retire r h.header.entries
    else p.modRing r fun x => { x with take := .head { h with dests := kept } }

/-- The head of ring `r`, if it has one, is dropped with every destination still in its set counted for `why`; the take
state becomes IDLE (R66, R99, R100). -/
def Part.dropHead (r : RingNo) (why : Discard) (p : Part) : Part :=
  match p.headRecord r with
  | some h => ((p.discard why (ringSlot r) h.dests.length).orphanCopy r).setTake r .idle
  | none => p

/-- Destinations that are not ADMITTED leave a set: a broadcast destination always, a unicast destination under DROP, unless
the copy of this head to it is in progress (R116, R117; DEDUCED, log entry 27). -/
def Part.keepsDown (p : Part) (r : RingNo) (h : Head) (d : Slot) : Bool :=
  p.admitted d || p.copyingTo r d
    || (h.header.dest != 0xFF && p.plan.classes[ringClass r].policy == .hold)

/-- The destination rules of 6.6 applied to every head in ascending ring number order. -/
def Part.sweepDests (p : Part) : Part :=
  forEach 96 (fun r q =>
    match q.headRecord r with
    | some h => q.keepDests r h .destDown (q.keepsDown r h)
    | none => q) p

/-- A head's block reason and blocked-since in its present condition (R105, R106). -/
def Part.reviewHead (p : Part) (r : RingNo) (h : Head) : Head :=
  if p.headCondition r h = .blocked then
    { h with blockReason := p.blockReason h, blockedSince := some (h.blockedSince.getD p.now) }
  else { h with blockReason := .none }

/-- The engine re-evaluates the condition of every head (R106). -/
def Part.reviewHeads (p : Part) : Part :=
  { p with rings := mapTable (fun r x =>
      match x.take with
      | .head h => { x with take := .head (p.reviewHead r h) }
      | _ => x) p.rings }

/-! ### Ring resets (R98) and the high flag (R97) -/

/-- The high flag of an ingress ring follows its occupancy; an absent ring has the flag no (R97). -/
def Part.reviewHigh (r : RingNo) (p : Part) : Part :=
  if isEgress r then p
  else p.modRing r fun x =>
    { x with high := p.plan.rings[r].present && highFlag p.plan.rings[r] x.occupancy x.high }

/-- The reset of ring `r`: its copies and the copy of its card-owned word become 0, a write of 0 to its part-owned word is
requested, its head is dropped with the destinations counted for `why`, its take state becomes IDLE and its high flag no
(R98). -/
def Part.resetRing (why : Discard) (r : RingNo) (p : Part) : Part :=
  let p := (p.dropHead r why).setTake r .idle
  let p := p.modRing r fun x => { x with producer := 0, consumer := 0, high := false }
  (p.setWatched (cardOwnedWord r) 0).writeIndex r 0

/-! ### The copy (6.4) -/

/-- The copy in progress becomes absent. -/
def Part.endCopy (p : Part) : Part := p.modEngine fun e => { e with copy := none }

/-- A copy of the head `h` of ring `r` starts to destination `d` (R109). A first gate passage is reported to the tick unit. -/
def Part.startCopy (r : RingNo) (h : Head) (d : Slot) (p : Part) : Part :=
  let copy : Copy := { ring := r, dest := d, destPos := p.rings[ingressRing d (ringClass r)].producer, block := 0,
                       void := false, headPresent := true, due := .read }
  let q := p.modEngine fun e => { e with copy := some copy }
  if hg : h.header.gate < 8 then
    if h.gatePassed then q
    else
      let q := q.modRing r fun x => { x with take := .head { h with gatePassed := true } }
      q.modGate ⟨h.header.gate, hg⟩ fun g => g.copyStart p.plan.gates[h.header.gate]
  else q

/-- The READY head of ring `r` is served: its first ready destination is copied (R109). -/
def Part.serveHead (r : RingNo) (p : Part) : Part :=
  match p.headRecord r with
  | some h =>
    match h.dests.find? (p.destReady (ringClass r) h) with
    | some d => p.startCopy r h d
    | none => p
  | none => p

/-- The batch ends: the class's last-served slot becomes the batch ring's slot (R108). -/
def Part.endBatch (b : Batch) (p : Part) : Part :=
  p.modEngine fun e =>
    { e with batch := none, lastServed := modify e.lastServed (ringClass b.ring) fun _ => ringSlot b.ring }

/-- One of the conditions that end a batch holds (R108). They are tested with no copy in progress, as R108's "first instant, with
no copy in progress, at which any one of these holds" has it: a condition that arose during a copy and holds no longer at its
end, such as slot 0 out of ADMITTED and back in it during a copy that became void, does not end the batch, though R108 and R118
can be read so that it does (DESIGN CHOICE, log entry 35). -/
def Part.batchOver (p : Part) (b : Batch) : Bool :=
  p.plan.classes[ringClass b.ring].batchLimit ≤ b.count
    || p.rings[b.ring].take == .idle || p.rings[b.ring].take == .waiting
    || p.headIs b.ring .blocked
    || !p.admitted (ringSlot b.ring)
    || (anyFin 4 fun c => c.val < (ringClass b.ring).val && p.classReady c)
    || p.hold

/-- With no copy in progress the batch ends, or its READY head's next copy starts, after a settlement of the same instant
(R108, R113). -/
def Part.serveBatch (p : Part) : Part :=
  match p.engine.copy, p.engine.batch with
  | none, some b =>
    if p.batchOver b then p.endBatch b
    else if p.headIs b.ring .ready && !p.settlesFirst then p.serveHead b.ring
    else p
  | _, _ => p

/-- The engine issues the next access that is due if it has none waiting: an index write, a header read, the copy's next
access; under the apply hold only the copy's (R89, R110, R120). -/
def Part.issueEngine (p : Part) : Part :=
  match p.engine.waiting with
  | some _ => p
  | none =>
    let copyAccess := match p.engine.copy with
      | some c =>
        match c.due with
        | .nothing => p
        | .read => p.modEngine fun e => { e with waiting := some .copyRead, copy := some { c with due := .nothing } }
        | .write data =>
          p.modEngine fun e => { e with waiting := some (.copyWrite data), copy := some { c with due := .nothing } }
        | .producer => p.modEngine fun e => { e with waiting := some .copyProducer, copy := some { c with due := .nothing } }
      | none => p
    if p.hold then copyAccess
    else
      match p.engine.indexQueue, p.engine.takeList, p.noHeaderRead with
      | w :: rest, _, _ => p.modEngine fun e => { e with waiting := some (.index w), indexQueue := rest }
      | [], r :: _, true => (p.setTake r .reading).modEngine fun e => { e with waiting := some (.header r) }
      | _, _, _ => copyAccess

/-- The instant is over for the exchange: what joins from now on joins behind what stands on the lists, and the engine issues
the next access that is due (R89, R103, R110). -/
def Part.closeInstant (p : Part) : Part := (p.modEngine fun e => { e with before := none }).issueEngine

/-- The end of what an event does to the exchange: while a WRITE's words are being handed over, or another event by which
rings may join is due at the same instant, the instant goes on and no access is issued; otherwise the instant is over
(R89, R103, R110; log entry 30). -/
def Part.endInstant (stood : Joined) (p : Part) : Part :=
  if p.engine.handing || p.joinsDue then p.modEngine fun e => { e with before := some stood } else p.closeInstant

/-- What the exchange does at the instant of an event that may have changed a slot's state, a ring, a gate or a head: the
destination rules, the order of joins, service within the batch, the conditions of the heads, and the issue of the next
access. `old` is the engine before the event. -/
def Part.settleExchange (old : Engine) (p : Part) : Part :=
  let p := p.sweepDests
  let p := p.modEngine (Engine.orderJoins old.instant)
  (p.serveBatch.reviewHeads).endInstant old.instant

/-- Several observations handed over at one instant: the engine issues its next access after the last of them (R18, R103). -/
def Part.handingOver (f : Part → Part) (p : Part) : Part :=
  let stood := p.engine.instant
  let q := f (p.modEngine fun e => { e with before := some stood, handing := true })
  (q.modEngine fun e => { e with handing := false }).endInstant stood

/-! ### The take (5.4) -/

/-- The number of entries a frame of payload length `n` occupies (R85). -/
def entriesFor (n : Nat) : Nat := if n ≤ 112 then 1 else 1 + (n - 112 + 127) / 128

/-- The six card fields of a frame header (Table 11-2). -/
def readHeader (bytes : List Byte) : FrameHeader where
  dest := field bytes 0 1
  tag := field bytes 1 1
  entries := field bytes 2 1
  gate := field bytes 3 1
  length := field bytes 4 2
  sequence := field bytes 6 2

/-- A header in an egress ring of slot `n` is malformed (R91). -/
def FrameHeader.malformed (h : FrameHeader) (n : Slot) : Bool :=
  (12 ≤ h.dest && h.dest ≤ 254) || h.dest == n.val
    || h.entries == 0 || 16 < h.entries
    || h.length == 0 || 2032 < h.length
    || h.entries != entriesFor h.length
    || (8 ≤ h.gate && h.gate ≤ 254)

/-- The set of slots owed a copy of a frame taken from an egress ring of slot `n` and class `c` (R93). -/
def Part.destinations (p : Part) (n : Slot) (c : Cls) (h : FrameHeader) : List Slot :=
  if h.dest = 0xFF then
    (List.finRange 12).filter fun d => d != n && p.admitted d && p.plan.rings[ingressRing d c].present
  else (List.finRange 12).filter fun d => d.val == h.dest

/-- A frame is taken: the head record and its destination set are formed, and the owed, DEST_DOWN and OVERSIZE counts with
them (R92, R93). -/
def Part.takeFrame (r : RingNo) (h : FrameHeader) (p : Part) : Part :=
  let n := ringSlot r
  let c := ringClass r
  let set := p.destinations n c h
  let present := set.filter fun d => p.plan.rings[ingressRing d c].present
  let fits := present.filter fun d => h.entries ≤ p.plan.rings[ingressRing d c].count
  let p := p.modCounters n fun k => { k with owed := k.owed + BitVec.ofNat 32 set.length }
  let p := if present.length = set.length then p else p.discard .destDown n (set.length - present.length)
  let p := if fits.length = present.length then p else p.discard .oversize n (present.length - fits.length)
  if fits = [] then p.retire r h.entries
  else p.setTake r (.head { header := h, taken := p.cabinetTime, dests := fits, blockedSince := none,
                            blockReason := .none, gatePassed := false })

/-- A malformed header: every posted entry of the ring is abandoned (R91). -/
def Part.malformedHeader (r : RingNo) (p : Part) : Part :=
  let p := (p.modRing r fun x => { x with consumer := x.producer }).writeIndex r p.rings[r].producer
  let p := p.modCounters (ringSlot r) fun k => { k with malformed := k.malformed + 1 }
  (p.setTake r .idle).raiseEvent (ringFaultPoint (ringSlot r))

/-! ### Index words of the cards (R87, R88, R96) -/

/-- An index value is not taken: RING_FAULT is raised and the slot's ring fault count rises, saturating (R88). -/
def Part.ringFault (n : Slot) (p : Part) : Part :=
  (p.modPort n fun x => { x with ringFaults := min 65535 (x.ringFaults + 1) }).raiseEvent (ringFaultPoint n)

/-- Entries of the frame at the consumer copy that may not be withdrawn: those of a head record, or the first entry of a
frame whose header is being read (R87). -/
def Take.keeps : Take → Nat
  | .head h => h.header.entries
  | .reading => 1
  | _ => 0

/-- The ring table takes producer value `v` of egress ring `r` (R87). -/
def Part.takeProducer (r : RingNo) (v : BitVec 16) (p : Part) : Part :=
  let x := p.rings[r]
  let p := p.modRing r fun x => { x with producer := v }
  if (x.take = .idle ∨ x.take = .waiting) ∧ v ≠ x.producer ∧ v ≠ x.consumer ∧ p.admitted (ringSlot r) = true then
    p.setTake r .listed
  else if (x.take = .listed ∨ x.take = .waiting) ∧ v = x.consumer then p.setTake r .idle
  else p

/-- The two conditions under which the ring table takes producer value `v` of egress ring `r` (R87). -/
def Part.producerSound (p : Part) (r : RingNo) (v : BitVec 16) : Bool :=
  (v - p.rings[r].consumer).toNat ≤ p.plan.rings[r].count && p.rings[r].take.keeps ≤ (v - p.rings[r].consumer).toNat

/-- The ring table judges an egress producer value (R87). -/
def Part.judgeProducer (r : RingNo) (v : BitVec 16) (p : Part) : Part :=
  if !p.plan.rings[r].present then p
  else if p.producerSound r v then (p.takeProducer r v).settleExchange p.engine
  else p.ringFault (ringSlot r)

/-- Consumer value `v` of ingress ring `r` lies between the consumer copy and the producer copy (R96). -/
def Part.consumerSound (p : Part) (r : RingNo) (v : BitVec 16) : Bool :=
  (p.rings[r].producer - v).toNat ≤ p.rings[r].occupancy

/-- The ring table judges an ingress consumer value (R96). -/
def Part.judgeConsumer (r : RingNo) (v : BitVec 16) (p : Part) : Part :=
  if !p.plan.rings[r].present then p
  else if p.consumerSound r v then
    (((p.modRing r fun x => { x with consumer := v }).reviewHigh r).settleExchange p.engine).report [slotPoint (ringSlot r) 3]
  else p.ringFault (ringSlot r)

/-! ### Copy accesses completed or granted (R111–R114) -/

/-- The bytes of a block with the stamped frame header in its first 16 bytes (R112, R195). -/
def stampHeader (src : Slot) (h : Head) (block : List Byte) : List Byte :=
  leBytes 1 h.header.dest ++ leBytes 1 h.header.tag ++ leBytes 1 h.header.entries ++ leBytes 1 h.header.gate
    ++ leBytes 2 h.header.length ++ leBytes 2 h.header.sequence ++ leBytes 1 src.val ++ [h.taken.epoch]
    ++ leBytes 2 h.taken.seconds.toNat ++ leBytes 4 h.taken.ns ++ block.drop 16

/-- A block read of the copy completes with good data: the write of the block becomes due; a void copy ends (R99, R111). -/
def Part.copyBlockRead (c : Copy) (data : List Byte) (p : Part) : Part :=
  if c.void then p.endCopy
  else
    let bytes := match p.headRecord c.ring with
      | some h => if c.block = 0 then stampHeader (ringSlot c.ring) h data else data
      | none => data
    p.modEngine fun e => { e with copy := some { c with due := .write bytes } }

/-- A block write of the copy is granted: the read of the next block is due, or the producer word write after the last; a
void copy ends (R99, R111). -/
def Part.copyBlockWritten (c : Copy) (p : Part) : Part :=
  if c.void then p.endCopy
  else
    let entries := match p.headRecord c.ring with
      | some h => h.header.entries
      | none => 0
    let next : Copy := if c.block + 1 < 2 * entries then { c with block := c.block + 1, due := .read }
      else { c with due := .producer }
    p.modEngine fun e => { e with copy := some next }

/-- The producer value a copy delivers (R111). -/
def Part.deliveredProducer (p : Part) (c : Copy) : BitVec 16 :=
  match p.headRecord c.ring with
  | some h => c.destPos + BitVec.ofNat 16 h.header.entries
  | none => c.destPos

/-- The ingress producer word write of the copy is granted: the frame is delivered (R95, R113). -/
def Part.deliver (c : Copy) (p : Part) : Part :=
  match p.headRecord c.ring with
  | some h =>
    let into := ingressRing c.dest (ringClass c.ring)
    let p := p.modRing into fun x => { x with producer := x.producer + BitVec.ofNat 16 h.header.entries }
    let p := p.reviewHigh into
    let p := p.modCounters (ringSlot c.ring) fun k => { k with delivered := k.delivered + 1 }
    let p := p.modCounters c.dest fun k => { k with received := k.received + 1 }
    let p := p.endCopy
    let kept := h.dests.filter (· != c.dest)
    if kept = [] then p.retire c.ring h.header.entries
    else p.modRing c.ring fun x => { x with take := .head { h with dests := kept } }
  | none => p.endCopy

/-- A read of the copy completes with an uncorrectable error: the copy ends and its destination is counted MEMORY, unless
the copy was void and the destination counted already (R99, R114). -/
def Part.copyReadError (c : Copy) (p : Part) : Part :=
  let p := p.endCopy
  if c.void then p
  else
    match p.headRecord c.ring with
    | some h => p.keepDests c.ring h .memory (· != c.dest)
    | none => p

/-- The copy in progress is made void: it ends with its last issued access, and at once if none of its accesses is issued.
A producer word write that was issued and not granted is withdrawn, since a void copy writes no producer word (R99;
DEDUCED, log entry 17). -/
def Part.voidCopy (p : Part) : Part :=
  match p.engine.copy with
  | none => p
  | some c =>
    let flying := p.flights.any fun f => f.purpose == .copy
    match p.engine.waiting with
    | some .copyRead | some (.copyWrite _) => p.modEngine fun e => { e with copy := some { c with void := true } }
    | some .copyProducer => p.modEngine fun e => { e with copy := none, waiting := none }
    | _ =>
      if flying then p.modEngine fun e => { e with copy := some { c with void := true } }
      else p.endCopy

end Sys2Proof.Machine
end

