-- ==== Sys2Proof/Machine/SlotOps.lean ====
section
/-! DEFINITION. Sys2Proof/Machine/SlotOps.lean: the shared operations of the slot ports: requests across a fence or a lost
link, changes of state and their entries, settlement, admission, heartbeat supervision and the presence events
(Chapter 4). -/
namespace Sys2Proof.Machine

/-! ### Requests of a slot that is fenced, removed or loses its link (R11, R12) -/

/-- The queue after its READs are removed: WRITEs stay in their order (R11, R12). -/
def writesOnly (q : List Request) : List Request := q.filter fun r => !r.isRead

/-- The tags of the READs of a queue, oldest first. -/
def readTags (q : List Request) : List Tag := (q.filter Request.isRead).map Request.tag

/-- The slot's queued READs leave the queue and, while the link is up, their credits go back to the card (R4, R11, R12). -/
def Port.unqueueReads (x : Port) : Port :=
  { x with
    queue := writesOnly x.queue
    credits := if x.link then x.credits + (readTags x.queue).length else x.credits }

/-- R11 for the queued READs: REFUSAL FENCED is made for each of them, the oldest first (DESIGN CHOICE, log entry 4: the manual
gives no order); a tag stays in the table until its response is sent (R3). -/
def Port.refuseReads (x : Port) : Port :=
  { x.unqueueReads with unsent := x.unsent ++ (readTags x.queue).map fun t => .refusal t .fenced }

/-- R12 for the queued READs and for the responses already made and not yet sent: they are dropped, and their tags leave the
table. -/
def Port.dropReads (x : Port) : Port :=
  { x.unqueueReads with
    tags := x.tags.filter fun t => !(readTags x.queue).contains t && !(x.unsent.map Response.tag).contains t
    unsent := [] }

/-- The READs of slot `n` in flight are marked: fenced (R11) or dropped (R12). -/
def markFlights (n : Slot) (fence : Bool) (l : List Flight) : List Flight :=
  l.map fun (f : Flight) =>
    match f.purpose with
    | .card m t a b => if m = n then { f with purpose := .card m t (a || fence) (b || !fence) } else f
    | _ => f

/-- R11: the slot is fenced with its link up. The refusals of its queued READs are made oldest READ first, an order the manual
does not give (DESIGN CHOICE, log entry 4). -/
def Part.refuseRequests (n : Slot) (p : Part) : Part :=
  let p := { p with flights := markFlights n true p.flights }
  p.modPort n Port.refuseReads

/-- R12: the slot enters REMOVING or loses its link. -/
def Part.dropRequests (n : Slot) (p : Part) : Part :=
  let p := { p with flights := markFlights n false p.flights }
  p.modPort n Port.dropReads

/-- The link of a slot goes DOWN: the card holds no credit while it is not trained (R4). -/
def Port.linkDown (x : Port) : Port := { x with link := false, credits := 0 }

/-- The link of a slot trains: the card receives as many credits as the queue has free places (R4; log entry 7). -/
def Port.linkUp (x : Port) : Port := { x with link := true, credits := Config.queuePlaces - x.queue.length }

/-- An admission check ends without a result: its record is removed, and a read of it in flight is no longer live (R61). -/
def Part.cancelCheck (n : Slot) (p : Part) : Part :=
  let p := { p with flights := p.flights.map fun (f : Flight) =>
    match f.purpose with
    | .check m _ => if m = n then { f with purpose := .check m false } else f
    | _ => f }
  p.modPort n fun x => { x with check := none }

/-! ### Changes of state -/

/-- The four egress rings of a slot in take state LISTED, READING or WAITING return to IDLE (R101). -/
def Part.idleRings (n : Slot) (p : Part) : Part :=
  forEach 4 (fun c q =>
    match q.rings[egressRing n c].take with
    | .listed | .reading | .waiting => q.setTake (egressRing n c) .idle
    | .idle | .head _ => q) p

/-- What a slot port stops when its slot is not ADMITTED any longer: heartbeat supervision (the lost flag keeps its value),
the waived flag and the strobe schedule (R72, R77, R162). -/
def Port.stopService (x : Port) : Port :=
  { x with heartbeat := { x.heartbeat with supervising := false }, waived := false, strobe := Strobe.reset }

/-- A change of state of slot `n`: its status record becomes dirty (R54), and a slot that leaves ADMITTED stops its service
and its rings return to IDLE (R65, R101). -/
def Part.setState (n : Slot) (st : SlotState) (p : Part) : Part :=
  let was := p.admitted n
  let p := (p.modPort n fun x => { x with state := st }).mark (slotRecordNo n)
  if was then (p.modPort n Port.stopService).idleRings n else p

/-- Entry to EMPTY (R56, R29): power off, link DOWN. -/
def Part.enterEmpty (n : Slot) (p : Part) : Part :=
  (p.setState n .empty).modPort n fun x =>
    { x.linkDown with
      stateTimer := none, identity := none, identityShown := false, admitResult := .none, waived := false,
      heartbeat := { x.heartbeat with lost := false }, violations := 0, powerRemoved := false, fenceReason := .none }

/-- Entry to TRAINING: the state timer starts for the training limit and the link is DOWN until it trains (R58). -/
def Part.enterTraining (n : Slot) (p : Part) : Part :=
  (p.setState n .training).modPort n fun x => { x.linkDown with stateTimer := some p.now }

/-- Entry to POWERING: the state timer starts for the power-good limit; with PWRGDn already asserted the slot goes on to
TRAINING (R57). -/
def Part.enterPowering (n : Slot) (p : Part) : Part :=
  let q := (p.setState n .powering).modPort n fun x => { x.linkDown with stateTimer := some p.now }
  if p.ports[n].pwrgd then q.enterTraining n else q

/-- Entry to STANDBY; slot 0 goes on to POWERING at the same instant (R56). -/
def Part.enterStandby (n : Slot) (p : Part) : Part :=
  let q := (p.setState n .standby).modPort n fun x => { x.linkDown with stateTimer := none }
  if n.val = 0 then q.enterPowering n else q

/-- Entry to FENCED (R65). -/
def Part.enterFenced (n : Slot) (why : FenceReason) (powerOff : Bool) (p : Part) : Part :=
  let p := (p.setState n .fenced).cancelCheck n
  let p := if powerOff then p.modPort n Port.linkDown else p
  let p := if p.ports[n].link then p.refuseRequests n else p.dropRequests n
  p.modPort n fun x =>
    { x.stopService with
      fenceReason := why, powerRemoved := powerOff, stateTimer := none, settlementOwed := true, releaseHeld := false }

/-- Entry to REMOVING (R70); `cycle` for a power cycle of slot 0. The link keeps its state (DEDUCED, log entry 21). -/
def Part.enterRemoving (n : Slot) (cycle : Bool) (p : Part) : Part :=
  let p := ((p.setState n .removing).cancelCheck n).dropRequests n
  p.modPort n fun x =>
    { x.stopService with
      stateTimer := if cycle then some p.now else none, releaseHeld := false, fenceReason := .none, powerRemoved := false,
      powerCycle := cycle, settlementOwed := true }

/-- Slot 0 loses its link: TRAINING with power kept; settlement is owed if it was ADMITTED (R78). -/
def Part.retrain (n : Slot) (p : Part) : Part :=
  let was := p.admitted n
  let p := (((p.modPort n Port.linkDown).dropRequests n).cancelCheck n).enterTraining n
  if was then p.modPort n fun x => { x with settlementOwed := true } else p

/-- A slot of 1–11 is fenced with power removed, slot 0 is power-cycled (R57, R58, R64, R78). -/
def Part.powerFault (n : Slot) (why : FenceReason) (p : Part) : Part :=
  if n.val = 0 then p.enterRemoving n true else p.enterFenced n why true

/-- A slot of 1–11 is fenced with power kept; slot 0 keeps its state (R32, R69, R78). -/
def Part.fenceKeepingPower (n : Slot) (why : FenceReason) (p : Part) : Part :=
  if n.val = 0 then p else p.enterFenced n why false

/-- A slot is QUARANTINE, ADMITTING or ADMITTED. -/
def SlotState.linked : SlotState → Bool
  | .quarantine | .admitting | .admitted => true
  | .empty | .standby | .powering | .training | .removing | .fenced => false

/-! ### What a change of slot state reaches (R65) -/

/-- The instant of an event that may have changed slot states ends: the references and the selection are reviewed, the
exchange settles, and the conditions of the slots' and the clock's alarm points are reported (R65, R76, R129, R138). `old`
is the engine before the event. -/
def Part.settleSlots (old : Engine) (p : Part) : Part :=
  ((p.reviewReferences).settleExchange old).report ((List.finRange 12).flatMap slotPoints ++ clockPoints)

/-- An event of a slot port that may change slot states: the other blocks follow at the same instant (R65). -/
def Part.slotEvent (f : Part → Part) (p : Part) : Part := (f p).settleSlots p.engine

/-! ### Settlement and RELEASE (R66, R68) -/

/-- A RELEASE of a FENCED slot is taken (R68). The admit result keeps its value (R59). -/
def Part.takeRelease (n : Slot) (p : Part) : Part :=
  let x := p.ports[n]
  let q := p.modPort n fun x => { x with releaseHeld := false, fenceReason := .none, powerRemoved := false }
  if !x.powerRemoved then
    if x.link then q.setState n .quarantine else q.enterTraining n
  else if p.plan.slots[n].enabled then q.enterPowering n
  else q.enterStandby n

/-- Settlement of slot `n`: its heads are dropped SOURCE_DOWN, and its posted frames are abandoned (R66, R101). -/
def Part.settleSlot (n : Slot) (p : Part) : Part :=
  let p := forEach 4 (fun c q => q.dropHead (egressRing n c) .sourceDown) p
  let p := forEach 4 (fun c q =>
    let r := egressRing n c
    if q.plan.rings[r].present && q.rings[r].producer != q.rings[r].consumer then
      (q.modRing r fun x => { x with consumer := x.producer }).writeIndex r q.rings[r].producer
    else q) p
  p.modPort n fun x => { x with settlementOwed := false }

/-! ### Admission (R59–R63) -/

/-- Heartbeat supervision starts (R72). -/
def Part.startHeartbeat (n : Slot) (p : Part) : Part :=
  p.modPort n fun x => { x with heartbeat :=
    { supervising := true, expected := p.plan.slots[n].key, lastValid := none, windowStart := p.now, lost := false } }

/-- The strobe schedule of a slot is armed (R161). -/
def Part.armStrobe (n : Slot) (p : Part) : Part :=
  p.modPort n fun x => { x with strobe := { x.strobe with armed := true } }

/-- A slot is removed from the destination sets of heads whose copy into it has been made void: the destination is counted
DEST_DOWN against the source (R99). -/
def Part.voidInto (n : Slot) (p : Part) : Part :=
  match p.engine.copy with
  | some c =>
    if c.dest = n && c.headPresent && !c.void then
      match p.headRecord c.ring with
      | some h => (p.voidCopy).keepDests c.ring h .destDown (· != n)
      | none => p
    else p
  | none => p

/-- A copy out of an egress ring of slot `n` is void (R99). -/
def Part.voidFrom (n : Slot) (p : Part) : Part :=
  match p.engine.copy with
  | some c => if ringSlot c.ring = n then p.voidCopy else p
  | none => p

/-- Each present ring of slot `n` is reset at the end of its admit delay, after a copy in progress into or out of it has
been made void (R98, R99). -/
def Part.resetSlotRings (n : Slot) (p : Part) : Part :=
  let p := (p.voidInto n).voidFrom n
  forEach 8 (fun k q =>
    let r : RingNo := ⟨n.val * 8 + k.val, by omega⟩
    if q.plan.rings[r].present then q.resetRing .sourceDown r else q) p

/-- The end of the admit delay: everything of R63 at one instant, settlement no longer owed (R99). -/
def Part.admitSlot (n : Slot) (p : Part) : Part :=
  let p := ((p.resetSlotRings n).setState n .admitted).startHeartbeat n
  (p.armStrobe n).modPort n fun x =>
    { x with stateTimer := none, violations := 0, identityShown := true, settlementOwed := false }

/-- Entry to ADMITTING; an admit delay of 0 ms ends at the instant of entry (R62). -/
def Part.enterAdmitting (n : Slot) (p : Part) : Part :=
  let q := (p.setState n .admitting).modPort n fun x => { x with stateTimer := some p.now }
  if p.plan.slots[n].admitDelay = 0 then q.admitSlot n else q

/-- Slot 0 enters ADMITTED under the admission waiver (R77). -/
def Part.admitWaived (n : Slot) (p : Part) : Part :=
  (p.setState n .admitted).modPort n fun x =>
    { x with stateTimer := none, admitResult := .waived, waived := true, identity := none, identityShown := true,
             violations := 0 }

/-- Identity fails a slot entry: KIND or REVISION by the steps of R60, or none. -/
def identityFault (plan : SlotPlan) (x : Identity) : Option AdmitResult :=
  if plan.expectedKind ≠ 0 ∧ x.kind ≠ plan.expectedKind then some .kind
  else if x.revision < plan.minRevision then some .revision
  else none

/-- The identity in the 12 bytes of an admission check read (Table 11-4). -/
def readIdentity (bytes : List Byte) : Identity :=
  { kind := field bytes 0 2, revision := field bytes 2 2, serial := (bytes.drop 4).take 8 }

/-- The result of an admission check whose record was present (R60). -/
def Part.judgeCheck (n : Slot) (err : Bool) (bytes : List Byte) (p : Part) : Part :=
  let q := (p.modPort n fun x => { x with check := none }).mark (slotRecordNo n)
  if err then q.modPort n fun x => { x with admitResult := .memory }
  else
    match identityFault p.plan.slots[n] (readIdentity bytes) with
    | some why => q.modPort n fun x => { x with admitResult := why }
    | none =>
      (q.modPort n fun x =>
        { x with identity := some (readIdentity bytes), identityShown := false, admitResult := .passed }).enterAdmitting n

/-! ### Heartbeat (R73, R74) -/

/-- The lost flag becomes yes; with fence on heartbeat a slot of 1–11 is fenced (R73, R74, R78). -/
def Part.loseHeartbeat (n : Slot) (why : FenceReason) (p : Part) : Part :=
  let q := p.modPort n fun x => { x with heartbeat := { x.heartbeat with lost := true } }
  if p.plan.slots[n].fenceOnHeartbeat then q.fenceKeepingPower n why else q

/-- A heartbeat observation of a slot that is supervised (R73). -/
def Part.judgeHeartbeat (n : Slot) (v : Word) (p : Part) : Part :=
  let hb := p.ports[n].heartbeat
  if v = hb.expected then
    ((p.modPort n fun x => { x with heartbeat :=
      { x.heartbeat with windowStart := p.now, lastValid := some v, expected := ~~~v, lost := false } }).settleExchange
      p.engine).report [slotPoint n 2]
  else if hb.lastValid = some v then p
  else Part.slotEvent (Part.loseHeartbeat n .heartbeatInvalid) p

/-! ### Presence (R55) -/

/-- The presence timer after the level of PRESENTn or the debounced presence changed (R55). -/
def Port.debounce (x : Port) (now : Nat) : Port :=
  if x.presentLevel = x.presence then { x with presenceTimer := none }
  else if x.presenceTimer.isNone then { x with presenceTimer := some now }
  else x

/-- Presence found: the debounced presence becomes PRESENT, and an EMPTY slot goes to POWERING or STANDBY (R55, R56). -/
def Part.presenceIsFound (n : Slot) (p : Part) : Part :=
  let q := p.modPort n fun x => { x with presence := true, presenceTimer := none }
  if p.ports[n].state = .empty then
    if p.plan.slots[n].enabled then q.enterPowering n else q.enterStandby n
  else q

/-- Presence lost: the debounced presence becomes ABSENT, and the slot goes to EMPTY or REMOVING (R55–R58, R64, R67). -/
def Part.presenceIsLost (n : Slot) (p : Part) : Part :=
  let q := p.modPort n fun x => { x with presence := false, presenceTimer := none }
  match p.ports[n].state with
  | .standby | .powering | .training => q.enterEmpty n
  | .quarantine | .admitting | .admitted | .fenced => q.enterRemoving n false
  | .empty | .removing => q

/-- A slot leaves REMOVING: settlement, then the next state (R71). -/
def Part.leaveRemoving (n : Slot) (p : Part) : Part :=
  let cycle := p.ports[n].powerCycle
  let q := (p.settleSlot n).modPort n fun x => { x with powerCycle := false, stateTimer := none }
  if !p.ports[n].presence then q.enterEmpty n
  else if cycle then q.enterPowering n
  else q.enterStandby n

/-! ### Violations (R29–R31) -/

/-- An access violation of slot `n` is counted: the event is raised, and the slot is fenced at its limit (R29–R32). The event
ACCESS_VIOLATION (kind 5) is taken before the conditions CARD_MISSING and CARD_FENCED (kinds 0 and 1) that the fence brings
at the same instant, so its log record is offered first: an order R172 leaves open (DESIGN CHOICE, log entry 18). -/
def Part.violation (n : Slot) (p : Part) : Part :=
  let count := min 255 (p.ports[n].violations + 1)
  let q := (p.modPort n fun x => { x with violations := count }).raiseEvent (violationPoint n)
  if p.ports[n].state.linked && p.plan.slots[n].violationLimit != 0 && p.plan.slots[n].violationLimit ≤ count then
    q.fenceKeepingPower n .violations
  else q

/-! ### Timers of a slot that have expired at an activation (R80) -/

/-- The presence timer, the state timer and the heartbeat window of slot `n`, each expired if its new length has passed. -/
def Part.expireSlot (n : Slot) (p : Part) : Part :=
  let p := if p.presenceDue n true then p.presenceIsFound n else if p.presenceDue n false then p.presenceIsLost n else p
  let p := if p.powerGoodDue n then p.powerFault n .powerFault
    else if p.trainingDue n then p.powerFault n .trainTimeout
    else if p.admitDue n then p.admitSlot n else p
  if p.heartbeatDue n then p.loseHeartbeat n .heartbeatLost else p

end Sys2Proof.Machine
end

