-- ==== Sys2Proof/Machine/LoaderOps.lean ====
section
/-! DEFINITION. Sys2Proof/Machine/LoaderOps.lean: the shared operations of the plan loader: beginning, rejecting and ending an
apply operation, and what each block does at an activation (3.7, Table 3-9). -/
namespace Sys2Proof.Machine

def Part.modLoader (f : Loader → Loader) (p : Part) : Part := { p with loader := f p.loader }

/-- An operation begins: READING, with the read of block 0 issued (R41, R42, R52). -/
def Loader.begin_ (l : Loader) (kind : OpKind) (generation : Option Nat) : Loader :=
  { l with phase := .reading, kind := kind, generation := generation, block := 0, readWaiting := true, image := [],
           staged := none, clamps := 0 }

/-- The plan loader receives a merged value of the APPLY word (R41). -/
def Loader.applyWord (l : Loader) (v : Word) : Loader :=
  if v.toNat = 0 ∨ 65535 < v.toNat then l
  else if l.phase = .idle then l.begin_ .apply (some v.toNat)
  else { l with pendingApply := some v.toNat }

/-- The apply number after `n`: after 65,535 it continues from 1 (R49). -/
def nextApplyNumber (n : Nat) : Nat := if 65535 ≤ n then 1 else n + 1

/-- An operation ends with a result; a pending apply begins at once (R45, R47, R48). -/
def Loader.finish (l : Loader) (r : PlanResult) : Loader :=
  let l := { l with phase := .idle, generation := none, block := 0, readWaiting := false, image := [], staged := none,
                    clamps := 0, result := r }
  match l.pendingApply with
  | some g => Loader.begin_ { l with pendingApply := none } .apply (some g)
  | none => l

/-- The plan result at the end of the operation under way (R49). -/
def Part.planResult (p : Part) (outcome : PlanOutcome) (sec : PlanSection) (entry clamps active : Nat) : PlanResult where
  applyNumber := nextApplyNumber p.loader.result.applyNumber
  warmCount := p.control.warmCount
  kind := p.loader.kind
  generation := p.loader.generation.getD 0
  outcome := outcome
  failingSection := sec
  failingEntry := entry
  clampCount := clamps
  activeGeneration := active

/-- The operation is rejected (R45). -/
def Part.rejectPlan (sec : PlanSection) (entry : Nat) (p : Part) : Part :=
  let r := p.planResult .rejected sec entry 0 p.plan.generation
  ((p.modLoader fun l => l.finish r).mark 1).raiseEvent planRejectedPoint

/-- VALIDATING: the structural checks, then the range checks; the operation is rejected or enters WAITING, which puts the
apply hold in force (R43, R44, R46, R120). -/
def Part.validatePlan (p : Part) : Part :=
  match structuralFault p.loader.image (p.loader.generation.getD 0) with
  | some (sec, entry) => p.rejectPlan sec entry
  | none =>
    let plan := readPlan p.loader.image
    (p.modLoader fun l => { l with phase := .waiting, staged := some plan.1, clamps := plan.2 }).settleExchange p.engine

/-- A plan read completes with the 64 bytes of a block: the next block's read is issued, or the last block has been read
and the loader validates. A warm start takes its generation from the header block (R42, R52). -/
def Part.planBlockRead (data : List Byte) (p : Part) : Part :=
  let last := Config.planBlocks ≤ p.loader.block + 1
  let p := p.modLoader fun l =>
    { l with
      image := l.image ++ [data]
      generation := if l.generation.isNone then some (field data 0 2) else l.generation
      block := if last then l.block else l.block + 1
      readWaiting := !last }
  if last then p.validatePlan else p

/-! ### Activation (Table 3-9) -/

/-- A ring is changed by an activation: present in one of the plans, and its base or entry count differs (R47). -/
def ringChanged (old new : RingPlan) : Bool :=
  (old.present || new.present) && (old.base != new.base || old.count != new.count)

/-- The ring table at an activation: changed rings are reset in ascending order, their heads counted PLAN (R100). -/
def Part.resetChangedRings (old : Plan) (p : Part) : Part :=
  forEach 96 (fun r q => if ringChanged old.rings[r] q.plan.rings[r] then q.resetRing .plan r else q) p

/-- Destinations whose ingress ring of the class the new plan does not have leave the remaining heads, counted PLAN
(R100). -/
def Part.dropLostDests (p : Part) : Part :=
  forEach 96 (fun r q =>
    match q.headRecord r with
    | some h => q.keepDests r h .plan fun d => q.plan.rings[ingressRing d (ringClass r)].present
    | none => q) p

/-- The high flags of the unchanged ingress rings under their new thresholds (R97, R100). -/
def Part.reviewAllHigh (p : Part) : Part := forEach 96 Part.reviewHigh p

/-- The status writer at an activation: a changed log ring is reset, and the records offered at this instant that stand in the
queue leave it and are offered again to the new ring (R188). -/
def Status.takeLog (st : Status) (old new : AlarmPlan) : Status :=
  if old.logBase = new.logBase ∧ old.logCapacity = new.logCapacity then st
  else
    st.logQueue.foldl Status.offerRecord
      { st with
        log := { LogRing.reset with base := new.logBase, capacity := new.logCapacity }
        logQueue := []
        waiting := if st.waiting = some .log then none else st.waiting
        offered := 0 }

/-- The comparison of slot `n` with the new plan: the first change of R79 that applies, or none. -/
def Part.compareSlot (n : Slot) (p : Part) : Part :=
  let x := p.ports[n]
  let plan := p.plan.slots[n]
  let powered := match x.state with
    | .powering | .training | .quarantine | .admitting | .admitted | .fenced => true
    | .empty | .standby | .removing => false
  let failing := if x.state = .admitting ∨ x.state = .admitted then x.identity.bind (identityFault plan) else none
  if !plan.enabled && powered then p.enterRemoving n false
  else if plan.enabled && x.state == .standby then p.enterPowering n
  else
    match failing with
    | some why =>
      if n.val = 0 then (p.modPort n fun x => { x with admitResult := why }) else p.enterFenced n .planMismatch false
    | none =>
      if x.state == .quarantine && x.check.isSome then p.cancelCheck n
      else if n.val == 0 && x.state == .admitted && x.waived then
        ((p.startHeartbeat n).armStrobe n).modPort n fun x => { x with waived := false }
      else p

/-- Heartbeat settings at an activation: a changed K restarts the supervision of a supervised slot (R80). -/
def Part.rekey (old : Plan) (n : Slot) (p : Part) : Part :=
  if p.ports[n].heartbeat.supervising && old.slots[n].key != p.plan.slots[n].key then p.startHeartbeat n else p

/-- The slot ports at an activation (R77, R79, R80). -/
def Part.activateSlots (old : Plan) (p : Part) : Part :=
  let p := forEach 12 (fun n q => (q.compareSlot n).rekey old n) p
  forEach 12 Part.expireSlot p

/-- A reference at an activation: QUIET if not usable; otherwise a QUALIFIED reference's miss deadline is recomputed, and one
miss is taken if it has passed (R145). -/
def Part.activateRef (r : RefId) (p : Part) : Part :=
  let x := p.clock.ref r
  let plan := p.plan.clock.ref r
  if !p.usable r then { p with clock := p.clock.setRef r Reference.quiet }
  else if x.state = .qualified then
    let t := missDeadline plan (x.previous.getD 0) x.misses
    let y := { x with deadline := some t }
    { p with clock := p.clock.setRef r (if t ≤ p.osc then y.miss plan else y) }
  else p

/-- The cabinet clock at an activation (R145, R146). -/
def Part.activateClock (p : Part) : Part :=
  let p := (p.activateRef .a).activateRef .b
  let k := p.clock.select p.plan.clock p.now
  let k := k.setCorrection (clampTo p.plan.clock.fmax k.facc) (clampTo p.plan.clock.slew k.p)
  let p := { p with clock := k }
  if p.holdoverDue then { p with clock := { p.clock with holdoverReached := true } } else p

/-- A BLOCKED head already past its new hold limit expires (R115, R121): its remaining destinations are discarded and the
frame is retired. -/
def Part.expireHead (r : RingNo) (p : Part) : Part :=
  match p.headRecord r with
  | some h =>
    let p := p.keepDests r h .holdExpired fun _ => false
    match p.engine.batch with
    | some b => if b.ring = r then p.endBatch b else p
    | none => p
  | none => p

/-- The hold-limit timers at an activation (R121): heads already BLOCKED before it are measured against the new limits. -/
def Part.expireHeads (p : Part) : Part := forEach 96 (fun r q => if q.holdDue r then q.expireHead r else q) p

/-- The alarm unit at an activation (R176, R177). Two passes over the points, each in ascending number: first every point acts on
its condition under the new plan, then every point whose timer has run its new length expires. The order in which the log
records of one activation are offered is left open by R172 (DESIGN CHOICE, log entry 18; for the expiries log entry 9). -/
def Part.activateAlarms (p : Part) : Part := (p.reintegrate.expirePoints).mark 16

/-- The event holds that end at a SECOND tick of this instant end under the plan in force at the tick, and the tick is over:
the new event hold applies at the next one (R168, R177). -/
def Part.endSecondTick (p : Part) : Part :=
  let q := forEach 89 (fun i q => if q.eventHoldDue i then q.endHold i else q) p
  { q with secondTick := false }

/-- ACTIVATING: plan `new` becomes the active plan and every block responds, at one instant (R47, Table 3-9). The order of
expiries is the model's (log entry 9), and so are two points more (DESIGN CHOICE): a destination that is not ADMITTED is removed
DEST_DOWN before a BLOCKED head past its new limit expires HOLD_EXPIRED, an order R121 leaves open (log entry 9); and the alarm
unit meets the conditions as the activation leaves them, so that one that changes and changes back within it makes no change
(R177 beside R165 and R170; log entry 37). -/
def Part.activate (new : Plan) (p : Part) : Part :=
  let p := p.endSecondTick
  let old := p.plan
  let outcome := if p.loader.clamps = 0 then PlanOutcome.accepted else .acceptedClamped
  let r := p.planResult outcome .none 0 p.loader.clamps new.generation
  let q := ({ p with plan := new }.modLoader fun l => l.finish r).mark 1
  let q := ((q.resetChangedRings old).dropLostDests).reviewAllHigh
  let q := (q.closeGates).retimeProg old
  let q := { q with status := q.status.takeLog old.alarm new.alarm }
  let q := (q.activateSlots old).activateClock
  let q := (q.sweepDests).expireHeads
  (q.settleExchange p.engine).activateAlarms

end Sys2Proof.Machine
end

