-- ==== Sys2Proof/Machine/ResetOps.lean ====
section
/-! DEFINITION. Sys2Proof/Machine/ResetOps.lean: what the three resets make of the part while they last, and the end of a
reset (R20, R53, R81, R82, R102, R103, R147, R148, R155, R160, R163, R178, R179, R192). -/
namespace Sys2Proof.Machine

/-- A slot keeps its power through a reset-pin reset: PWRENn on, PWRGDn asserted and the debounced presence PRESENT at the
instant the reset begins (R82). -/
def Part.keepsPower (p : Part) (n : Slot) : Bool := p.pwren n && p.ports[n].pwrgd && p.ports[n].presence

/-- A slot port while a reset lasts: the values of R81, or for a slot that keeps its power those of R82 (TRAINING, presence
PRESENT), whose timer starts at the end of the reset (DEDUCED, log entry 22). -/
def Port.held (x : Port) (keeps : Bool) : Port :=
  if keeps then { Port.reset x.presentLevel x.pwrgd with state := .training, presence := true }
  else Port.reset x.presentLevel x.pwrgd

/-- The cabinet clock at the beginning of a reset-pin reset (R148). -/
def Clock.warmReset (k : Clock) : Clock :=
  Clock.loseReference
    { k with selected := none, refA := Reference.quiet, refB := Reference.quiet, strays := 0, lock := 0,
             pendingSeconds := none } k.trained 0

/-- The part while a reset of kind `kind` lasts: the same values after a power-on or supply-dip reset; a reset-pin reset keeps
cabinet time with its epoch, Facc, last e and the trained flag, and the power of qualifying slots (R147, R148, R81, R82).
The levels of the input pins are not the part's to reset (DEDUCED, log entry 13). Where the manual gives a
field its value at the end of the reset alone, what it holds while the reset lasts is the model's (DESIGN CHOICE, log entry 36):
the last emitted boundaries are 0 s, 0 ns, epoch 0 (R155), the warm-reset count of the plan result is the count before the reset
(R49, R192), and the raw condition of every condition-type point is false (R178). -/
def Part.underReset (kind : ResetKind) (control : ResetControl) (p : Part) : Part where
  osc := 0
  control := { control with active := some kind }
  env := p.env
  plan := Plan.bootstrap
  loader := Loader.reset control.warmCount
  ports := mapTable (fun n x => x.held (kind == .resetPin && p.keepsPower n)) p.ports
  rings := Vector.replicate 96 Ring.reset
  engine := Engine.reset
  watched := Watched.reset
  arbiter := Arbiter.reset
  flights := []
  clock := if kind = .resetPin then p.clock.warmReset else Clock.reset
  gens := Vector.replicate 5 TickGen.reset
  gates := Vector.replicate 8 Gate.reset
  secondTick := false
  alarm := Alarm.reset
  status := Status.reset

/-- The stronger of two kinds of reset (R192). -/
def ResetKind.stronger : ResetKind → ResetKind → ResetKind
  | .powerOn, _ => .powerOn
  | _, .powerOn => .powerOn
  | .supplyDip, _ => .supplyDip
  | _, .supplyDip => .supplyDip
  | .resetPin, .resetPin => .resetPin

/-- A slot port at the end of a reset: its timers start with the service clock at 0 (R81, R82, R123). A slot that kept its power
and whose PWRGDn has been deasserted during the reset is left in TRAINING until its training limit: R58 names the event of
deassertion alone, and the manual does not say whether the level at the end of the reset is one (DESIGN CHOICE, log entry
33). -/
def Port.start (x : Port) : Port :=
  if x.state = .training then ({ x with stateTimer := some 0 }).debounce 0 else x.debounce 0

/-- The last of the overlapping resets, of kind `kind`, ends and the part starts (R192): the reset record, the timers, the tick
records (R155), the alarm unit's integration (R178) and, after a reset-pin reset, the warm start (R52). -/
def Part.start (kind : ResetKind) (p : Part) : Part :=
  let warm := if kind = .resetPin then min 65535 (p.control.warmCount + 1) else 0
  let p := { p with
    control := { p.control with
      active := none, cause := kind, warmCount := warm, dip := if p.control.supplyLow then some 0 else none }
    loader := Loader.reset warm
    ports := mapTable (fun _ => Port.start) p.ports
    gens := tabulate fun k =>
      { last := p.cabinetTime.boundary (p.plan.period (tickKinds.getD k.val .second)), skipped := 0 } }
  let p := p.reintegrate
  if kind = .resetPin then p.modLoader fun l => l.begin_ .warmStart none else p

end Sys2Proof.Machine
end

