-- ==== Sys2Proof/Machine/StatusRecords.lean ====
section
/-! DEFINITION. Sys2Proof/Machine/StatusRecords.lean: the byte layout of the status records and of a log record (11.5, 11.6)
and the codes they hold (Table 11-1). A record is captured whole when it is begun (R181). -/
namespace Sys2Proof.Machine

/-! ### Codes (Table 11-1) -/

def SlotState.code : SlotState → Byte
  | .empty => 0
  | .standby => 1
  | .powering => 2
  | .training => 3
  | .quarantine => 4
  | .admitting => 5
  | .admitted => 6
  | .removing => 7
  | .fenced => 8

def FenceReason.code : FenceReason → Byte
  | .none => 0
  | .powerFault => 1
  | .trainTimeout => 2
  | .linkLost => 3
  | .command => 4
  | .violations => 5
  | .heartbeatLost => 6
  | .heartbeatInvalid => 7
  | .planMismatch => 8

def AdmitResult.code : AdmitResult → Byte
  | .none => 0
  | .passed => 1
  | .waived => 2
  | .kind => 3
  | .revision => 4
  | .memory => 5

def BlockReason.code : BlockReason → Byte
  | .none => 0
  | .space => 1
  | .gate => 2
  | .destDown => 3

def ClockState.code : ClockState → Byte
  | .freerun => 0
  | .acquiring => 1
  | .tracking => 2
  | .holdover => 3

def RefState.code : RefState → Byte
  | .quiet => 0
  | .qualifying => 1
  | .qualified => 2

def selectedCode : Option RefId → Byte
  | none => 0
  | some .a => 1
  | some .b => 2

def GateState.code : GateState → Byte
  | .closed => 0
  | .armed => 1
  | .opened => 2

def PointState.code : PointState → Byte
  | .clear => 0
  | .rising => 1
  | .raised => 2
  | .falling => 3

def Severity.code : Severity → Byte
  | .critical => 0
  | .major => 1
  | .minor => 2
  | .warning => 3

def ResetKind.code : ResetKind → Byte
  | .powerOn => 1
  | .supplyDip => 2
  | .resetPin => 3

def OpKind.code : OpKind → Byte
  | .apply => 0
  | .warmStart => 1

def PlanOutcome.code : PlanOutcome → Byte
  | .none => 0
  | .accepted => 1
  | .acceptedClamped => 2
  | .rejected => 3

def PlanSection.code : PlanSection → Byte
  | .none => 0
  | .header => 1
  | .ring => 2
  | .slot => 3
  | .clock => 4
  | .alarm => 5
  | .memory => 6

/-! ### Records -/

/-- A record's bytes: the update number in its first and its last four bytes, and `size` bytes in all (R196). -/
def frameRecord (update : BitVec 16) (size : Nat) (body : List Byte) : List Byte :=
  leBytes 4 update.toNat ++ body ++ zeros (size - 8 - body.length) ++ leBytes 4 update.toNat

/-- Reset record, from offset 4 (Table 11-13, R184). -/
def resetRecord (p : Part) : List Byte :=
  leBytes 2 Config.familyCode ++ leBytes 2 Config.revision ++ [p.control.cause.code, 0] ++ leBytes 2 p.control.warmCount

/-- Plan result, from offset 4 (Table 11-13, R49). -/
def planResultRecord (p : Part) : List Byte :=
  let r := p.loader.result
  leBytes 2 r.applyNumber ++ leBytes 2 r.warmCount ++ [r.kind.code, r.outcome.code, r.failingSection.code, 0]
    ++ leBytes 2 r.generation ++ leBytes 2 r.failingEntry ++ leBytes 2 r.clampCount ++ leBytes 2 r.activeGeneration

/-- Time record, from offset 4 (Table 11-14, R185). -/
def timeRecord (p : Part) : List Byte :=
  let k := p.clock
  leBytes 4 k.seconds.toNat ++ leBytes 4 k.ns
    ++ [k.epoch, k.state.code, flagByte k.trained, selectedCode k.selected, k.refA.state.code, k.refB.state.code,
        flagByte k.holdoverReached, flagByte k.pendingSeconds.isSome]
    ++ leBytes 4 (k.pendingSeconds.getD 0).toNat ++ leSigned k.lastError ++ leSigned k.facc ++ leSigned k.c
    ++ leBytes 4 p.holdoverSeconds ++ leBytes 8 k.increment
    ++ (p.gens.toList.flatMap fun g => leBytes 4 g.skipped.toNat)

/-- Block reason of the head of an egress ring: NONE without a head (R186). -/
def Part.blockReasonOf (p : Part) (r : RingNo) : BlockReason :=
  match p.headRecord r with
  | some h => h.blockReason
  | none => .none

/-- Slot record of slot `n`, from offset 4 (Table 11-15, R186). -/
def slotRecord (p : Part) (n : Slot) : List Byte :=
  let x := p.ports[n]
  let shown := if x.identityShown then x.identity else none
  let c := x.counters
  [x.state.code, x.fenceReason.code, flagByte x.powerRemoved, x.admitResult.code, flagByte shown.isSome, flagByte x.waived,
   flagByte x.heartbeat.lost] ++ leBytes 1 x.violations
    ++ (match shown with
        | some i => leBytes 2 i.kind ++ leBytes 2 i.revision ++ (i.serial ++ zeros (8 - i.serial.length))
        | none => zeros 12)
    ++ leBytes 2 x.ringFaults ++ zeros 2
    ++ ((List.finRange 4).map fun k => (p.blockReasonOf (egressRing n k)).code)
    ++ ([c.owed, c.delivered, c.received, c.holdExpired, c.destDown, c.oversize, c.sourceDown, c.plan, c.memory,
         c.malformed].flatMap fun w => leBytes 4 w.toNat)

/-- Gate record, from offset 4: gate g's entry at offset 16 + 16 × g (11.5, R187). -/
def gateRecord (p : Part) : List Byte :=
  zeros 12 ++ p.gates.toList.flatMap fun g =>
    g.state.code :: zeros 3 ++ leBytes 4 g.opens.toNat ++ leBytes 4 g.overruns.toNat ++ leBytes 4 g.suppressed.toNat

/-- Point `i` in the alarm summary, 16 bytes (Table 11-16). -/
def pointEntry (p : Part) (i : Point) : List Byte :=
  let x := p.alarm.points[i]
  let plan := p.plan.alarm.points[i]
  [flagByte x.raw, flagByte plan.force, flagByte plan.mask, plan.severity.code, x.state.code] ++ leBytes 1 x.raiseCount
    ++ (match x.lastChange with
        | some t => [1, t.epoch] ++ leBytes 4 t.seconds.toNat ++ leBytes 4 t.ns
        | none => zeros 10)

/-- Alarm summary, from offset 4 (Table 11-16, R187). -/
def alarmSummary (p : Part) : List Byte :=
  let l := p.status.log
  [flagByte p.alarm.cutoff, flagByte (p.relay .critical), flagByte (p.relay .major), flagByte (p.relay .minor)]
    ++ leBytes 4 l.base ++ leBytes 2 l.capacity ++ leBytes 2 l.producer ++ leBytes 2 l.consumer ++ zeros 2
    ++ leBytes 4 l.nextSequence.toNat ++ leBytes 4 l.overflow.toNat ++ zeros 36
    ++ (allPoints.flatMap (pointEntry p))

/-- Blocks of a status record (Table 11-12). -/
def recordBlocks (k : RecordNo) : Nat :=
  if k.val ≤ 1 then 1 else if k.val ≤ 14 then 2 else if k.val = 15 then 3 else 24

/-- First address of a status record (Table 11-12). -/
def recordBase (k : RecordNo) : Nat :=
  if k.val = 0 then 0x20000 else if k.val = 1 then 0x20040 else if k.val = 2 then 0x20080
  else if k.val ≤ 14 then 0x20100 + 0x80 * (k.val - 3) else if k.val = 15 then 0x20700 else 0x20800

/-- The fields of status record `k`, from offset 4, as they stand (R181). -/
def recordBody (p : Part) (k : RecordNo) : List Byte :=
  if k.val = 0 then resetRecord p
  else if k.val = 1 then planResultRecord p
  else if k.val = 2 then timeRecord p
  else if h : 3 ≤ k.val ∧ k.val ≤ 14 then slotRecord p ⟨k.val - 3, by omega⟩
  else if k.val = 15 then gateRecord p
  else alarmSummary p

/-- Status record `k` captured with an update number, as its blocks in ascending address order (R181, R196). -/
def captureRecord (p : Part) (k : RecordNo) (update : BitVec 16) : List (List Byte) :=
  blocksOf (recordBlocks k) (frameRecord update (64 * recordBlocks k) (recordBody p k))

/-- A log record as 32 bytes (Table 11-17, R197). -/
def logBytes (r : LogRecord) : List Byte :=
  leBytes 4 r.sequence.toNat ++ [BitVec.ofNat 8 r.point.val, if r.raised then 1 else 2, r.severity.code, flagByte r.forced]
    ++ leBytes 4 r.time.seconds.toNat ++ leBytes 4 r.time.ns ++ [r.time.epoch] ++ zeros 15

end Sys2Proof.Machine
end

