-- ==== Sys2Proof/Machine/Ops.lean ====
section
/-! DEFINITION. Sys2Proof/Machine/Ops.lean: the operations over requests, exchange memory and the memory port that the commands
share: arrival, observation, the arbiter's choice, the grant of each requester's access, read completion, and the passing of
one oscillator period. The operations of the single blocks stand in the files this one imports. -/
namespace Sys2Proof.Machine

/-- A command's effect on a running part; while a reset lasts every block holds its values and nothing happens (R192). -/
def Part.whileRunning (f : Part → Part) (p : Part) : Part := if p.running then f p else p

/-- The state with its part changed. -/
def State.modPart (f : Part → Part) (s : State) : State := { s with part := f s.part }

/-! ### Arrival (R5, R6) -/

/-- A response is made for slot `n` and waits to be sent, in the order made (R2; log entry 4). -/
def Part.respond (n : Slot) (r : Response) (p : Part) : Part := p.modPort n fun x => { x with unsent := x.unsent ++ [r] }

/-- The oldest response that waits is sent, and the tag of its READ leaves the table (R2, R3). -/
def Port.sendOldest (x : Port) : Port :=
  match x.unsent with
  | r :: rest => { x with responses := x.responses ++ [r], tags := x.tags.filter (· != r.tag), unsent := rest }
  | [] => x

/-- A response made at this instant is sent at this instant, after every response made before it, which responses leave in the
order made (R2, R6; DEDUCED, log entry 4). -/
def Port.sendNow (r : Response) (x : Port) : Port :=
  { x with
    responses := x.responses ++ x.unsent ++ [r]
    tags := x.tags.filter fun t => !(x.unsent.map Response.tag).contains t
    unsent := [] }

/-- The slot whose link sends a response at this instant, if any: the manual gives no time a response takes, so whether a link
sends is a free value (R2, R12; log entry 4). -/
def Part.sendDue (p : Part) : Option Slot :=
  firstFin 12 fun n => !p.ports[n].unsent.isEmpty && Config.linkSends n p.osc

/-- A request is refused at arrival: the REFUSAL is made and sent, the credit comes back, and nothing else of the request
remains; an access violation is reported to the slot port (R6). Whether a slot in REMOVING is still sent the REFUSAL the
manual leaves open (R6, R12; log entry 6). The log offer of an ACCESS_VIOLATION (kind 5) comes before those of the points
that a fence by it moves (kinds 0 to 3), an order R172 leaves open (DESIGN CHOICE, log entry 18). -/
def Part.refuse (n : Slot) (q : Request) (why : Reason) (p : Part) : Part :=
  let r := if p.ports[n].state = .removing ∧ Config.removingRefusalSent = false then p
    else p.modPort n (Port.sendNow (.refusal q.tag why))
  if why.isViolation then (r.violation n).settleSlots p.engine else r

/-- A request is accepted: its tag enters the table, it joins the tail of the queue, and a credit is spent (R3–R5). -/
def Part.accept (n : Slot) (q : Request) (p : Part) : Part :=
  p.modPort n fun x => { x with tags := x.tags ++ [q.tag], queue := x.queue ++ [q], credits := x.credits - 1 }

/-- A request arrives. Without a trained link or without a credit the link carries none (R4, R5). -/
def Part.arrive (n : Slot) (q : Request) (p : Part) : Part :=
  if p.ports[n].link && p.ports[n].credits != 0 then
    match arrivalCheck p.plan p.ports[n] n q with
    | some why => p.refuse n q why
    | none => p.accept n q
  else p

/-! ### Observation of watched words (R18): what each owner does -/

/-- The plan loader receives APPLY (R41). -/
def Part.observeApply (v : Word) (p : Part) : Part := (p.setWatched .apply v).modLoader fun l => l.applyWord v

/-- The status writer takes a LOG CONSUMER value that lies between the consumer copy and the producer (R191). -/
def LogRing.takeConsumer (l : LogRing) (v : Nat) : LogRing :=
  if l.capacity = 0 ∨ 2 * l.capacity ≤ v then l
  else if (l.producer + 2 * l.capacity - v) % (2 * l.capacity) ≤ l.occupied 0 then { l with consumer := v }
  else l

/-- The status writer receives LOG CONSUMER (R191). -/
def Part.observeLogConsumer (v : Word) (p : Part) : Part :=
  let p := p.setWatched .logConsumer v
  let log := p.status.log.takeConsumer v.toNat
  if log.consumer = p.status.log.consumer then p
  else Part.mark 16 { p with status := { p.status with log := log } }

/-- The alarm unit receives CUTOFF (R175). -/
def Part.observeCutoff (v : Word) (p : Part) : Part := (p.setWatched .cutoff v).setCutoff (v != 0)

/-- The cabinet clock receives SECONDS (R127). -/
def Part.observeSeconds (v : Word) (p : Part) : Part :=
  let p := p.setWatched .seconds v
  { p with clock := { p.clock with pendingSeconds := some v } }

/-- Slot port `n` takes a FENCE command, which slot 0 ignores (R69). -/
def Part.fenceCommand (n : Slot) (p : Part) : Part :=
  if p.ports[n].state.linked && n.val != 0 then Part.slotEvent (Part.fenceKeepingPower n .command) p else p

/-- Slot port `n` takes a RELEASE command (R68, R69). -/
def Part.releaseCommand (n : Slot) (p : Part) : Part :=
  match p.ports[n].state with
  | .fenced =>
    if p.ports[n].settlementOwed then p.modPort n fun x => { x with releaseHeld := true }
    else Part.slotEvent (Part.takeRelease n) p
  | .standby => if p.plan.slots[n].enabled then Part.slotEvent (Part.enterPowering n) p else p
  | _ => p

/-- Slot port `n` receives SLOT COMMAND n (R69). -/
def Part.observeSlotCommand (n : Slot) (v : Word) (p : Part) : Part :=
  let p := p.setWatched (.slotCommand n) v
  if v = 1 then p.fenceCommand n else if v = 2 then p.releaseCommand n else p

/-- Slot port `n` receives its heartbeat word; unsupervised, it ignores it (R73). -/
def Part.observeHeartbeat (n : Slot) (v : Word) (p : Part) : Part :=
  let p := p.setWatched (.heartbeat n) v
  if p.ports[n].heartbeat.supervising then p.judgeHeartbeat n v else p

/-- Slot port `n` receives its admit word: a nonzero value in QUARANTINE with no check record begins a check, with its read
waiting (R59). -/
def Part.observeAdmit (n : Slot) (v : Word) (p : Part) : Part :=
  let p := p.setWatched (.admitWord n) v
  if p.ports[n].state = .quarantine ∧ p.ports[n].check = none ∧ v ≠ 0 then
    p.modPort n fun x => { x with check := some { start := p.now, inFlight := false } }
  else p

/-- The ring table receives an egress producer word and judges its low 16 bits; one of an absent ring is ignored (R84,
R87). -/
def Part.observeProducer (n : Slot) (c : Cls) (v : Word) (p : Part) : Part :=
  (p.setWatched (.egressProducer n c) v).judgeProducer (egressRing n c) (v.setWidth 16)

/-- The ring table receives an ingress consumer word and judges its low 16 bits; one of an absent ring is ignored (R84,
R96). -/
def Part.observeConsumer (n : Slot) (c : Cls) (v : Word) (p : Part) : Part :=
  (p.setWatched (.ingressConsumer n c) v).judgeConsumer (ingressRing n c) (v.setWidth 16)

/-- One observation: the merged value stays in the copy and is handed to the word's owner (R18, R19). -/
def Part.observe (k : WatchedWord) (v : Word) (p : Part) : Part :=
  match k with
  | .egressProducer n c => p.observeProducer n c v
  | .ingressConsumer n c => p.observeConsumer n c v
  | .heartbeat n => p.observeHeartbeat n v
  | .admitWord n => p.observeAdmit n v
  | .apply => p.observeApply v
  | .logConsumer => p.observeLogConsumer v
  | .cutoff => p.observeCutoff v
  | .seconds => p.observeSeconds v
  | .slotCommand n => p.observeSlotCommand n v

/-- The watched words a WRITE of `len` bytes at `start` covers, with their addresses, in ascending address order (R18). -/
def observedWords (start len : Nat) : List (Nat × WatchedWord) :=
  (coveredWords start len).filterMap fun a => (watchedAt a).map fun k => (a, k)

/-- A granted card WRITE is observed: each watched word it covers is merged and handed over, in ascending address order (R18;
DEDUCED, log entry 26), all at one instant. -/
def Part.observeWrite (start : Nat) (data : List Byte) (p : Part) : Part :=
  match observedWords start data.length with
  | [] => p
  | words => p.handingOver fun p => words.foldl (fun q x => q.observe x.2 (mergeWord (q.watched.get x.2) x.1 start data)) p

/-! ### The arbiter (R14) -/

/-- A slot waits: its queue is not empty, or an admission check read of it waits (R14). -/
def Port.waits (x : Port) : Bool :=
  !x.queue.isEmpty ||
    match x.check with
    | some k => !k.inFlight
    | none => false

/-- The internal group waits: the status writer, the engine or the plan loader has an access ready (R14). -/
def Part.internalWaits (p : Part) : Bool :=
  p.status.waiting.isSome || p.engine.waiting.isSome || p.loader.readWaiting

/-- The `k`-th slot in ascending cyclic order after `last`, k = 0 … 11 (R14, R107). -/
def cyclicAfter (last : Slot) (k : Fin 12) : Slot := ⟨(last.val + 1 + k.val) % 12, by omega⟩

/-- The first slot in ascending cyclic order after `last` for which `w` holds. -/
def firstAfter (last : Slot) (w : Slot → Bool) : Option Slot :=
  (firstFin 12 fun k => w (cyclicAfter last k)).map (cyclicAfter last)

/-- What the arbiter grants next (R14). -/
inductive Grant where
  | card (n : Slot)
  | writer
  | engine
  | loader
  | nothing
  deriving DecidableEq, Repr

/-- The internal requester served: status writer, exchange engine, plan loader (R14). -/
def Part.internalGrant (p : Part) : Grant :=
  if p.status.waiting.isSome then .writer
  else if p.engine.waiting.isSome then .engine
  else if p.loader.readWaiting then .loader
  else .nothing

/-- The arbiter's choice (R14). -/
def Part.arbitrate (p : Part) : Grant :=
  match firstAfter p.arbiter.lastSlot (fun n => p.ports[n].waits) with
  | some n => if p.internalWaits && p.arbiter.lastGroup == .card then p.internalGrant else .card n
  | none => p.internalGrant

/-- A granted read becomes in flight with the bytes memory holds (R9, R13; DEDUCED, log entry 5). -/
def State.launch (purpose : Purpose) (a len : Nat) (s : State) : State :=
  s.modPart fun p => { p with flights := p.flights ++ [{ purpose := purpose, data := s.memory.read a len }] }

/-- A granted write reaches memory (R13). -/
def State.store (a : Nat) (data : List Byte) (s : State) : State := { s with memory := s.memory.write a data }

/-- The head of slot `n`'s queue is granted (R9). -/
def State.grantRequest (n : Slot) (q : Request) (rest : List Request) (s : State) : State :=
  let s := s.modPart fun p => p.modPort n fun x => { x with queue := rest, credits := if x.link then x.credits + 1 else x.credits }
  match q.body with
  | .read len => s.launch (.card n q.tag false false) q.first len
  | .write data =>
    let s := (s.store q.first data).modPart fun p => p.modPort n fun x => { x with tags := x.tags.filter (· != q.tag) }
    s.modPart fun p => p.observeWrite q.first data

/-- A card grant to slot `n`: an admission check read that waits goes before the head of the queue (R14, R59). -/
def State.grantCard (n : Slot) (s : State) : State :=
  let s := s.modPart fun p => { p with arbiter := { lastGroup := .card, lastSlot := n } }
  let x := s.part.ports[n]
  if (x.check.map fun k => !k.inFlight).getD false then
    (s.launch (.check n true) (admitBase n) 12).modPart fun p =>
      p.modPort n fun x => { x with check := x.check.map fun k => { k with inFlight := true } }
  else
    match x.queue with
    | q :: rest => s.grantRequest n q rest
    | [] => s

/-- A grant to the status writer: a log record is written and counted in the log, or a block of the record in progress is
written; the writer then issues its next access (R182, R190). -/
def State.grantWriter (s : State) : State :=
  let st := s.part.status
  match st.waiting, st.logQueue, st.progress with
  | some .log, r :: rest, _ =>
    let log := { st.log with producer := (st.log.producer + 1) % (2 * st.log.capacity) }
    let st' : Status := { st with waiting := none, logQueue := rest, log := log }
    (s.store (st.log.recordAddr st.log.producer) (logBytes r)).modPart fun p =>
      { p with status := (st'.mark 16).issue }
  | some .block, _, some g =>
    match g.blocks with
    | b :: rest =>
      let next := if rest = [] then none else some { g with blocks := rest, next := g.next + 1 }
      let st' : Status := { st with waiting := none, progress := next }
      (s.store (recordBase g.record + 64 * g.next) b).modPart fun p => { p with status := st'.issue }
    | [] => s.modPart fun p => { p with status := { st with waiting := none, progress := none } }
  | _, _, _ => s.modPart fun p => { p with status := { st with waiting := none } }

/-- Address of the block of the copy that moves next, in the source ring or in the destination ring (R111). -/
def Part.copySource (p : Part) (c : Copy) : Nat := p.plan.rings[c.ring].blockAddr p.rings[c.ring].consumer.toNat c.block
def Part.copyTarget (p : Part) (c : Copy) : Nat :=
  p.plan.rings[ingressRing c.dest (ringClass c.ring)].blockAddr c.destPos.toNat c.block

/-- A grant to the exchange engine; the engine then serves on and issues its next access (R110, R111, R113). A delivery
ends with the report of the destination's ingress condition. A header read reads the entry its ring's consumer copy names at
the grant: where a settlement or a reset has moved that copy since the issue, R89 leaves open which of the two entries is
read, and what is read is discarded (R90; DESIGN CHOICE, log entry 17). -/
def State.grantEngine (s : State) : State :=
  let p := s.part
  let free := s.modPart fun p => p.modEngine fun e => { e with waiting := none }
  match p.engine.waiting, p.engine.copy with
  | some (.index w), _ =>
    (free.store (partOwnedAddr w.ring) (indexWordBytes w.value)).modPart (Part.settleExchange p.engine)
  | some (.header r), _ =>
    (free.launch (.header r) (p.plan.rings[r].entryAddr p.rings[r].consumer.toNat) 16).modPart
      (Part.settleExchange p.engine)
  | some .copyRead, some c => (free.launch .copy (p.copySource c) 64).modPart (Part.settleExchange p.engine)
  | some (.copyWrite data), some c =>
    (free.store (p.copyTarget c) data).modPart fun q => (q.copyBlockWritten c).settleExchange p.engine
  | some .copyProducer, some c =>
    (free.store (partOwnedAddr (ingressRing c.dest (ringClass c.ring))) (indexWordBytes (p.deliveredProducer c))).modPart
      fun q => ((q.deliver c).settleExchange p.engine).report [slotPoint c.dest 3]
  | _, _ => free

/-- A grant to the plan loader: the read of the block that waits (R42). -/
def State.grantLoader (s : State) : State :=
  let b := s.part.loader.block
  (s.launch .plan (64 * b) 64).modPart fun p => p.modLoader fun l => { l with readWaiting := false }

/-- A grant to the internal group is recorded as such (R14). -/
def State.internalGranted (s : State) : State :=
  s.modPart fun p => { p with arbiter := { p.arbiter with lastGroup := .internal } }

/-- The memory port grants the access the arbiter chooses; with nothing waiting it grants nothing (R14). -/
def State.grant (s : State) : State :=
  match s.part.arbitrate with
  | .card n => s.grantCard n
  | .writer => s.internalGranted.grantWriter
  | .engine => s.internalGranted.grantEngine
  | .loader => s.internalGranted.grantLoader
  | .nothing => s

/-! ### Completion of reads (R13, R16) -/

/-- Reads complete in the order in which they were granted: the oldest flight leaves, and an uncorrectable error on it
raises MEMORY_ERROR (R13, R16). -/
def Part.complete (rest : List Flight) (err : Bool) (p : Part) : Part :=
  let p := { p with flights := rest }
  if err then p.raiseEvent memoryErrorPoint else p

/-- The response to a card READ that has completed: the first case of R10 that applies; none drops it. -/
def readResponse (st : SlotState) (fenced dropped err : Bool) (t : Tag) (data : List Byte) : Option Response :=
  if dropped then none
  else if fenced || st == .fenced then some (.refusal t .fenced)
  else if st.linked then (if err then some (.refusal t .memory) else some (.readData t data))
  else none

/-- A card READ completes: its response is made, or dropped with its tag (R3, R10). -/
def Part.completeCard (n : Slot) (t : Tag) (fenced dropped err : Bool) (data : List Byte) (p : Part) : Part :=
  match readResponse p.ports[n].state fenced dropped err t data with
  | some r => p.respond n r
  | none => p.modPort n fun x => { x with tags := x.tags.filter (· != t) }

/-! ### The passing of one oscillator period (R123, R124) -/

/-- One oscillator period of the service clock, which is held at 0 while a reset lasts, and of the dip timer, which runs
through a reset-pin reset (R123, R193). The instant before it is over: the engine issues the access it has held back for the
order of joins (R110; log entry 30), and the marks of that instant are cleared (log entries 20, 30 and 31). -/
def Part.passPeriod (p : Part) : Part :=
  let q := p.whileRunning Part.closeInstant
  { q with
    osc := if q.running then q.osc + 1 else q.osc
    secondTick := false
    status := { q.status with offered := 0 }
    control := { q.control with dip := q.control.dip.map (· + 1) } }

/-- Cabinet time runs: in operation and during a reset-pin reset; a power-on or supply-dip reset holds it at 0 (R124,
R147). -/
def Part.timeRuns (p : Part) : Bool :=
  match p.control.active with
  | none | some .resetPin => true
  | some _ => false

/-- One oscillator period of steady advance with no second turnover (R124). -/
def Part.advance (p : Part) : Part :=
  let q := p.passPeriod
  if p.timeRuns then { q with clock := q.clock.advance } else q

/-- The next oscillator period carries cabinet time past a second (R124). -/
def Part.turnoverDue (p : Part) : Bool := p.timeRuns && p.clock.turnoverNext

/-- The oscillator period of a second turnover: an application of a pending SECONDS value is reported to the tick unit
(R124, R127, R153). -/
def Part.turnover (p : Part) : Part :=
  let k := p.clock.turnover
  let q := { p.passPeriod with clock := k }
  match p.clock.pendingSeconds with
  | some v => q.shiftTicks (v - (p.clock.seconds + 1))
  | none => q

end Sys2Proof.Machine
end

