-- ==== Sys2Proof/Machine/AlarmEvents.lean ====
section
/-! DEFINITION. Sys2Proof/Machine/AlarmEvents.lean: the meanings of the events of the alarm unit and of the status writer
(Chapters 9 and 10). -/
namespace Sys2Proof.Machine

/-- The environment point of input ENVn (R167). -/
def envPoint (input : Fin 8) : Point := ⟨81 + input.val, by omega⟩

/-- ENV_CHANGE: the level of the contact, in a reset too; the environment point follows it (R167). -/
def execEnvChange (input : Fin 8) (level : Contact) (s : State) : Host.Outcome State Fault Refusal :=
  .next (s.modPart fun p =>
    Part.whileRunning (Part.report [envPoint input]) { p with env := modify p.env input fun _ => level })

/-- RAISE_TIMER_EXPIRY (R169). -/
def execRaiseTimerExpiry (point : Point) (s : State) : Host.Outcome State Fault Refusal :=
  .next (s.modPart (Part.whileRunning fun p => if p.raiseDue point then p.raisePoint point else p))

/-- CLEAR_TIMER_EXPIRY (R170). -/
def execClearTimerExpiry (point : Point) (s : State) : Host.Outcome State Fault Refusal :=
  .next (s.modPart (Part.whileRunning fun p => if p.clearDue point then p.clearPoint point else p))

/-- EVENT_HOLD_EXPIRY: at a SECOND tick, the event hold of the point has passed (R168). -/
def execEventHoldExpiry (point : Point) (s : State) : Host.Outcome State Fault Refusal :=
  .next (s.modPart (Part.whileRunning fun p => if p.eventHoldDue point then p.endHold point else p))

/-- The status writer begins record `k`: it leaves the dirty set, its update number increases, its fields are captured, and
the write of its first block is issued (R181, R182). -/
def Part.beginRecord (k : RecordNo) (p : Part) : Part :=
  let update := p.status.updates[k] + 1
  let st : Status := { p.status with
    dirty := modify p.status.dirty k fun _ => false
    updates := modify p.status.updates k fun _ => update
    progress := some { record := k, blocks := captureRecord p k update, next := 0 } }
  { p with status := st.issue }

/-- The lowest-numbered record of the dirty set (R181). -/
def Part.lowestDirty (p : Part) : Option RecordNo := firstFin 17 fun k => p.status.dirty[k]

/-- STATUS_RECORD_BEGIN (R181). -/
def execStatusRecordBegin (s : State) : Host.Outcome State Fault Refusal :=
  .next (s.modPart (Part.whileRunning fun p =>
    if p.recordDue then
      match p.lowestDirty with
      | some k => p.beginRecord k
      | none => p
    else p))

end Sys2Proof.Machine
end

