-- ==== Sys2Proof/Machine/ClockEvents.lean ====
section
/-! DEFINITION. Sys2Proof/Machine/ClockEvents.lean: the meanings of the cabinet clock's events: reference pulses, misses, the
holdover limit and the second turnover (Chapter 7). -/
namespace Sys2Proof.Machine

/-- A phase step by −e ns: the clock moves, PHASE_STEP is raised, and after a forward step the tick unit emits the ticks of
the boundaries passed (R142, R151, R152). A transition at the instant of the step is recorded with the time after it: R125
allows the time before it too (DESIGN CHOICE, log entry 18). -/
def Part.phaseStep (e : Int) (p : Part) : Part :=
  let p := Part.raiseEvent phaseStepPoint { p with clock := p.clock.step e }
  if e < 0 then p.stepTicks else p

/-- A disciplined pulse with phase error `e` (R139–R141). -/
def Part.discipline (e : Int) (p : Part) : Part :=
  let p := { p with clock := { p.clock with lastError := e } }
  match p.clock.state with
  | .tracking => { p with clock := p.clock.trackingPulse p.plan.clock e }
  | .acquiring =>
    if p.plan.clock.stepThreshold < e.natAbs then p.phaseStep e
    else { p with clock := p.clock.acquiringPulse p.plan.clock e }
  | .freerun | .holdover => p

/-- A pulse of reference `r`: the record takes it, the selection is found afresh, and a pulse that leaves its reference
QUALIFIED and selected is disciplined (R128–R134). PHASE_STEP (77) and, at the ticks of a forward step, point 80 are taken
before the clock's conditions 72 to 76, an order R172 leaves open (DESIGN CHOICE, log entry 18). -/
def Part.referencePulse (r : RefId) (p : Part) : Part :=
  if p.usable r then
    let k := p.clock.setRef r ((p.clock.ref r).pulse (p.plan.clock.ref r) p.osc)
    let q := { p with clock := k.select p.plan.clock p.now }
    let q := if (q.clock.ref r).state = .qualified ∧ q.clock.selected = some r then
      q.discipline (phaseError p.clock.ns (p.plan.clock.ref r).cableDelay) else q
    (q.settleExchange p.engine).report clockPoints
  else p

/-- REFERENCE_PULSE (R128). -/
def execReferencePulse (ref : RefId) (s : State) : Host.Outcome State Fault Refusal :=
  .next (s.modPart (Part.whileRunning (Part.referencePulse ref)))

/-- A miss of reference `r` is taken (R132, R133). -/
def Part.takeMiss (r : RefId) (p : Part) : Part :=
  let k := p.clock.setRef r ((p.clock.ref r).miss (p.plan.clock.ref r))
  Part.report clockPoints { p with clock := k.select p.plan.clock p.now }

/-- MISS (R132). -/
def execMiss (ref : RefId) (s : State) : Host.Outcome State Fault Refusal :=
  .next (s.modPart (Part.whileRunning fun p => if p.missDue ref then p.takeMiss ref else p))

/-- HOLDOVER_LIMIT (R137). -/
def execHoldoverLimit (s : State) : Host.Outcome State Fault Refusal :=
  .next (s.modPart (Part.whileRunning fun p =>
    if p.holdoverDue then Part.report clockPoints { p with clock := { p.clock with holdoverReached := true } } else p))

/-- SECOND_TURNOVER: the oscillator period that carries cabinet time past a second, in a reset-pin reset too (R124, R127). -/
def execSecondTurnover (s : State) : Host.Outcome State Fault Refusal :=
  .next (s.modPart fun p => if p.turnoverDue then p.turnover else p)

end Sys2Proof.Machine
end

