-- ==== Sys2Proof/Machine/Commands.lean ====
section
/-! DEFINITION. Sys2Proof/Machine/Commands.lean: the meanings of the watched-word commands: an owner receives the merged value
of its word, which stays in the watched-word copy (R18, R19). A granted card WRITE hands a word over by the same operations
within ACCESS_GRANT. -/
namespace Sys2Proof.Machine

/-- APPLY (R41). -/
def execApply (value : Word) (s : State) : Host.Outcome State Fault Refusal :=
  .next (s.modPart (Part.whileRunning (Part.observeApply value)))

/-- LOG_CONSUMER (R191). -/
def execLogConsumer (value : Word) (s : State) : Host.Outcome State Fault Refusal :=
  .next (s.modPart (Part.whileRunning (Part.observeLogConsumer value)))

/-- CUTOFF (R175). -/
def execCutoff (value : Word) (s : State) : Host.Outcome State Fault Refusal :=
  .next (s.modPart (Part.whileRunning (Part.observeCutoff value)))

/-- SECONDS (R127). -/
def execSeconds (value : Word) (s : State) : Host.Outcome State Fault Refusal :=
  .next (s.modPart (Part.whileRunning (Part.observeSeconds value)))

/-- FENCE: SLOT COMMAND n with the value 1 (R69). -/
def execFence (slot : Slot) (s : State) : Host.Outcome State Fault Refusal :=
  .next (s.modPart (Part.whileRunning (Part.observeSlotCommand slot 1)))

/-- RELEASE: SLOT COMMAND n with the value 2 (R68, R69). -/
def execRelease (slot : Slot) (s : State) : Host.Outcome State Fault Refusal :=
  .next (s.modPart (Part.whileRunning (Part.observeSlotCommand slot 2)))

/-- HEARTBEAT (R73). -/
def execHeartbeat (slot : Slot) (value : Word) (s : State) : Host.Outcome State Fault Refusal :=
  .next (s.modPart (Part.whileRunning (Part.observeHeartbeat slot value)))

/-- ADMIT_WORD (R59). -/
def execAdmitWord (slot : Slot) (value : Word) (s : State) : Host.Outcome State Fault Refusal :=
  .next (s.modPart (Part.whileRunning (Part.observeAdmit slot value)))

/-- EGRESS_PRODUCER (R87). -/
def execEgressProducer (slot : Slot) (cls : Cls) (value : Word) (s : State) : Host.Outcome State Fault Refusal :=
  .next (s.modPart (Part.whileRunning (Part.observeProducer slot cls value)))

/-- INGRESS_CONSUMER (R96). -/
def execIngressConsumer (slot : Slot) (cls : Cls) (value : Word) (s : State) : Host.Outcome State Fault Refusal :=
  .next (s.modPart (Part.whileRunning (Part.observeConsumer slot cls value)))

end Sys2Proof.Machine
end

