-- ==== Sys2Proof/Machine/EngineEvents.lean ====
section
/-! DEFINITION. Sys2Proof/Machine/EngineEvents.lean: the meanings of the exchange engine's events: the end of a header read, the
service choice, the end of a block read of a copy, and the expiry of a hold limit (Chapters 5 and 6). -/
namespace Sys2Proof.Machine

/-- The header read of ring `r` has completed with `bytes` or with an error: the first case of R90 that applies. -/
def Part.headerDone (r : RingNo) (err : Bool) (bytes : List Byte) (p : Part) : Part :=
  let h := readHeader bytes
  if p.rings[r].take ≠ .reading then p
  else if err then p.setTake r .waiting
  else if h.malformed (ringSlot r) then p.malformedHeader r
  else if p.rings[r].occupancy < h.entries then p.setTake r .waiting
  else p.takeFrame r h

/-- A header read at the front of the reads in flight completes (R16, R90). -/
def Part.headerReadDone (err : Bool) (p : Part) : Part :=
  match p.flights with
  | { purpose := .header r, data := data } :: rest =>
    Part.settleExchange p.engine ((p.complete rest err).headerDone r err data)
  | _ => p

/-- HEADER_READ_COMPLETE (R90). -/
def execHeaderReadComplete (err : Bool) (s : State) : Host.Outcome State Fault Refusal :=
  .next (s.modPart (Part.whileRunning (Part.headerReadDone err)))

/-- The ring the engine chooses: the lowest class with a READY head, and in it the first slot after the class's last-served
slot (R107). -/
def Part.chosenRing (p : Part) : Option RingNo :=
  (firstFin 4 p.classReady).bind fun c =>
    (firstAfter p.engine.lastServed[c] fun n => p.headIs (egressRing n c) .ready).map fun n => egressRing n c

/-- A batch begins on the chosen ring, and the first copy of its head starts at the same instant (R107). -/
def Part.choose (p : Part) : Part :=
  match p.chosenRing with
  | some r =>
    let q := p.modEngine fun e => { e with batch := some { ring := r, count := 0 } }
    (q.serveHead r).settleExchange p.engine
  | none => p

/-- SERVICE_CHOICE (R107). -/
def execServiceChoice (s : State) : Host.Outcome State Fault Refusal :=
  .next (s.modPart (Part.whileRunning fun p => if p.choiceDue then p.choose else p))

/-- A read of the copy at the front of the reads in flight completes (R16, R111, R114). -/
def Part.copyReadDone (err : Bool) (p : Part) : Part :=
  match p.flights, p.engine.copy with
  | { purpose := .copy, data := data } :: rest, some c =>
    let q := p.complete rest err
    Part.settleExchange p.engine (if err then q.copyReadError c else q.copyBlockRead c data)
  | { purpose := .copy, data := _ } :: rest, none => p.complete rest err
  | _, _ => p

/-- COPY_READ_COMPLETE (R111, R114). -/
def execCopyReadComplete (err : Bool) (s : State) : Host.Outcome State Fault Refusal :=
  .next (s.modPart (Part.whileRunning (Part.copyReadDone err)))

/-- HOLD_EXPIRED (R115). -/
def execHoldExpired (slot : Slot) (cls : Cls) (s : State) : Host.Outcome State Fault Refusal :=
  .next (s.modPart (Part.whileRunning fun p =>
    if p.holdDue (egressRing slot cls) then (p.expireHead (egressRing slot cls)).settleExchange p.engine else p))

end Sys2Proof.Machine
end

