-- ==== Sys2Proof/Machine/PlanEvents.lean ====
section
/-! DEFINITION. Sys2Proof/Machine/PlanEvents.lean: the meanings of the plan loader's events: the end of a plan read and the
activation (Chapter 3). -/
namespace Sys2Proof.Machine

/-- A plan read at the front of the reads in flight completes (R16, R42). -/
def Part.planReadDone (err : Bool) (p : Part) : Part :=
  match p.flights with
  | { purpose := .plan, data := data } :: rest =>
    let q := p.complete rest err
    if err then q.rejectPlan .memory q.loader.block else q.planBlockRead data
  | _ => p

/-- PLAN_READ_COMPLETE (R42–R45). -/
def execPlanReadComplete (err : Bool) (s : State) : Host.Outcome State Fault Refusal :=
  .next (s.modPart (Part.whileRunning (Part.planReadDone err)))

/-- The staged image becomes the active plan (R47). -/
def Part.activateStaged (p : Part) : Part :=
  match p.loader.staged with
  | some plan => p.activate plan
  | none => p

/-- ACTIVATION: taken when the loader is WAITING and the engine and the status writer are at rest (R46, R47). -/
def execActivation (s : State) : Host.Outcome State Fault Refusal :=
  .next (s.modPart (Part.whileRunning fun p => if p.activationDue then p.activateStaged else p))

end Sys2Proof.Machine
end

