-- ==== Sys2Proof/Machine/Requests.lean ====
section
/-! DEFINITION. Sys2Proof/Machine/Requests.lean: the meanings of the commands of the slot links and of the memory port: READ,
WRITE, ACCESS_GRANT and READ_COMPLETION (Chapters 1 and 2). -/
namespace Sys2Proof.Machine

/-- READ: a card READ arrives and is accepted or refused by the first arrival check that fails (R5, R6). -/
def execRead (slot : Slot) (tag : Tag) (addr : Word) (len : Nat) (s : State) : Host.Outcome State Fault Refusal :=
  .next (s.modPart (Part.whileRunning (Part.arrive slot { tag := tag, addr := addr, body := .read len })))

/-- WRITE: a card WRITE arrives and is accepted or refused by the first arrival check that fails (R5, R6). -/
def execWrite (slot : Slot) (tag : Tag) (addr : Word) (data : List Byte) (s : State) : Host.Outcome State Fault Refusal :=
  .next (s.modPart (Part.whileRunning (Part.arrive slot { tag := tag, addr := addr, body := .write data })))

/-- ACCESS_GRANT: the memory port grants the access the arbiter chooses; the only command that changes exchange memory
(R9, R13–R15). -/
def execAccessGrant (s : State) : Host.Outcome State Fault Refusal := .next (if s.part.running then s.grant else s)

/-- A card READ at the front of the reads in flight completes (R10, R16). -/
def Part.cardReadDone (err : Bool) (p : Part) : Part :=
  match p.flights with
  | { purpose := .card n t fenced dropped, data := data } :: rest =>
    (p.complete rest err).completeCard n t fenced dropped err data
  | _ => p

/-- READ_COMPLETION: the oldest read in flight, a card READ, completes with its data or with an uncorrectable error (R10). -/
def execReadCompletion (err : Bool) (s : State) : Host.Outcome State Fault Refusal :=
  .next (s.modPart (Part.whileRunning (Part.cardReadDone err)))

end Sys2Proof.Machine
end

