-- ==== Sys2Proof/Machine/ResetEvents.lean ====
section
/-! DEFINITION. Sys2Proof/Machine/ResetEvents.lean: the meanings of the supply and reset events (10.4). A reset changes the part
and leaves exchange memory and the waiting commands alone (R20). -/
namespace Sys2Proof.Machine

/-- POWER_ON_RESET: power is applied, with the supply not yet above the threshold (R192). -/
def execPowerOnReset (s : State) : Host.Outcome State Fault Refusal :=
  .next (s.modPart fun p => p.underReset .powerOn { p.control with supplyLow := true, dip := none })

/-- The dip timer starts at a fall of the supply, in a reset that RESETN alone still holds too; a reset that waits for the
supply has none to start (R193). -/
def ResetControl.supplyFalls (c : ResetControl) : ResetControl :=
  if c.awaitsSupply then c else { c with supplyLow := true, dip := some (c.dip.getD 0) }

/-- SUPPLY_FALL (R193). -/
def execSupplyFall (s : State) : Host.Outcome State Fault Refusal :=
  .next (s.modPart fun p => { p with control := p.control.supplyFalls })

/-- SUPPLY_RETURN: the dip timer stops, and nothing else is done (R193). -/
def execSupplyReturn (s : State) : Host.Outcome State Fault Refusal :=
  .next (s.modPart fun p => { p with control := { p.control with supplyLow := false, dip := none } })

/-- SUPPLY_DIP_RESET: the dip timer has reached 2,000 µs (R192, R193). -/
def execSupplyDipReset (s : State) : Host.Outcome State Fault Refusal :=
  .next (s.modPart fun p =>
    if p.dipDue then
      p.underReset (match p.control.active with
        | some k => k.stronger .supplyDip
        | none => .supplyDip) { p.control with dip := none }
    else p)

/-- RESET_PIN_ASSERT: a running part enters a reset-pin reset; a part already in a reset stays in it, held by the pin
too (R192). -/
def execResetPinAssert (s : State) : Host.Outcome State Fault Refusal :=
  .next (s.modPart fun p =>
    if p.running then p.underReset .resetPin { p.control with pinLow := true }
    else { p with control := { p.control with pinLow := true } })

/-- RESET_END: RESETN is released, and the part starts if nothing else holds the reset (R192). -/
def execResetEnd (s : State) : Host.Outcome State Fault Refusal :=
  .next (s.modPart fun p =>
    let q := { p with control := { p.control with pinLow := false } }
    match q.control.active with
    | some kind => if q.resetOver then q.start kind else q
    | none => q)

end Sys2Proof.Machine
end

