-- ==== Sys2Proof/Machine/SlotEvents.lean ====
section
/-! DEFINITION. Sys2Proof/Machine/SlotEvents.lean: the meanings of the slot ports' events: links, presence, power-good, the slot
timers, the admission check read and settlement (Chapter 4). A timer's event changes nothing before it is due. -/
namespace Sys2Proof.Machine

/-- Settlement at its instant, and the RELEASE that was held until then (R66, R68). -/
def Part.settleNow (n : Slot) (p : Part) : Part :=
  let q := p.settleSlot n
  if p.ports[n].state = .fenced ∧ p.ports[n].releaseHeld = true then q.takeRelease n else q

/-- SETTLEMENT (R66). -/
def execSettlement (slot : Slot) (s : State) : Host.Outcome State Fault Refusal :=
  .next (s.modPart (Part.whileRunning fun p =>
    if p.settlementDue slot then Part.slotEvent (Part.settleNow slot) p else p))

/-- The link of a slot in TRAINING trains: QUARANTINE, or ADMITTED for slot 0 under the admission waiver (R58, R59, R77). -/
def Part.endTraining (n : Slot) (p : Part) : Part :=
  let q := p.modPort n fun x => { x.linkUp with stateTimer := none }
  if n.val = 0 ∧ p.plan.waiver = true then q.admitWaived n
  else (q.setState n .quarantine).modPort n fun x => { x with admitResult := .none }

/-- The link of slot `n` reports trained (R58, R67). -/
def Part.linkTrains (n : Slot) (p : Part) : Part :=
  match p.ports[n].state with
  | .training => Part.slotEvent (Part.endTraining n) p
  | .fenced => if p.ports[n].powerRemoved || p.ports[n].link then p else p.modPort n Port.linkUp
  | _ => p

/-- LINK_TRAINED (R58). -/
def execLinkTrained (slot : Slot) (s : State) : Host.Outcome State Fault Refusal :=
  .next (s.modPart (Part.whileRunning (Part.linkTrains slot)))

/-- A slot in QUARANTINE, ADMITTING or ADMITTED loses its link (R64, R78). -/
def Part.loseLink (n : Slot) (p : Part) : Part :=
  if n.val = 0 then p.retrain n else (p.modPort n Port.linkDown).enterFenced n .linkLost false

/-- The link of slot `n` reports lost (R12, R64, R67, R78). -/
def Part.linkFails (n : Slot) (p : Part) : Part :=
  match p.ports[n].state with
  | .quarantine | .admitting | .admitted => Part.slotEvent (Part.loseLink n) p
  | .fenced | .removing => (p.modPort n Port.linkDown).dropRequests n
  | _ => p

/-- LINK_LOST (R12). -/
def execLinkLost (slot : Slot) (s : State) : Host.Outcome State Fault Refusal :=
  .next (s.modPart (Part.whileRunning (Part.linkFails slot)))

/-- PRESENCE_LEVEL_CHANGE: the level of the pin changes, in a reset too, and the debounce follows it (R55). -/
def execPresenceLevelChange (slot : Slot) (present : Bool) (s : State) : Host.Outcome State Fault Refusal :=
  .next (s.modPart fun p =>
    (p.modPort slot fun x => { x with presentLevel := present }).whileRunning fun q =>
      q.modPort slot fun x => x.debounce q.now)

/-- PRESENCE_FOUND (R55, R56). -/
def execPresenceFound (slot : Slot) (s : State) : Host.Outcome State Fault Refusal :=
  .next (s.modPart (Part.whileRunning fun p =>
    if p.presenceDue slot true then Part.slotEvent (Part.presenceIsFound slot) p else p))

/-- PRESENCE_LOST (R55, R64, R67, R70). -/
def execPresenceLost (slot : Slot) (s : State) : Host.Outcome State Fault Refusal :=
  .next (s.modPart (Part.whileRunning fun p =>
    if p.presenceDue slot false then Part.slotEvent (Part.presenceIsLost slot) p else p))

/-- PWRGD_ASSERTED: the level of the pin, in a reset too; a slot in POWERING goes to TRAINING (R57). -/
def execPwrgdAsserted (slot : Slot) (s : State) : Host.Outcome State Fault Refusal :=
  .next (s.modPart fun p =>
    (p.modPort slot fun x => { x with pwrgd := true }).whileRunning
      fun q => if q.ports[slot].state = .powering then Part.slotEvent (Part.enterTraining slot) q else q)

/-- PWRGDn of slot `n` is deasserted (R58, R64, R67, R78). -/
def Part.powerFails (n : Slot) (p : Part) : Part :=
  match p.ports[n].state with
  | .training | .quarantine | .admitting | .admitted => Part.slotEvent (Part.powerFault n .powerFault) p
  | .fenced =>
    if p.ports[n].powerRemoved then p
    else (p.modPort n fun x => { x.linkDown with powerRemoved := true }).dropRequests n
  | _ => p

/-- PWRGD_DEASSERTED: the level of the pin, in a reset too; power is removed as the state gives (R58, R64, R67, R78). -/
def execPwrgdDeasserted (slot : Slot) (s : State) : Host.Outcome State Fault Refusal :=
  .next (s.modPart fun p =>
    (p.modPort slot fun x => { x with pwrgd := false }).whileRunning (Part.powerFails slot))

/-- POWER_GOOD_LIMIT_EXPIRY (R57, R78). -/
def execPowerGoodLimitExpiry (slot : Slot) (s : State) : Host.Outcome State Fault Refusal :=
  .next (s.modPart (Part.whileRunning fun p =>
    if p.powerGoodDue slot then Part.slotEvent (Part.powerFault slot .powerFault) p else p))

/-- TRAINING_LIMIT_EXPIRY (R58, R78). -/
def execTrainingLimitExpiry (slot : Slot) (s : State) : Host.Outcome State Fault Refusal :=
  .next (s.modPart (Part.whileRunning fun p =>
    if p.trainingDue slot then Part.slotEvent (Part.powerFault slot .trainTimeout) p else p))

/-- ADMIT_DELAY_EXPIRY (R63). -/
def execAdmitDelayExpiry (slot : Slot) (s : State) : Host.Outcome State Fault Refusal :=
  .next (s.modPart (Part.whileRunning fun p =>
    if p.admitDue slot then Part.slotEvent (Part.admitSlot slot) p else p))

/-- REMOVING_END (R71). -/
def execRemovingEnd (slot : Slot) (s : State) : Host.Outcome State Fault Refusal :=
  .next (s.modPart (Part.whileRunning fun p =>
    if p.removingDue slot then Part.slotEvent (Part.leaveRemoving slot) p else p))

/-- HEARTBEAT_WINDOW_EXPIRY (R74). -/
def execHeartbeatWindowExpiry (slot : Slot) (s : State) : Host.Outcome State Fault Refusal :=
  .next (s.modPart (Part.whileRunning fun p =>
    if p.heartbeatDue slot then Part.slotEvent (Part.loseHeartbeat slot .heartbeatLost) p else p))

/-- An admission check read at the front of the reads in flight completes; without its check record the data is discarded
(R16, R60, R61). -/
def Part.checkReadDone (err : Bool) (p : Part) : Part :=
  match p.flights with
  | { purpose := .check n live, data := data } :: rest =>
    let q := p.complete rest err
    if live then Part.settleSlots p.engine (q.judgeCheck n err data) else q
  | _ => p

/-- ADMISSION_CHECK_READ_COMPLETE (R60). -/
def execAdmissionCheckReadComplete (err : Bool) (s : State) : Host.Outcome State Fault Refusal :=
  .next (s.modPart (Part.whileRunning (Part.checkReadDone err)))

end Sys2Proof.Machine
end

