-- ==== Sys2Proof/Machine/TickEvents.lean ====
section
/-! DEFINITION. Sys2Proof/Machine/TickEvents.lean: the meanings of the tick unit's events: ticks, gate timers and strobe pulses
(Chapter 8). -/
namespace Sys2Proof.Machine

/-- TICK: one tick for the next boundary of the kind, once cabinet time has reached it (R150). -/
def execTick (kind : TickKind) (s : State) : Host.Outcome State Fault Refusal :=
  .next (s.modPart (Part.whileRunning fun p =>
    if p.tickDue kind then (p.emitTick kind 1).settleExchange p.engine else p))

/-- GATE_OPEN_DELAY_EXPIRY (R157). -/
def execGateOpenDelayExpiry (gate : GateNo) (s : State) : Host.Outcome State Fault Refusal :=
  .next (s.modPart (Part.whileRunning fun p =>
    if p.gateDelayDue gate then
      (p.modGate gate fun g => g.openNow p.plan.gates[gate] p.clock.state p.now).settleExchange p.engine
    else p))

/-- GATE_WINDOW_EXPIRY (R159). -/
def execGateWindowExpiry (gate : GateNo) (s : State) : Host.Outcome State Fault Refusal :=
  .next (s.modPart (Part.whileRunning fun p =>
    if p.gateWindowDue gate then
      (p.modGate gate fun g => { g with state := .closed }).settleExchange p.engine
    else p))

/-- STROBE_BEGIN: the pending strobe's period is reached and the line is driven (R161). -/
def execStrobeBegin (slot : Slot) (s : State) : Host.Outcome State Fault Refusal :=
  .next (s.modPart (Part.whileRunning fun p =>
    if p.strobeBeginDue slot then
      p.modPort slot fun x => { x with strobe := { x.strobe with pending := none, driven := some p.osc } }
    else p))

/-- STROBE_END: the pulse has lasted 125 oscillator periods and the line is released (R161). -/
def execStrobeEnd (slot : Slot) (s : State) : Host.Outcome State Fault Refusal :=
  .next (s.modPart (Part.whileRunning fun p =>
    if p.strobeEndDue slot then p.modPort slot fun x => { x with strobe := { x.strobe with driven := none } } else p))

end Sys2Proof.Machine
end

