-- ==== Sys2Proof/Machine/Dispatch.lean ====
section
/-! DEFINITION. Sys2Proof/Machine/Dispatch.lean: every command and its meaning, in the order of the opcode table. -/
namespace Sys2Proof.Machine

/-- The effect of a command on everything but the queue of commands that wait. -/
def exec (i : Instr) (s : State) : Host.Outcome State Fault Refusal :=
  match i with
  | .read slot tag addr len => Sys2Proof.Machine.execRead slot tag addr len s
  | .write slot tag addr data => Sys2Proof.Machine.execWrite slot tag addr data s
  | .accessGrant => Sys2Proof.Machine.execAccessGrant s
  | .apply value => Sys2Proof.Machine.execApply value s
  | .logConsumer value => Sys2Proof.Machine.execLogConsumer value s
  | .cutoff value => Sys2Proof.Machine.execCutoff value s
  | .seconds value => Sys2Proof.Machine.execSeconds value s
  | .fence slot => Sys2Proof.Machine.execFence slot s
  | .release slot => Sys2Proof.Machine.execRelease slot s
  | .heartbeat slot value => Sys2Proof.Machine.execHeartbeat slot value s
  | .admitWord slot value => Sys2Proof.Machine.execAdmitWord slot value s
  | .egressProducer slot cls value => Sys2Proof.Machine.execEgressProducer slot cls value s
  | .ingressConsumer slot cls value => Sys2Proof.Machine.execIngressConsumer slot cls value s
  | .readCompletion err => Sys2Proof.Machine.execReadCompletion err s
  | .admissionCheckReadComplete err => Sys2Proof.Machine.execAdmissionCheckReadComplete err s
  | .planReadComplete err => Sys2Proof.Machine.execPlanReadComplete err s
  | .activation => Sys2Proof.Machine.execActivation s
  | .headerReadComplete err => Sys2Proof.Machine.execHeaderReadComplete err s
  | .serviceChoice => Sys2Proof.Machine.execServiceChoice s
  | .copyReadComplete err => Sys2Proof.Machine.execCopyReadComplete err s
  | .holdExpired slot cls => Sys2Proof.Machine.execHoldExpired slot cls s
  | .settlement slot => Sys2Proof.Machine.execSettlement slot s
  | .linkTrained slot => Sys2Proof.Machine.execLinkTrained slot s
  | .linkLost slot => Sys2Proof.Machine.execLinkLost slot s
  | .presenceLevelChange slot present => Sys2Proof.Machine.execPresenceLevelChange slot present s
  | .presenceFound slot => Sys2Proof.Machine.execPresenceFound slot s
  | .presenceLost slot => Sys2Proof.Machine.execPresenceLost slot s
  | .pwrgdAsserted slot => Sys2Proof.Machine.execPwrgdAsserted slot s
  | .pwrgdDeasserted slot => Sys2Proof.Machine.execPwrgdDeasserted slot s
  | .powerGoodLimitExpiry slot => Sys2Proof.Machine.execPowerGoodLimitExpiry slot s
  | .trainingLimitExpiry slot => Sys2Proof.Machine.execTrainingLimitExpiry slot s
  | .admitDelayExpiry slot => Sys2Proof.Machine.execAdmitDelayExpiry slot s
  | .removingEnd slot => Sys2Proof.Machine.execRemovingEnd slot s
  | .heartbeatWindowExpiry slot => Sys2Proof.Machine.execHeartbeatWindowExpiry slot s
  | .referencePulse ref => Sys2Proof.Machine.execReferencePulse ref s
  | .miss ref => Sys2Proof.Machine.execMiss ref s
  | .holdoverLimit => Sys2Proof.Machine.execHoldoverLimit s
  | .secondTurnover => Sys2Proof.Machine.execSecondTurnover s
  | .tick kind => Sys2Proof.Machine.execTick kind s
  | .gateOpenDelayExpiry gate => Sys2Proof.Machine.execGateOpenDelayExpiry gate s
  | .gateWindowExpiry gate => Sys2Proof.Machine.execGateWindowExpiry gate s
  | .strobeBegin slot => Sys2Proof.Machine.execStrobeBegin slot s
  | .strobeEnd slot => Sys2Proof.Machine.execStrobeEnd slot s
  | .envChange input level => Sys2Proof.Machine.execEnvChange input level s
  | .raiseTimerExpiry point => Sys2Proof.Machine.execRaiseTimerExpiry point s
  | .clearTimerExpiry point => Sys2Proof.Machine.execClearTimerExpiry point s
  | .eventHoldExpiry point => Sys2Proof.Machine.execEventHoldExpiry point s
  | .statusRecordBegin => Sys2Proof.Machine.execStatusRecordBegin s
  | .powerOnReset => Sys2Proof.Machine.execPowerOnReset s
  | .supplyFall => Sys2Proof.Machine.execSupplyFall s
  | .supplyReturn => Sys2Proof.Machine.execSupplyReturn s
  | .supplyDipReset => Sys2Proof.Machine.execSupplyDipReset s
  | .resetPinAssert => Sys2Proof.Machine.execResetPinAssert s
  | .resetEnd => Sys2Proof.Machine.execResetEnd s

end Sys2Proof.Machine
end

