-- ==== Sys2Proof/Machine/Step.lean ====
section
/-! DEFINITION. Sys2Proof/Machine/Step.lean: the step of the machine. A step takes the command at the front of the queue; with
no command waiting the part goes on by itself: an event that is due happens, or else a response is sent, or else one
oscillator period passes. -/
namespace Sys2Proof.Machine

/-- The event of the part's own that is due at the present instant, the first of a fixed order where several are (log entry
10); none when the part has nothing left to do at this instant. Grants of the memory port, completions of reads, and
everything the pins and links bring come from outside and are never due here. -/
def Part.dueStep (p : Part) : Option Instr :=
  if p.resetOver then some .resetEnd
  else if p.dipDue then some .supplyDipReset
  else if !p.running then none
  else
    [ if p.activationDue then some .activation else none,
      (firstFin 12 p.settlementDue).map .settlement,
      (firstFin 12 p.removingDue).map .removingEnd,
      tickKinds.findSome? fun k => if p.tickDue k then some (.tick k) else none,
      (firstFin 89 p.eventHoldDue).map .eventHoldExpiry,
      (firstFin 8 p.gateWindowDue).map .gateWindowExpiry,
      (firstFin 8 p.gateDelayDue).map .gateOpenDelayExpiry,
      (firstFin 12 p.strobeEndDue).map .strobeEnd,
      (firstFin 12 p.strobeBeginDue).map .strobeBegin,
      if p.missDue .a then some (.miss .a) else none,
      if p.missDue .b then some (.miss .b) else none,
      if p.holdoverDue then some .holdoverLimit else none,
      (firstFin 12 fun n => p.presenceDue n false).map .presenceLost,
      (firstFin 12 fun n => p.presenceDue n true).map .presenceFound,
      (firstFin 12 p.powerGoodDue).map .powerGoodLimitExpiry,
      (firstFin 12 p.trainingDue).map .trainingLimitExpiry,
      (firstFin 12 p.admitDue).map .admitDelayExpiry,
      (firstFin 12 p.heartbeatDue).map .heartbeatWindowExpiry,
      (firstFin 96 p.holdDue).map fun r => .holdExpired (ringSlot r) (ringClass r),
      (firstFin 89 p.raiseDue).map .raiseTimerExpiry,
      (firstFin 89 p.clearDue).map .clearTimerExpiry,
      if p.choiceDue then some .serviceChoice else none,
      if p.recordDue then some .statusRecordBegin else none ].findSome? id

/-- What the part does when no command waits: the event that is due; with none due, a response that waits and that its link
sends now (R2; log entry 4); and else one oscillator period, which is a SECOND_TURNOVER when it carries cabinet time past a
second (R123, R124; log entry 10). -/
def idle (s : State) : Host.Outcome State Fault Refusal :=
  match s.part.dueStep with
  | some c => exec c s
  | none =>
    match s.part.sendDue with
    | some n => .next (s.modPart (Part.modPort n Port.sendOldest))
    | none => if s.part.turnoverDue then exec .secondTurnover s else .next (s.modPart Part.advance)

/-- One step of the machine: the command at the front of the queue, run with the queue's rest; without one, `idle`. -/
def step (s : State) : Host.Outcome State Fault Refusal :=
  match s.pending with
  | [] => idle s
  | c :: rest => exec c { s with pending := rest }

/-- `s` with the command that a word spells put at the front of its queue; no row of the table gives bits, so no word spells
one and `s` is unchanged (log entry 11). -/
def State.withFetchWord (s : State) (nbits w : Nat) : State :=
  match decodeTableWord nbits w with
  | some c => { s with pending := c :: s.pending }
  | none => s

end Sys2Proof.Machine
end

