-- ==== Sys2Proof/Machine/Pins.lean ====
section
/-! DEFINITION. Sys2Proof/Machine/Pins.lean: the levels of the part's pins (R198, Table 11-18). The other files speak of a line
as driven, on or asserted; here stands which level that is, what the part holds on each output and what an edge of each
input brings. ENV0–ENV7 read a contact, `Contact`, and need no level. -/
namespace Sys2Proof.Machine

/-- The level of a pin. -/
inductive Level where
  | low
  | high
  deriving DecidableEq, Repr

/-- The other level. -/
def Level.other : Level → Level
  | .low => .high
  | .high => .low

/-- The output pins with two levels (Table 11-18). -/
inductive OutputPin where
  | pwren (n : Slot)
  | attn (n : Slot)
  | strobe (n : Slot)
  | relayCritical
  | relayMajor
  | relayMinor
  deriving DecidableEq, Repr

/-- The level at which an output is on, driven or energised: ATTNn is driven low, every other output high (R198). -/
def OutputPin.activeLevel : OutputPin → Level
  | .attn _ => .low
  | .pwren _ | .strobe _ | .relayCritical | .relayMajor | .relayMinor => .high

/-- Whether an output is on, driven or energised (R56, R75, R161, R174). -/
def Part.outputActive (p : Part) : OutputPin → Bool
  | .pwren n => p.pwren n
  | .attn n => p.attn n
  | .strobe n => p.strobe n
  | .relayCritical => p.relay .critical
  | .relayMajor => p.relay .major
  | .relayMinor => p.relay .minor

/-- The level the part holds on an output pin (R198). -/
def Part.outputLevel (p : Part) (o : OutputPin) : Level :=
  if p.outputActive o then o.activeLevel else o.activeLevel.other

/-- The input pins whose level means something (R198). -/
inductive LevelPin where
  | present (n : Slot)
  | pwrgd (n : Slot)
  | resetN
  deriving DecidableEq, Repr

/-- The level at which PRESENTn says present, PWRGDn is asserted and RESETN is asserted (R198). -/
def LevelPin.activeLevel : LevelPin → Level
  | .present _ => .low
  | .pwrgd _ => .high
  | .resetN => .low

/-- Whether an input is at its active level, as the part last took it. -/
def Part.inputActive (p : Part) : LevelPin → Bool
  | .present n => p.ports[n].presentLevel
  | .pwrgd n => p.ports[n].pwrgd
  | .resetN => p.control.pinLow

/-- The level of an input pin, as the part last took it (R198). -/
def Part.inputLevel (p : Part) (i : LevelPin) : Level :=
  if p.inputActive i then i.activeLevel else i.activeLevel.other

/-- The command a change of an input pin to `level` stands for (R55, R57, R192, R198). -/
def LevelPin.edge (i : LevelPin) (level : Level) : Instr :=
  match i, level with
  | .present n, .low => .presenceLevelChange n true
  | .present n, .high => .presenceLevelChange n false
  | .pwrgd n, .high => .pwrgdAsserted n
  | .pwrgd n, .low => .pwrgdDeasserted n
  | .resetN, .low => .resetPinAssert
  | .resetN, .high => .resetEnd

/-- The command an edge of REFA or REFB stands for: a rising edge is a pulse, and a falling edge is nothing (R128, R198). -/
def referenceEdge (ref : RefId) (level : Level) : Option Instr :=
  match level with
  | .high => some (.referencePulse ref)
  | .low => none

end Sys2Proof.Machine
end

