-- ==== Sys2Proof/Safety.lean ====
section
/-! DEFINITION. Sys2Proof/Safety.lean: what holds of a sound state, in the terms the statements use. Each predicate is one law the
manual states of the part at every instant; a step keeps them and the state after reset has them. -/
namespace Sys2Proof.Machine

/-- Exchange memory is in its canonical form. -/
def State.canonical (s : State) : Prop := s.memory.wf = true

/-- The queue of a slot holds at most 8 requests, and while the link is trained the card holds one credit for each free
place of it; while the link is not trained it holds none (R4). -/
def Port.flowSound (x : Port) : Prop :=
  x.queue.length ≤ 8 ∧ x.credits = if x.link then 8 - x.queue.length else 0

/-- The tags of the requests of slot `n` that are still open: those in its queue, those whose response is made and not yet
sent, and those of its READs in flight (R3). -/
def Part.openTags (p : Part) (n : Slot) : List Tag :=
  p.ports[n].queue.map Request.tag ++ p.ports[n].unsent.map Response.tag ++ p.flights.filterMap fun f =>
    match f.purpose with
    | .card m t _ _ => if m = n then some t else none
    | _ => none

/-- The tag table of a slot holds exactly the tags of its open requests, each once (R3). -/
def Part.tagsSound (p : Part) (n : Slot) : Prop :=
  (p.openTags n).Nodup ∧ p.ports[n].tags.Nodup ∧ ∀ t, t ∈ p.ports[n].tags ↔ t ∈ p.openTags n

/-- A card without a link, or one that is being removed, is owed no response: no READ of it waits, no response of it is made and
not sent, and its READs in flight are dropped when they complete (R12). The link is up in QUARANTINE, ADMITTING and ADMITTED,
and outside these in REMOVING or, with power kept, in FENCED at most (R58, R65, R67). -/
def Part.answersSound (p : Part) (n : Slot) : Prop :=
  let x := p.ports[n]
  (x.state.linked = true → x.link = true)
    ∧ (x.link = true → x.state.linked = true ∨ x.state = .removing ∨ (x.state = .fenced ∧ x.powerRemoved = false))
    ∧ (x.link = false ∨ x.state = .removing →
        x.unsent = [] ∧ (∀ q ∈ x.queue, q.isRead = false)
          ∧ ∀ f ∈ p.flights, ∀ t fenced dropped, f.purpose = .card n t fenced dropped → dropped = true)

/-- An admission check record stands in QUARANTINE alone, and at most one read in flight is the live one of it (R59, R61). -/
def Part.checkSound (p : Part) (n : Slot) : Prop :=
  (p.ports[n].check.isSome = true → p.ports[n].state = .quarantine)
    ∧ (p.flights.filter fun f => f.purpose == .check n true).length ≤
        match p.ports[n].check with
        | some k => if k.inFlight then 1 else 0
        | none => 0

/-- The request side of every slot port is sound. -/
def Part.portsSound (p : Part) : Prop := ∀ n : Slot, p.ports[n].flowSound ∧ p.tagsSound n ∧ p.answersSound n ∧ p.checkSound n

/-- The serial number of an identity is at most its 8 bytes (R54, R60). -/
def Part.identitiesSound (p : Part) : Prop := ∀ (n : Slot) (i : Identity), p.ports[n].identity = some i → i.serial.length ≤ 8

/-- What a slot port does for an ADMITTED card it does for no other: its strobe is armed, pending or driven, its attention line
driven and its heartbeat supervised only while it is ADMITTED (R72, R75, R162); the admission waiver is slot 0's and holds
only then (R77). -/
def Part.serviceSound (p : Part) : Prop :=
  ∀ n : Slot, let x := p.ports[n]
    ((x.strobe.armed = true ∨ x.strobe.pending.isSome = true ∨ x.strobe.driven.isSome = true ∨ p.attn n = true
        ∨ x.heartbeat.supervising = true) → x.state = .admitted)
      ∧ (x.waived = true → n = 0 ∧ x.state = .admitted)

/-- Slot 0 is not FENCED (R32, R78). -/
def Part.zeroUnfenced (p : Part) : Prop := p.ports[(0 : Slot)].state ≠ .fenced

/-- The increment is the one the correction gives, and the correction is Facc + P; a selected reference is QUALIFIED, and the
clock is ACQUIRING or TRACKING exactly while one is selected (R133, R135, R136). -/
def Clock.sound (k : Clock) : Prop :=
  k.increment = incrementOf k.c ∧ k.c = k.facc + k.p
    ∧ (∀ r, k.selected = some r → (k.ref r).state = .qualified)
    ∧ (k.selected.isSome = true ↔ k.state = .acquiring ∨ k.state = .tracking)

/-- The integration start of an alarm point is present exactly in RISING and FALLING, and its raise count is at most 255
(Table 9-1). -/
def AlarmPoint.sound (x : AlarmPoint) : Prop :=
  (x.start.isSome = true ↔ x.state = .rising ∨ x.state = .falling) ∧ x.raiseCount ≤ 255

/-- Every alarm point record is sound. -/
def Part.alarmsSound (p : Part) : Prop := ∀ i : Point, p.alarm.points[i].sound

/-- A point is RISING or RAISED exactly while its effective condition is true (R169, R170). -/
def Part.alarmsFollow (p : Part) : Prop :=
  ∀ i : Point, (effective p.plan.alarm.points[i] p.alarm.points[i].raw = true) ↔
    p.alarm.points[i].state = .rising ∨ p.alarm.points[i].state = .raised

/-- While the part runs, the raw condition of every condition-type point is the condition its owner's rule gives at this
instant (R76, R138, R165–R167). -/
def Part.alarmsReported (p : Part) : Prop :=
  p.running = true → ∀ i : Point, ∀ b, p.condition i = some b → p.alarm.points[i].raw = b

/-- Copies discarded against a slot, all reasons (Table 6-2). -/
def Counters.discards (c : Counters) : Word :=
  c.holdExpired + c.destDown + c.oversize + c.sourceDown + c.plan + c.memory

/-- Destinations held in the head records of a slot's egress rings. -/
def Part.heldDests (p : Part) (n : Slot) : Nat :=
  ((List.finRange 4).map fun c => match p.headRecord (egressRing n c) with
    | some h => h.dests.length
    | none => 0).sum

/-- Copies owed equal copies delivered plus copies discarded plus the destinations still held, modulo 2³² (R104). -/
def Part.conserved (p : Part) : Prop :=
  ∀ n : Slot, p.ports[n].counters.owed =
    p.ports[n].counters.delivered + p.ports[n].counters.discards + BitVec.ofNat 32 (p.heldDests n)

/-! ### Frames: the part with what an event may change taken out. Two parts with the same view agree in everything else. -/

/-- What the exchange may change of a port: its counters (Table 6-2). -/
def Port.besidesCounters (x : Port) : Port := { x with counters := Counters.zero }

/-- What the exchange may change of a ring: its take state, and the consumer index of an egress ring (R89, R94). -/
def Ring.besidesTake (r : RingNo) (x : Ring) : Ring :=
  { x with consumer := if isEgress r then 0 else x.consumer, take := .idle }

/-- The part besides the exchange: exchange counters, take states and egress consumer indices, the engine's records but for
the last-second discards, and whether a gate is open (a copy start closes a PULSE gate, R158). -/
def Part.besidesExchange (p : Part) : Part :=
  { p with
    ports := mapTable (fun _ => Port.besidesCounters) p.ports
    rings := mapTable Ring.besidesTake p.rings
    engine := { Engine.reset with lastSecond := p.engine.lastSecond }
    gates := mapTable (fun _ g => { g with state := .closed }) p.gates }

/-- The alarm unit besides the point records and cut-off. -/
def Alarm.besidesPoints (a : Alarm) : Alarm := { Alarm.reset with discards := a.discards }

/-- The status writer besides what transitions change: the dirty set, the sequence and overflow counts, the records offered
to the log with the mark of them, and the access issued (R171, R180, R189). -/
def Status.besidesOffers (st : Status) : Status :=
  { st with
    dirty := Vector.replicate 17 false
    log := { st.log with nextSequence := 0, overflow := 0 }
    logQueue := []
    waiting := none
    offered := 0 }

/-- The part besides the alarm points and what their transitions reach. -/
def Part.besidesAlarms (p : Part) : Part :=
  { p with alarm := p.alarm.besidesPoints, status := p.status.besidesOffers }

/-- The clock besides the references and what the selection decides: cabinet time, the epoch, the trained flag, Facc, the last
phase error and a pending SECONDS value stay (R133, R136, R137). -/
def Clock.besidesSelection (k : Clock) : Clock :=
  { Clock.reset with
    seconds := k.seconds, ns := k.ns, fraction := k.fraction, epoch := k.epoch, trained := k.trained, facc := k.facc,
    lastError := k.lastError, pendingSeconds := k.pendingSeconds }

/-- A read in flight without the marks a fence, a lost link or the end of a check leaves on it (R11, R12, R61). -/
def Flight.besidesMarks (f : Flight) : Flight :=
  match f.purpose with
  | .card n t _ _ => { f with purpose := .card n t false false }
  | .check n _ => { f with purpose := .check n false }
  | .plan | .header _ | .copy => f

/-- The part besides an event of slot `n`: slot port `n`, the marks of reads in flight, the references and the selection,
alarm points, and the exchange. -/
def Part.besidesSlot (n : Slot) (p : Part) : Part :=
  let q := p.besidesExchange.besidesAlarms
  { q with
    ports := modify q.ports n fun _ => Port.reset false false
    flights := q.flights.map Flight.besidesMarks
    clock := q.clock.besidesSelection }

/-- A ring besides its reset: a ring of slot `n` is left out whole (R98). -/
def Ring.besidesReset (n : Slot) (r : RingNo) (x : Ring) : Ring := if ringSlot r = n then Ring.reset else x

/-- The watched-word copies besides the index words of slot `n` (R98). -/
def Watched.besidesIndices (n : Slot) (w : Watched) : Watched :=
  let clear := fun (i : Fin 48) (v : Word) => if i.val / 4 = n.val then 0 else v
  { w with egressProducer := mapTable clear w.egressProducer, ingressConsumer := mapTable clear w.ingressConsumer }

/-- The part besides an event of slot `n` that may admit it, which resets the slot's rings too (R63, R98). -/
def Part.besidesAdmission (n : Slot) (p : Part) : Part :=
  let q := p.besidesSlot n
  { q with rings := mapTable (Ring.besidesReset n) q.rings, watched := q.watched.besidesIndices n }

/-- How many accesses of the copy are issued and not done: one that waits for the memory port, and reads in flight (R111). -/
def Part.copyAccesses (p : Part) : Nat :=
  (match p.engine.waiting with
    | some .copyRead | some (.copyWrite _) | some .copyProducer => 1
    | _ => 0) + (p.flights.filter fun f => f.purpose == .copy).length

/-- The copies of frames are accounted for: R104's balance; a ring on the take list is LISTED (R89); a destination set holds
each slot once (R93); a copy that is not void is made of the head of its ring for a destination still in its set, and a
void one asks for nothing more (R99, R109); of the copy's accesses one at most is due or issued, and none without a copy
(R111). -/
def Part.exchangeSound (p : Part) : Prop :=
  p.conserved
    ∧ (∀ r ∈ p.engine.takeList, p.rings[r].take = .listed)
    ∧ (∀ r h, p.headRecord r = some h → h.dests.Nodup)
    ∧ (∀ c, p.engine.copy = some c → if c.void then c.due = .nothing
        else c.headPresent = true ∧ ∃ h, p.headRecord c.ring = some h ∧ c.dest ∈ h.dests)
    ∧ (match p.engine.copy with
        | none => p.copyAccesses = 0
        | some c => p.copyAccesses + (if c.due = .nothing then 0 else 1) ≤ 1
            ∧ (p.engine.waiting = some .copyProducer → c.void = false))

/-- Two areas of addresses have no address in common. -/
def Apart (base₁ size₁ base₂ size₂ : Nat) : Prop := base₁ + size₁ ≤ base₂ ∨ base₂ + size₂ ≤ base₁

/-- An area lies in exchange memory outside the control region (Table 3-8). -/
def Plan.holdsArea (plan : Plan) (base size : Nat) : Prop := Config.controlEnd ≤ base ∧ base + size ≤ plan.memorySize

/-- The areas of a plan are laid out as the structural checks ask: aligned, inside exchange memory and outside the control
region, the rings apart from each other, the windows and the log apart from the rings, and the log apart from the windows
(R22, R33, Table 3-8). -/
def Plan.laidOut (plan : Plan) : Prop :=
  (∀ r : RingNo, plan.rings[r].present = true →
      plan.rings[r].base % 128 = 0 ∧ plan.holdsArea plan.rings[r].base plan.rings[r].areaSize
        ∧ ∀ q : RingNo, q ≠ r → plan.rings[q].present = true →
            Apart plan.rings[r].base plan.rings[r].areaSize plan.rings[q].base plan.rings[q].areaSize)
    ∧ (∀ (n : Slot) (w : Fin 6), plan.slots[n].windows[w].size ≠ 0 →
        plan.slots[n].windows[w].base % 4096 = 0 ∧ plan.slots[n].windows[w].size % 4096 = 0
          ∧ plan.holdsArea plan.slots[n].windows[w].base plan.slots[n].windows[w].size
          ∧ (∀ r : RingNo, plan.rings[r].present = true →
              Apart plan.slots[n].windows[w].base plan.slots[n].windows[w].size plan.rings[r].base plan.rings[r].areaSize)
          ∧ (plan.alarm.logCapacity ≠ 0 →
              Apart plan.slots[n].windows[w].base plan.slots[n].windows[w].size plan.alarm.logBase
                (32 * plan.alarm.logCapacity)))
    ∧ (plan.alarm.logCapacity ≠ 0 →
        plan.alarm.logBase % 32 = 0 ∧ plan.holdsArea plan.alarm.logBase (32 * plan.alarm.logCapacity)
          ∧ ∀ r : RingNo, plan.rings[r].present = true →
              Apart plan.alarm.logBase (32 * plan.alarm.logCapacity) plan.rings[r].base plan.rings[r].areaSize)

/-- The active plan and, where there is one, the staged plan are laid out. -/
def Part.plansLaidOut (p : Part) : Prop :=
  p.plan.laidOut ∧ ∀ plan, p.loader.staged = some plan → plan.laidOut

/-- Every ring holds at most its entry count, and an absent ring nothing (R84); the entries of a head are posted (R87, R90); the
frame of a copy that is not void still fits its destination ring, which has stood still since the copy started (R105, R109);
the take list holds a ring once and the index write queue a word once (R89, R103); and no WRITE's words are half handed over
(the model's own mark, log entry 30). -/
def Part.ringsSound (p : Part) : Prop :=
  (∀ r : RingNo, p.rings[r].occupancy ≤ p.plan.rings[r].count)
    ∧ (∀ r h, p.headRecord r = some h → 1 ≤ h.header.entries ∧ h.header.entries ≤ p.rings[r].occupancy)
    ∧ (∀ c h, p.engine.copy = some c → c.void = false → p.headRecord c.ring = some h →
        let into := ingressRing c.dest (ringClass c.ring)
        c.destPos = p.rings[into].producer ∧ h.header.entries ≤ p.freeEntries into)
    ∧ p.engine.takeList.Nodup
    ∧ (p.engine.indexQueue.map IndexWrite.ring).Nodup
    ∧ p.engine.handing = false

/-- Byte address `a` is one that request `q` covers (R1). -/
def Request.covers (q : Request) (a : Nat) : Prop := q.first ≤ a ∧ a < q.first + q.length

/-- Byte address `a` lies in the area of present ring `r` (R22). -/
def Plan.inRing (plan : Plan) (r : RingNo) (a : Nat) : Prop :=
  plan.rings[r].present = true ∧ plan.rings[r].base ≤ a ∧ a < plan.rings[r].base + plan.rings[r].areaSize

/-- A request reaches tests 4 to 6 of R5: its slot is not FENCED or REMOVING, its tag is free and its form is good. -/
def Port.judges (x : Port) (q : Request) : Prop :=
  x.state ≠ .fenced ∧ x.state ≠ .removing ∧ q.tag ∉ x.tags ∧ q.formed = true

/-! ### Commands -/

/-- The command by which a request reaches the part (R1). -/
def Request.command (q : Request) (n : Slot) : Instr :=
  match q.body with
  | .read len => .read n q.tag q.addr len
  | .write data => .write n q.tag q.addr data

/-- The command that hands a watched word over with a merged value; none for a SLOT COMMAND value that is neither FENCE nor
RELEASE (R18, R69). -/
def WatchedWord.command : WatchedWord → Word → Option Instr
  | .egressProducer n c, v => some (.egressProducer n c v)
  | .ingressConsumer n c, v => some (.ingressConsumer n c v)
  | .heartbeat n, v => some (.heartbeat n v)
  | .admitWord n, v => some (.admitWord n v)
  | .apply, v => some (.apply v)
  | .logConsumer, v => some (.logConsumer v)
  | .cutoff, v => some (.cutoff v)
  | .seconds, v => some (.seconds v)
  | .slotCommand n, v => if v = 1 then some (.fence n) else if v = 2 then some (.release n) else none

/-- The state after watched word `k` has been handed over with merged value `v`: after its command, and with the copy alone
changed where it has none. -/
def State.handOver (k : WatchedWord) (v : Word) (s : State) : State :=
  match k.command v with
  | some c =>
    match exec c s with
    | .next t => t
    | _ => s
  | none => s.modPart (Part.setWatched k v)

/-- An alarm point after it has acted on its effective condition at service-clock time `now` and cabinet time `time` (the tables
of R169 and R170, with what a transition makes of the point, R171). -/
def AlarmPoint.acted (x : AlarmPoint) (plan : PointPlan) (now : Nat) (time : CabinetTime) : AlarmPoint :=
  match x.state, x.raw || plan.force with
  | .clear, true =>
    if plan.raiseTime = 0 then
      { x with state := .raised, start := none, raiseCount := min 255 (x.raiseCount + 1), lastChange := some time }
    else { x with state := .rising, start := some now }
  | .rising, false => { x with state := .clear, start := none }
  | .raised, false =>
    if plan.clearTime = 0 then { x with state := .clear, start := none, lastChange := some time }
    else { x with state := .falling, start := some now }
  | .falling, true => { x with state := .raised, start := none }
  | .clear, false | .rising, true | .raised, true | .falling, false => x

/-! ### Reads in flight across an entry -/

/-- The reads in flight after slot `n` was fenced with its link up (`fence`), or was fenced with its link down, entered REMOVING
or lost its link: its card READs carry the mark R10 judges them by, and a check read of it is no longer live (R11, R12, R61). -/
def markedFlights (n : Slot) (fence : Bool) (l : List Flight) : List Flight :=
  l.map fun f =>
    match f.purpose with
    | .card m t a b =>
      if m = n then { f with purpose := .card m t (if fence then true else a) (if fence then b else true) } else f
    | .check m live => { f with purpose := .check m (live && m != n) }
    | .plan | .header _ | .copy => f

/-! ### Ports after an entry -/

/-- A slot port after its entry to FENCED for reason `why`: with its link up REFUSAL FENCED is made for the queued READs, with
its link down they are dropped with every response not yet sent; `off` when power is removed (R11, R12, R65). -/
def Port.fencedBy (x : Port) (why : FenceReason) (off : Bool) : Port :=
  let y := if off then x.linkDown else x
  { (if y.link then y.refuseReads else y.dropReads) with
    state := .fenced
    check := none
    heartbeat := { x.heartbeat with supervising := false }
    waived := false
    strobe := Strobe.reset
    stateTimer := none
    fenceReason := why
    powerRemoved := off
    settlementOwed := true
    releaseHeld := false }

/-- A slot port after its entry to REMOVING at service-clock time `now`; `cycle` for a power cycle of slot 0 (R12, R70,
R71). -/
def Port.removedBy (x : Port) (cycle : Bool) (now : Nat) : Port :=
  { x.dropReads with
    state := .removing
    check := none
    heartbeat := { x.heartbeat with supervising := false }
    waived := false
    strobe := Strobe.reset
    stateTimer := if cycle then some now else none
    fenceReason := .none
    powerRemoved := false
    settlementOwed := true
    releaseHeld := false
    powerCycle := cycle }

/-- A slot port after its entry to POWERING at service-clock time `now`, or on to TRAINING with PWRGDn asserted (R57). -/
def Port.powered (x : Port) (now : Nat) : Port :=
  { x.linkDown with state := if x.pwrgd then .training else .powering, stateTimer := some now }

/-- A slot port after its entry to EMPTY (R56). -/
def Port.emptied (x : Port) : Port :=
  { x.linkDown with
    state := .empty
    stateTimer := none
    identity := none
    identityShown := false
    admitResult := .none
    waived := false
    heartbeat := { x.heartbeat with lost := false }
    violations := 0
    powerRemoved := false
    fenceReason := .none }

/-- Heartbeat supervision begun at service-clock time `now` with key `key` (R72). -/
def Heartbeat.begun (key : Word) (now : Nat) : Heartbeat :=
  { supervising := true, expected := key, lastValid := none, windowStart := now, lost := false }

/-- Slot port `n` after an activation that replaces its slot entry `old` by `new`, at service-clock time `now`: the first change
of R79 that applies, or none, and the new heartbeat key (R77, R80). -/
def Port.replanned (x : Port) (n : Slot) (old new : SlotPlan) (now : Nat) : Port :=
  let powered := x.state = .powering ∨ x.state = .training ∨ x.state.linked = true ∨ x.state = .fenced
  let mismatch : Option AdmitResult :=
    match x.state, x.identity with
    | .admitting, some i | .admitted, some i =>
      if new.expectedKind ≠ 0 ∧ i.kind ≠ new.expectedKind then some .kind
      else if i.revision < new.minRevision then some .revision
      else none
    | _, _ => none
  let y : Port :=
    if new.enabled = false ∧ powered then x.removedBy false now
    else if new.enabled = true ∧ x.state = .standby then x.powered now
    else
      match mismatch with
      | some why => if n = 0 then { x with admitResult := why } else x.fencedBy .planMismatch false
      | none =>
        if x.state = .quarantine then { x with check := none }
        else if n = 0 ∧ x.state = .admitted ∧ x.waived = true then
          { x with
            heartbeat := Heartbeat.begun new.key now, strobe := { x.strobe with armed := true }, waived := false }
        else x
  if y.heartbeat.supervising = true ∧ old.key ≠ new.key then { y with heartbeat := Heartbeat.begun new.key now } else y

/-- No timer of a slot port has run its length under slot entry `plan` at service-clock time `now` (R80). -/
def Port.untimed (x : Port) (plan : SlotPlan) (now : Nat) : Prop :=
  (∀ t, x.presenceTimer = some t → now < t + plan.debounce * 1000)
    ∧ (∀ t, x.stateTimer = some t →
        (x.state = .powering → now < t + plan.powerGoodLimit * 1000)
          ∧ (x.state = .training → now < t + plan.trainingLimit * 1000)
          ∧ (x.state = .admitting → now < t + plan.admitDelay * 1000))
    ∧ (x.heartbeat.supervising = true → x.heartbeat.lost = false →
        now < x.heartbeat.windowStart + plan.heartbeatPeriod * 1000)

end Sys2Proof.Machine
end

