-- ==== Sys2Proof/Certificates/Slice0/Obligations.lean ====
section
/-! DEFINITION. Sys2Proof/Certificates/Slice0/Obligations.lean: the statements for the provers. Frames are said with the views of
Sys2Proof/Safety.lean: two parts with the same view agree in everything the view does not leave out. -/
open Sys2Proof Sys2Proof.Machine

/-! ### The machine as a whole -/

/-- A step takes the command at the front of the queue and runs it on the state with the queue's rest. -/
def Obligations.StepRunsFrontCommand : Prop :=
  ∀ (c : Instr) (s : State), step { s with pending := c :: s.pending } = exec c s

/-- Every command in every state answers a next state (the model stops on no command), and the queue of waiting commands stays as
it was. Exchange memory changes by granted accesses alone: every command but ACCESS_GRANT leaves every byte of it as it was
(R13, R20). -/
def Obligations.EveryCommandAnswersNext : Prop :=
  ∀ (c : Instr) (s : State), ∃ t, exec c s = .next t ∧ t.pending = s.pending
    ∧ (c ≠ .accessGrant → t.memory = s.memory)

/-- While a reset lasts only the input pins, the supply, the resets and the passing of time change anything (R192); and the
events that the part's own timers and conditions bring have no effect before they are due (log entry 10). -/
def Obligations.CommandsWaitForResetAndDueTime : Prop :=
  ∀ (c : Instr) (s : State),
    (s.part.running = false →
      (match c with
        | .presenceLevelChange _ _ | .pwrgdAsserted _ | .pwrgdDeasserted _ | .envChange _ _ | .secondTurnover
        | .powerOnReset | .supplyFall | .supplyReturn | .supplyDipReset | .resetPinAssert | .resetEnd => False
        | _ => True) →
      exec c s = .next s)
    ∧ ((match c with
        | .settlement n => s.part.settlementDue n = false
        | .presenceFound n => s.part.presenceDue n true = false
        | .presenceLost n => s.part.presenceDue n false = false
        | .powerGoodLimitExpiry n => s.part.powerGoodDue n = false
        | .trainingLimitExpiry n => s.part.trainingDue n = false
        | .admitDelayExpiry n => s.part.admitDue n = false
        | .removingEnd n => s.part.removingDue n = false
        | .heartbeatWindowExpiry n => s.part.heartbeatDue n = false
        | .activation => s.part.activationDue = false
        | .serviceChoice => s.part.choiceDue = false
        | .holdExpired n c => s.part.holdDue (egressRing n c) = false
        | .miss r => s.part.missDue r = false
        | .holdoverLimit => s.part.holdoverDue = false
        | .secondTurnover => s.part.turnoverDue = false
        | .tick k => s.part.tickDue k = false
        | .gateOpenDelayExpiry g => s.part.gateDelayDue g = false
        | .gateWindowExpiry g => s.part.gateWindowDue g = false
        | .strobeBegin n => s.part.strobeBeginDue n = false
        | .strobeEnd n => s.part.strobeEndDue n = false
        | .raiseTimerExpiry i => s.part.raiseDue i = false
        | .clearTimerExpiry i => s.part.clearDue i = false
        | .eventHoldExpiry i => s.part.eventHoldDue i = false
        | .statusRecordBegin => s.part.recordDue = false
        | .supplyDipReset => s.part.dipDue = false
        | _ => False) →
      exec c s = .next s)

/-! ### Invariants every step keeps -/

/-- Every step keeps exchange memory in its canonical form. -/
def Obligations.StepKeepsMemoryCanonical : Prop :=
  ∀ s t : State, s.canonical → step s = .next t → t.canonical

/-- Every step keeps the request side sound: at most 8 requests queue, a trained card holds one credit for each free place
(R4); the tag table holds exactly the tags of the open requests, each once (R3); a card without a link or in REMOVING is owed
no response (R12); and a check record stands in QUARANTINE alone, with at most one live read of it in flight (R59, R61). And every
step keeps the serial number of every identity within its 8 bytes (R54). -/
def Obligations.StepKeepsRequestSideSound : Prop :=
  (∀ s t : State, s.part.portsSound → step s = .next t → t.part.portsSound)
    ∧ ∀ s t : State, s.part.identitiesSound → step s = .next t → t.part.identitiesSound

/-- Slot 0 never enters FENCED (R32, R78): no step fences it. -/
def Obligations.StepNeverFencesSlotZero : Prop :=
  ∀ s t : State, s.part.zeroUnfenced → step s = .next t → t.part.zeroUnfenced

/-- Every step keeps the clock sound: the increment follows C, C is Facc + P, a selected reference is QUALIFIED, and the clock
is ACQUIRING or TRACKING exactly while a reference is selected (R133, R135, R136, R143). -/
def Obligations.StepKeepsClockSound : Prop :=
  ∀ s t : State, s.part.clock.sound → step s = .next t → t.part.clock.sound

/-- Every step keeps the alarm points sound: an integration start exactly in RISING and FALLING, a raise count of at most 255,
and RISING or RAISED exactly while the effective condition is true (R164, R169, R170). -/
def Obligations.StepKeepsAlarmPointsSound : Prop :=
  ∀ s t : State, s.part.alarmsSound → s.part.alarmsFollow → step s = .next t →
    t.part.alarmsSound ∧ t.part.alarmsFollow

/-- Every step keeps the raw condition of every condition-type point equal to what its owner's rule gives at that instant
(R76, R138, R165–R167). -/
def Obligations.StepKeepsConditionsReported : Prop :=
  ∀ s t : State, s.part.alarmsReported → step s = .next t → t.part.alarmsReported

/-- Every step keeps the copies of frames accounted for: for each slot, copies owed are copies delivered, discarded or still
held in a head (R104), with the bookkeeping of heads and of the copy in progress that this rests on. -/
def Obligations.StepKeepsCopiesAccountedFor : Prop :=
  ∀ s t : State, s.part.exchangeSound → step s = .next t → t.part.exchangeSound

/-- Every step keeps the active plan, and the staged plan where there is one, laid out as the structural checks ask: no ring,
window or log area of them overlaps a ring or the control region or leaves exchange memory (R22, R23, R33, R43, R47). -/
def Obligations.StepKeepsPlansLaidOut : Prop :=
  ∀ s t : State, s.part.plansLaidOut → step s = .next t → t.part.plansLaidOut

/-- Every step keeps each ring within its entry count, 0 ≤ producer − consumer ≤ entry count, with an absent ring empty (R84),
given that the copies are accounted for: no posting, delivery, retirement, settlement or reset takes a ring beyond it. The
bookkeeping this rests on is kept with it: posted heads (R87, R90), the space of the copy in progress (R105), and a ring once
on the take list and in the index write queue (R89, R103). -/
def Obligations.StepKeepsRingsWithinTheirCounts : Prop :=
  ∀ s t : State, s.part.exchangeSound → s.part.ringsSound → step s = .next t → t.part.ringsSound

/-- Every step keeps strobe, attention and heartbeat supervision to ADMITTED slots, and the waiver to an ADMITTED slot 0 (R72,
R75, R77, R162). -/
def Obligations.StepKeepsServiceToAdmittedSlots : Prop :=
  ∀ s t : State, s.part.serviceSound → step s = .next t → t.part.serviceSound

/-- The state after reset meets every invariant above. -/
def Obligations.ResetMeetsTheInvariants : Prop :=
  State.reset.canonical ∧ State.reset.part.portsSound ∧ State.reset.part.zeroUnfenced ∧ State.reset.part.clock.sound
    ∧ State.reset.part.alarmsSound ∧ State.reset.part.alarmsFollow ∧ State.reset.part.alarmsReported
    ∧ State.reset.part.exchangeSound ∧ State.reset.part.plansLaidOut ∧ State.reset.part.ringsSound
    ∧ State.reset.part.serviceSound ∧ State.reset.part.identitiesSound

/-! ### Requests and windows (Chapters 1 and 2) -/

/-- The outcome of a request, test by test (R5): FENCED, then TAG_BUSY, then BOUNDARY for a request that is not well formed (R1).
For a request of an ADMITTED slot that passes these, in the control region: the plan area is open to READs and to slot 0's
WRITEs, the command block to slot 0, the status area to READs, and the unused parts and another slot's ring index block or
admit area to nobody (R7, R8). Beyond it, under a plan that is laid out: nothing lies above the memory size; a ring area is
open to its own slot, for WRITEs if it is an egress ring's; and what lies in no ring and apart from the log is open through a
window of the slot that covers it with the right it needs (R22, R24). -/
def Obligations.RequestsAreDecidedTestByTest : Prop :=
  ∀ (plan : Plan) (x : Port) (n : Slot) (q : Request),
    let a := q.addr.toNat
    let size := match q.body with
      | .read len => len
      | .write data => data.length
    let formed := (q.isRead = true → a % 4 = 0 ∧ size % 4 = 0) ∧ 1 ≤ size ∧ size ≤ 64 ∧ a / 64 = (a + size - 1) / 64
    let outcome := arrivalCheck plan x n q
    let opens := x.state ≠ .fenced ∧ x.state ≠ .removing
    (¬ opens → outcome = some .fenced)
    ∧ (opens → q.tag ∈ x.tags → outcome = some .tagBusy)
    ∧ (opens → q.tag ∉ x.tags → ¬ formed → outcome = some .boundary)
    ∧ (x.judges q ↔ opens ∧ q.tag ∉ x.tags ∧ formed)
    ∧ (x.judges q → x.state = .admitted →
        (a < 0x10000 → outcome = if q.isRead = true ∨ n = 0 then none else some .control)
        ∧ (0x10000 ≤ a → a < 0x10100 → outcome = if n = 0 then none else some .control)
        ∧ (0x20000 ≤ a → a < 0x30000 → outcome = if q.isRead = true then none else some .control)
        ∧ ((0x10100 ≤ a ∧ a < 0x20000) ∨ (0x30C00 ≤ a ∧ a < 0x31000) ∨ (0x31300 ≤ a ∧ a < 0x40000) →
            outcome = some .control)
        ∧ (∀ m : Slot, m ≠ n →
            (0x30000 + 0x100 * m.val ≤ a ∧ a < 0x30100 + 0x100 * m.val)
              ∨ (0x31000 + 0x40 * m.val ≤ a ∧ a < 0x31040 + 0x40 * m.val) → outcome = some .control)
        ∧ (plan.laidOut → 0x40000 ≤ a →
            (plan.memorySize ≤ a → outcome = some .window)
            ∧ (∀ r : RingNo, plan.inRing r a →
                outcome = if ringSlot r = n ∧ (q.isRead = true ∨ isEgress r = true) then none else some .window)
            ∧ (a < plan.memorySize → (∀ r : RingNo, ¬ plan.inRing r a) →
                (a + size ≤ plan.alarm.logBase ∨ plan.alarm.logBase + 32 * plan.alarm.logCapacity ≤ a) →
                outcome =
                  if ∃ w : Fin 6, plan.slots[n].windows[w].size ≠ 0 ∧ plan.slots[n].windows[w].base ≤ a
                      ∧ a + size ≤ plan.slots[n].windows[w].base + plan.slots[n].windows[w].size
                      ∧ (if q.isRead = true then plan.slots[n].windows[w].read else plan.slots[n].windows[w].write) = true
                  then none else some .window)))

/-- READ, WRITE: a request that passes every arrival test joins the tail of the queue with its tag in the table and spends a
credit; one refused FENCED or TAG_BUSY is answered with a REFUSAL of its tag and that reason, which is sent at once behind
every response made before it and not yet sent; nothing else changes. For a slot in REMOVING the model leaves open whether the
REFUSAL is sent (log entry 6). Without a trained link or a credit no request arrives at all (R2–R6; that the earlier responses
leave first at that instant is DEDUCED, log entry 4). -/
def Obligations.ArrivingRequestIsQueuedOrAnswered : Prop :=
  ∀ (s : State) (n : Slot) (q : Request), s.part.running = true →
    ((s.part.ports[n].link = false ∨ s.part.ports[n].credits = 0) → exec (q.command n) s = .next s)
    ∧ (s.part.ports[n].link = true → s.part.ports[n].credits ≠ 0 →
        arrivalCheck s.part.plan s.part.ports[n] n q = none →
        exec (q.command n) s = .next (s.modPart (Part.modPort n fun x =>
          { x with tags := x.tags ++ [q.tag], queue := x.queue ++ [q], credits := x.credits - 1 })))
    ∧ (∀ why, s.part.ports[n].link = true → s.part.ports[n].credits ≠ 0 →
        arrivalCheck s.part.plan s.part.ports[n] n q = some why → why.isViolation = false →
        let answered := s.modPart (Part.modPort n fun x =>
          { x with
            responses := x.responses ++ x.unsent ++ [Response.refusal q.tag why]
            tags := x.tags.filter fun t => !(x.unsent.map Response.tag).contains t
            unsent := [] })
        if s.part.ports[n].state = .removing then
          exec (q.command n) s = .next s ∨ exec (q.command n) s = .next answered
        else exec (q.command n) s = .next answered)

/-- READ, WRITE: an access violation is answered with its reason and counted, saturating at 255; it raises the slot's
ACCESS_VIOLATION event; a slot of 1–11 in QUARANTINE, ADMITTING or ADMITTED is fenced VIOLATIONS, power kept, exactly when
its limit is nonzero and the new count is at or above it, and slot 0 never is. A fence marks the slot's reads in flight and makes
its status record dirty. Everything outside an event of the slot stays as it was (R6, R11, R29–R32, R54, R61). That the responses made before leave with the
refusal is DEDUCED, and that the REFUSAL FENCED of the fence are made oldest READ first a DESIGN CHOICE (log entry 4). -/
def Obligations.ViolationIsCountedAndFencesAtTheLimit : Prop :=
  ∀ (s : State) (n : Slot) (q : Request) (why : Reason), s.part.running = true → s.part.ports[n].link = true →
    s.part.ports[n].credits ≠ 0 → arrivalCheck s.part.plan s.part.ports[n] n q = some why → why.isViolation = true →
    let count := min 255 (s.part.ports[n].violations + 1)
    let limit := s.part.plan.slots[n].violationLimit
    let old := s.part.ports[n]
    let x : Port := { old with
      violations := count
      responses := old.responses ++ old.unsent ++ [Response.refusal q.tag why]
      tags := old.tags.filter fun t => !(old.unsent.map Response.tag).contains t
      unsent := [] }
    let fences := n ≠ 0 ∧ x.state.linked = true ∧ limit ≠ 0 ∧ limit ≤ count
    ∃ t, exec (q.command n) s = .next t ∧ t.memory = s.memory
      ∧ t.part.ports[n].besidesCounters = (if fences then x.fencedBy .violations false else x).besidesCounters
      ∧ t.part.flights = (if fences then markedFlights n true s.part.flights else s.part.flights)
      ∧ (fences → t.part.status.dirty[slotRecordNo n] = true)
      ∧ t.part.alarm.points[violationPoint n].raw = true
      ∧ t.part.alarm.points[violationPoint n].lastEvent = some s.part.now
      ∧ t.part.besidesSlot n = s.part.besidesSlot n

/-- Before admission a card reaches its own admit area, and by a READ its own slot record, and nothing else, whatever the
active plan grants; everything else is refused QUARANTINE, which is an access violation. Once it is ADMITTED its admit area
stays open to it (R26). -/
def Obligations.RightsBeforeAdmission : Prop :=
  ∀ (plan : Plan) (x : Port) (n : Slot) (q : Request), x.judges q →
    let inAdmitArea := 0x31000 + 0x40 * n.val ≤ q.first ∧ q.last < 0x31000 + 0x40 * n.val + 64
    ((x.state = .quarantine ∨ x.state = .admitting) →
      arrivalCheck plan x n q =
        if inAdmitArea ∨ (q.isRead = true ∧ 0x20100 + 0x80 * n.val ≤ q.first ∧ q.last < 0x20100 + 0x80 * n.val + 128)
        then none else some .quarantine)
    ∧ Reason.isViolation .quarantine = true
    ∧ (x.state = .admitted → inAdmitArea → arrivalCheck plan x n q = none)

/-- A WRITE of an ADMITTED slot to its own ring index block is refused CONTROL if it covers a byte outside the block's
seventeen words, otherwise OWNED if it covers a byte of the eight part-owned words, and otherwise accepted, whatever rings the
plan has; a READ of the block is accepted. An OWNED refusal is an access violation: nothing of the WRITE reaches memory or is
observed (R8, R25). -/
def Obligations.PartOwnedWordsAreNotWritten : Prop :=
  (∀ (plan : Plan) (x : Port) (n : Slot) (q : Request),
    let base := 0x30000 + 0x100 * n.val
    x.judges q → x.state = .admitted → base ≤ q.first → q.first < base + 0x100 →
    arrivalCheck plan x n q =
      if q.isRead = true then none
      else if base + 0x44 ≤ q.last then some Reason.control
      else if q.first < base + 0x40 ∧ base + 0x20 ≤ q.last then some Reason.owned
      else none)
  ∧ Reason.isViolation .owned = true
  ∧ ∀ (s : State) (n : Slot) (q : Request), s.part.running = true → s.part.ports[n].link = true →
    s.part.ports[n].credits ≠ 0 → arrivalCheck s.part.plan s.part.ports[n] n q = some .owned →
    ∃ t, exec (q.command n) s = .next t ∧ t.memory = s.memory ∧ t.part.watched = s.part.watched

/-- Slot 0 may READ the log area; every WRITE to it and every READ of it by another slot is refused WINDOW, and so is a request
that lies in it in part, which no right covers. A plan that passes
the structural checks has a log of 16 to 1,024 records in exchange memory, outside the control region and apart from every
ring and window, or none; the bootstrap plan has none (R23). -/
def Obligations.LogAreaIsReadBySlotZeroAlone : Prop :=
  (∀ (plan : Plan) (x : Port) (n : Slot) (q : Request), plan.laidOut → x.judges q → x.state = .admitted →
    plan.alarm.logCapacity ≠ 0 → plan.alarm.logBase ≤ q.last →
    q.first < plan.alarm.logBase + 32 * plan.alarm.logCapacity →
    arrivalCheck plan x n q =
      if n = 0 ∧ q.isRead = true ∧ plan.alarm.logBase ≤ q.first
          ∧ q.last < plan.alarm.logBase + 32 * plan.alarm.logCapacity then none
      else some .window)
  ∧ (∀ (img : PlanImage) (g : Nat), structuralFault img g = none →
    let plan := (readPlan img).1
    let size := 32 * plan.alarm.logCapacity
    plan.alarm.logCapacity ≠ 0 →
      16 ≤ plan.alarm.logCapacity ∧ plan.alarm.logCapacity ≤ 1024 ∧ plan.holdsArea plan.alarm.logBase size
        ∧ (∀ r : RingNo, plan.rings[r].present = true →
            Apart plan.alarm.logBase size plan.rings[r].base plan.rings[r].areaSize)
        ∧ ∀ (n : Slot) (w : Fin 6), plan.slots[n].windows[w].size ≠ 0 →
            Apart plan.alarm.logBase size plan.slots[n].windows[w].base plan.slots[n].windows[w].size)
  ∧ Plan.bootstrap.alarm.logCapacity = 0

/-- A WRITE that is accepted covers, within the control region, only words of its own slot: for slot 0 the plan area and the
command block, for any slot the seventeen words of its ring index block but for the part-owned eight, and its admit area.
Never the status area (R7, R8, R25). -/
def Obligations.AcceptedWriteKeepsToItsControlWords : Prop :=
  ∀ (plan : Plan) (x : Port) (n : Slot) (tag : Tag) (addr : Word) (data : List Byte) (a : Nat),
    let q : Request := { tag := tag, addr := addr, body := .write data }
    arrivalCheck plan x n q = none → q.covers a →
    Config.controlEnd ≤ a ∨ (n = 0 ∧ a < 0x10100)
      ∨ (ringBlockBase n ≤ a ∧ a < ringBlockBase n + 0x44 ∧ ¬ (ringBlockBase n + 0x20 ≤ a ∧ a < ringBlockBase n + 0x40))
      ∨ (admitBase n ≤ a ∧ a < admitBase n + 0x40)

/-- Isolation outside the control region, under a plan whose areas are laid out as the structural checks ask: a request that
is accepted touches no ring of another slot, writes into no ingress ring and not into the log, and only slot 0 reads the log
(R22–R24). -/
def Obligations.AcceptedRequestStaysOffOthersRings : Prop :=
  ∀ (plan : Plan) (x : Port) (n : Slot) (q : Request) (a : Nat), plan.laidOut →
    arrivalCheck plan x n q = none → q.covers a →
    (∀ r, plan.inRing r a → ringSlot r = n ∧ (q.isRead = true ∨ isEgress r = true))
    ∧ (plan.alarm.logBase ≤ a ∧ a < plan.alarm.logBase + 32 * plan.alarm.logCapacity → n = 0 ∧ q.isRead = true)

/-- An image that passes the structural checks gives a plan whose areas are laid out (R43, Table 3-8), and the bootstrap plan
is laid out too. -/
def Obligations.CheckedPlanIsLaidOut : Prop :=
  Plan.bootstrap.laidOut
    ∧ ∀ (img : PlanImage) (g : Nat), structuralFault img g = none → (readPlan img).1.laidOut

/-! ### The memory port (Chapter 1) -/

/-- The arbiter: a card is served only if no internal access waits or the group granted last is INTERNAL, and then the first
waiting slot in ascending cyclic order after the slot granted last; otherwise the status writer goes before the exchange
engine and the engine before the plan loader; nothing is chosen only when nothing waits (R14). -/
def Obligations.ArbiterAlternatesAndRotates : Prop :=
  ∀ p : Part,
    (∀ n : Slot, p.arbitrate = .card n ↔
      p.ports[n].waits = true ∧ (p.internalWaits = false ∨ p.arbiter.lastGroup = .internal)
        ∧ ∀ k : Slot, p.ports[k].waits = true →
            (n.val + 11 - p.arbiter.lastSlot.val) % 12 ≤ (k.val + 11 - p.arbiter.lastSlot.val) % 12)
    ∧ (p.internalWaits = true → ((∀ n : Slot, p.ports[n].waits = false) ∨ p.arbiter.lastGroup = .card) →
        p.arbitrate = if p.status.waiting.isSome then .writer else if p.engine.waiting.isSome then .engine else .loader)
    ∧ (p.arbitrate = .nothing ↔ p.internalWaits = false ∧ ∀ n : Slot, p.ports[n].waits = false)

/-- ACCESS_GRANT of a read. A READ at the head of a slot's queue leaves the queue and is in flight with the bytes memory holds, its
credit returns while the link is trained, its tag stays in the table, and the arbiter remembers the slot. The admission check
read of a slot reads the first 12 bytes of its admit area before the head of its queue is served, and the plan loader reads
its block. Nothing else changes, and with nothing waiting the port grants nothing (R9, R13–R15, R42, R59). -/
def Obligations.GrantedReadsAreInFlight : Prop :=
  (∀ s : State, s.part.running = true → s.part.arbitrate = .nothing → exec .accessGrant s = .next s)
  ∧ (∀ (s : State) (n : Slot) (tag : Tag) (addr : Word) (len : Nat) (rest : List Request),
    s.part.running = true → s.part.arbitrate = .card n →
    (∀ k, s.part.ports[n].check = some k → k.inFlight = true) →
    s.part.ports[n].queue = { tag := tag, addr := addr, body := .read len } :: rest →
    exec .accessGrant s = .next (s.modPart fun p =>
      { p.modPort n (fun x => { x with queue := rest, credits := if x.link then x.credits + 1 else x.credits }) with
        arbiter := { lastGroup := .card, lastSlot := n }
        flights := p.flights ++ [{ purpose := .card n tag false false, data := s.memory.read addr.toNat len }] }))
  ∧ (∀ (s : State) (n : Slot) (k : CheckRecord), s.part.running = true → s.part.arbitrate = .card n →
    s.part.ports[n].check = some k → k.inFlight = false →
    exec .accessGrant s = .next (s.modPart fun p =>
      { p.modPort n (fun x => { x with check := some { k with inFlight := true } }) with
        arbiter := { lastGroup := .card, lastSlot := n }
        flights := p.flights ++ [{ purpose := .check n true, data := s.memory.read (0x31000 + 0x40 * n.val) 12 }] }))
  ∧ ∀ s : State, s.part.running = true → s.part.arbitrate = .loader →
    exec .accessGrant s = .next (s.modPart fun p =>
      { p with
        arbiter := { p.arbiter with lastGroup := .internal }
        flights := p.flights ++ [{ purpose := .plan, data := s.memory.read (64 * p.loader.block) 64 }]
        loader := { p.loader with readWaiting := false } })

/-- ACCESS_GRANT of a WRITE at the head of a slot's queue: it leaves the queue and the tag table, its credit returns while the
link is trained, its bytes reach memory and no other byte changes, and each watched word it covers is handed to its owner with
the merged value, exactly as the command of that word does. The merged value takes each byte the WRITE covers from the WRITE
and every other byte from the copy (R9, R13, R18, R19). Two things are the model's: the words are handed over in ascending
address order, which R18 leaves open (DEDUCED, log entry 26), and the engine, marked meanwhile, issues its next access after the
last of them, so that what joins its lists at this instant joins in ascending ring order (R89, R103; log entry 30). -/
def Obligations.GrantedWriteIsStoredAndObserved : Prop :=
  (∀ (s : State) (n : Slot) (tag : Tag) (addr : Word) (data : List Byte) (rest : List Request),
    s.part.running = true → s.part.arbitrate = .card n →
    (∀ k, s.part.ports[n].check = some k → k.inFlight = true) →
    s.part.ports[n].queue = { tag := tag, addr := addr, body := .write data } :: rest →
    let stored : State :=
      { s with
        memory := s.memory.write addr.toNat data
        part := { s.part.modPort n (fun x =>
            { x with
              queue := rest
              credits := if x.link then x.credits + 1 else x.credits
              tags := x.tags.filter (· != tag) }) with
          arbiter := { lastGroup := .card, lastSlot := n } } }
    let words := (coveredWords addr.toNat data.length).filterMap fun a => (watchedAt a).map fun k => (a, k)
    let opened : State := stored.modPart (Part.modEngine fun e => { e with before := some e.instant, handing := true })
    let handed := words.foldl
      (fun u x => u.handOver x.2 (mergeWord (u.part.watched.get x.2) x.1 addr.toNat data)) opened
    let t := if words = [] then stored else handed.modPart fun p =>
      (p.modEngine fun e => { e with handing := false }).endInstant s.part.engine.instant
    exec .accessGrant s = .next t
      ∧ (∀ a, a < addr.toNat ∨ addr.toNat + data.length ≤ a → t.memory.get a = s.memory.get a)
      ∧ (s.canonical → ∀ i (h : i < data.length), t.memory.get (addr.toNat + i) = data[i]))
  ∧ ∀ (copy : Word) (a start : Nat) (data : List Byte) (i : Nat), i < 4 →
    (mergeWord copy a start data).extractLsb' (8 * i) 8 =
      if start ≤ a + i ∧ a + i < start + data.length then data.getD (a + i - start) 0
      else copy.extractLsb' (8 * i) 8

/-- ACCESS_GRANT of the status writer: a log record is stored at the producer's place and counted, with the alarm summary made
dirty; a block of the record in progress is stored at its place; the writer then issues its next access, a log record before
a block (R182, R190). -/
def Obligations.GrantedStatusWrites : Prop :=
  ∀ s : State, s.part.running = true → s.part.arbitrate = .writer →
    let st := s.part.status
    let next (queue : List LogRecord) (progress : Option Progress) : Option WriterAccess :=
      if queue ≠ [] then some .log else if progress.isSome then some .block else none
    (∀ r rest, st.waiting = some .log → st.logQueue = r :: rest →
      exec .accessGrant s = .next
        { s with
          memory := s.memory.write (st.log.base + 32 * (st.log.producer % st.log.capacity)) (logBytes r)
          part := { s.part with
            arbiter := { s.part.arbiter with lastGroup := .internal }
            status := { st with
              logQueue := rest
              log := { st.log with producer := (st.log.producer + 1) % (2 * st.log.capacity) }
              dirty := modify st.dirty 16 fun _ => true
              waiting := next rest st.progress } } })
    ∧ (∀ g b rest, st.waiting = some .block → st.progress = some g → g.blocks = b :: rest →
      let left := if rest = [] then none else some { g with blocks := rest, next := g.next + 1 }
      exec .accessGrant s = .next
        { s with
          memory := s.memory.write (recordBase g.record + 64 * g.next) b
          part := { s.part with
            arbiter := { s.part.arbiter with lastGroup := .internal }
            status := { st with progress := left, waiting := next st.logQueue left } } })

/-- ACCESS_GRANT of the exchange engine before the delivery of a copy: an index word, a header read, and the block reads and
writes of the copy, each at its place in the ring areas; a written block is followed by the next block's read, or by the
producer word after the last. Beyond the access itself only the exchange changes (R89, R110, R111). That a read takes its address
at the grant matters where its ring was settled or reset since the issue, and there it is the model's (log entry 17). -/
def Obligations.GrantedEngineAccesses : Prop :=
  ∀ s : State, s.part.running = true → s.part.arbitrate = .engine →
    let after (l : List Flight) : Part :=
      { s.part with arbiter := { s.part.arbiter with lastGroup := .internal }, flights := s.part.flights ++ l }
    let place (r : RingNo) (x b : Nat) : Nat :=
      s.part.plan.rings[r].base + 128 * ((x + b / 2) % s.part.plan.rings[r].count) + 64 * (b % 2)
    (∀ w, s.part.engine.waiting = some (.index w) → ∃ t, exec .accessGrant s = .next t
      ∧ t.memory = s.memory.write (partOwnedAddr w.ring) (leBytes 4 w.value.toNat)
      ∧ t.part.besidesExchange = (after []).besidesExchange)
    ∧ (∀ r, s.part.engine.waiting = some (.header r) → ∃ t, exec .accessGrant s = .next t ∧ t.memory = s.memory
      ∧ t.part.besidesExchange = (after
          [{ purpose := .header r, data := s.memory.read (place r s.part.rings[r].consumer.toNat 0) 16 }]).besidesExchange)
    ∧ (∀ c, s.part.engine.waiting = some .copyRead → s.part.engine.copy = some c → ∃ t, exec .accessGrant s = .next t
      ∧ t.memory = s.memory
      ∧ t.part.besidesExchange = (after
          [{ purpose := .copy
             data := s.memory.read (place c.ring s.part.rings[c.ring].consumer.toNat c.block) 64 }]).besidesExchange)
    ∧ (∀ c data, s.part.engine.waiting = some (.copyWrite data) → s.part.engine.copy = some c → ∃ t,
      exec .accessGrant s = .next t
      ∧ t.memory = s.memory.write (place (ingressRing c.dest (ringClass c.ring)) c.destPos.toNat c.block) data
      ∧ t.part.besidesExchange = (after []).besidesExchange
      ∧ ∀ h, c.void = false → s.part.headRecord c.ring = some h → ∃ c', t.part.engine.copy = some c'
          ∧ c'.ring = c.ring ∧ c'.dest = c.dest ∧ c'.destPos = c.destPos ∧ c'.void = false
          ∧ if c.block + 1 < 2 * h.header.entries then
              c'.block = c.block + 1 ∧ (c'.due = .read ∨ t.part.engine.waiting = some .copyRead)
            else c'.block = c.block ∧ (c'.due = .producer ∨ t.part.engine.waiting = some .copyProducer))

/-- ACCESS_GRANT of a copy's ingress producer word: the word takes the value past the frame, the destination's producer copy
rises by the frame's entries with the high flag judged anew, the source has one copy delivered more and the destination one
received, and INGRESS_HIGH of the destination is the only alarm point that may move. The destination leaves the set, and at the
same instant so do those that are down and not held for; a frame with an empty set is retired with the write of its ring's
consumer word requested, and any other stays the head with the destinations left (R94, R95, R97, R104, R113, R116, R117). Given
that the copies are accounted for, so that a ring on the take list is LISTED (R89). -/
def Obligations.GrantedProducerWordDelivers : Prop :=
  ∀ (s : State) (c : Copy) (h : Head), s.part.running = true → s.part.exchangeSound → s.part.arbitrate = .engine →
    s.part.engine.waiting = some .copyProducer → s.part.engine.copy = some c → s.part.headRecord c.ring = some h →
    let into := ingressRing c.dest (ringClass c.ring)
    let old := s.part.rings[into]
    let plan := s.part.plan.rings[into]
    let new := { old with producer := old.producer + BitVec.ofNat 16 h.header.entries }
    let left := h.dests.filter fun d => d != c.dest
      && (s.part.admitted d || (h.header.dest != 255 && s.part.plan.classes[ringClass c.ring].policy == .hold))
    let past := s.part.rings[c.ring].consumer + BitVec.ofNat 16 h.header.entries
    ∃ t, exec .accessGrant s = .next t
      ∧ t.memory = s.memory.write (partOwnedAddr into) (leBytes 4 (c.destPos + BitVec.ofNat 16 h.header.entries).toNat)
      ∧ t.part.rings[into].producer = new.producer ∧ t.part.rings[into].consumer = old.consumer
      ∧ t.part.rings[into].high = (plan.present &&
          (if plan.high < new.occupancy then true else if new.occupancy ≤ plan.low then false else old.high))
      ∧ (∀ n : Slot,
          t.part.ports[n].counters.delivered
              = s.part.ports[n].counters.delivered + (if n = ringSlot c.ring then 1 else 0)
          ∧ t.part.ports[n].counters.received = s.part.ports[n].counters.received + (if n = c.dest then 1 else 0))
      ∧ (if left = [] then
          t.part.headRecord c.ring = none ∧ t.part.rings[c.ring].consumer = past
            ∧ ({ ring := c.ring, value := past } ∈ t.part.engine.indexQueue
                ∨ t.part.engine.waiting = some (.index { ring := c.ring, value := past }))
         else ∃ y, t.part.headRecord c.ring = some y ∧ y.header = h.header ∧ y.taken = h.taken ∧ y.dests = left)
      ∧ (∀ i, i ≠ slotPoint c.dest 3 → t.part.alarm.points[i] = s.part.alarm.points[i])
      ∧ t.part.besidesExchange.besidesAlarms =
          Part.besidesAlarms (Part.besidesExchange
            { s.part with
              arbiter := { s.part.arbiter with lastGroup := .internal }
              rings := modify s.part.rings into fun _ =>
                { new with high := plan.present &&
                    (if plan.high < new.occupancy then true else if new.occupancy ≤ plan.low then false
                     else old.high) } })

/-- READ_COMPLETION: the oldest read in flight, a card READ, leaves. No response is made if it was dropped, REFUSAL FENCED if it
was fenced or its slot is, READ DATA or REFUSAL MEMORY in QUARANTINE, ADMITTING and ADMITTED, and none in any other state. A
response made waits to be sent and its tag stays; without one the tag leaves the table. An error raises MEMORY_ERROR; nothing
else changes. With no command waiting and nothing due, a step sends the oldest response of one slot, whose tag leaves the table,
or changes no port (R2, R3, R10, R13, R16; when a response is sent the model leaves open, log entry 4). -/
def Obligations.CardReadCompletionAnswers : Prop :=
  (∀ (s : State) (n : Slot) (tag : Tag) (fenced dropped err : Bool) (data : List Byte) (rest : List Flight),
    s.part.running = true →
    s.part.flights = { purpose := .card n tag fenced dropped, data := data } :: rest →
    let x := s.part.ports[n]
    let made : List Response :=
      if dropped = true then []
      else if fenced = true ∨ x.state = .fenced then [.refusal tag .fenced]
      else if x.state = .quarantine ∨ x.state = .admitting ∨ x.state = .admitted then
        (if err = true then [.refusal tag .memory] else [.readData tag data])
      else []
    let done : Part := { s.part with flights := rest }
    exec (.readCompletion err) s = .next (s.modPart fun _ =>
      (if err = true then done.raiseEvent memoryErrorPoint else done).modPort n fun y =>
        { y with
          unsent := y.unsent ++ made
          tags := if made = [] then y.tags.filter (· != tag) else y.tags }))
  ∧ ∀ s : State, s.pending = [] → s.part.dueStep = none →
    (∃ (n : Slot) (r : Response) (rest : List Response), s.part.ports[n].unsent = r :: rest
      ∧ step s = .next (s.modPart (Part.modPort n fun x =>
          { x with
            responses := x.responses ++ [r]
            tags := x.tags.filter (· != r.tag)
            unsent := rest })))
    ∨ ∃ t, step s = .next t ∧ t.part.ports = s.part.ports

/-! ### Commands of the watched words (Chapters 1 to 10) -/

/-- APPLY, LOG_CONSUMER, CUTOFF and SECONDS. An APPLY value of 0 or above 65,535 is ignored; an IDLE loader begins an APPLY
operation of that generation with the read of block 0; otherwise the value is the pending apply, in place of any other (R41,
R48). A log consumer value below twice the capacity that leaves no more records than there are is taken, and the alarm summary is made dirty if it differs; CUTOFF is in force for any value but 0, with the alarm summary
made dirty by a change; a SECONDS value waits for the next second turnover. Each copy keeps the value (R127, R175, R191). -/
def Obligations.ControllerWordsTakeEffect : Prop :=
  ∀ (s : State) (v : Word), s.part.running = true →
    exec (.apply v) s = .next (s.modPart fun p => (p.setWatched .apply v).modLoader fun l =>
      if v.toNat = 0 ∨ 65535 < v.toNat then l
      else if l.phase = .idle then
        { l with
          phase := .reading, kind := .apply, generation := some v.toNat, block := 0, readWaiting := true, image := [],
          staged := none, clamps := 0 }
      else { l with pendingApply := some v.toNat })
    ∧ (let l := s.part.status.log
     let takes := l.capacity ≠ 0 ∧ v.toNat < 2 * l.capacity
       ∧ (l.producer + 2 * l.capacity - v.toNat) % (2 * l.capacity)
          ≤ (l.producer + 2 * l.capacity - l.consumer) % (2 * l.capacity)
     exec (.logConsumer v) s = .next (s.modPart fun p =>
       let q := p.setWatched .logConsumer v
       if takes ∧ v.toNat ≠ l.consumer then
         { q with status :=
             { q.status with
               log := { l with consumer := v.toNat }
               dirty := modify q.status.dirty 16 fun _ => true } }
       else q))
    ∧ exec (.cutoff v) s = .next (s.modPart fun p =>
        let q := p.setWatched .cutoff v
        if q.alarm.cutoff = (v != 0) then q
        else { q with
          alarm := { q.alarm with cutoff := v != 0 }
          status := { q.status with dirty := modify q.status.dirty 16 fun _ => true } })
    ∧ exec (.seconds v) s = .next (s.modPart fun p =>
        let q := p.setWatched .seconds v
        { q with clock := { q.clock with pendingSeconds := some v } })

/-- FENCE and RELEASE. FENCE: a slot of 1–11 in QUARANTINE, ADMITTING or ADMITTED enters FENCED with reason COMMAND and its power
kept, its reads in flight marked (R11, R12, R61); in any other state, and for slot 0 in every state, the command is ignored but
for the copy of the word. RELEASE of a FENCED slot is held while settlement is owed; otherwise the fence reason and the
power-removed flag are cleared and the slot goes to QUARANTINE or TRAINING with its power kept, and to POWERING or STANDBY with its
power removed; RELEASE of an enabled slot in STANDBY powers it; in any other state it is ignored but for the copy. A change of
state makes the slot's status record dirty (R54, R57, R58, R65, R68, R69). That a fence makes the REFUSAL FENCED of the queued READs
oldest first is the model's (DESIGN CHOICE, log entry 4). -/
def Obligations.SlotCommandsAreTaken : Prop :=
  ∀ (s : State) (n : Slot), s.part.running = true →
    let x := s.part.ports[n]
    let enabled := s.part.plan.slots[n].enabled
    let q := s.part.setWatched (.slotCommand n) 2
    let freed := { x with releaseHeld := false, fenceReason := .none, powerRemoved := false }
    let trained := { freed.linkDown with state := .training, stateTimer := some s.part.now }
    ((x.state.linked = false ∨ n = 0) →
      exec (.fence n) s = .next (s.modPart (Part.setWatched (.slotCommand n) 1)))
    ∧ (x.state.linked = true → n ≠ 0 → ∃ t, exec (.fence n) s = .next t ∧ t.memory = s.memory
        ∧ t.part.ports[n].besidesCounters = (x.fencedBy .command false).besidesCounters
        ∧ t.part.flights = markedFlights n x.link s.part.flights
        ∧ t.part.status.dirty[slotRecordNo n] = true
        ∧ t.part.besidesSlot n = (s.part.setWatched (.slotCommand n) 1).besidesSlot n)
    ∧ (x.state = .fenced → x.settlementOwed = true →
      exec (.release n) s = .next (s.modPart fun _ => q.modPort n fun y => { y with releaseHeld := true }))
    ∧ (((x.state ≠ .fenced ∧ x.state ≠ .standby) ∨ (x.state = .standby ∧ enabled = false)) →
        exec (.release n) s = .next (s.modPart fun _ => q))
    ∧ ((x.state = .fenced ∧ x.settlementOwed = false) ∨ (x.state = .standby ∧ enabled = true) →
        ∃ t, exec (.release n) s = .next t ∧ t.memory = s.memory ∧ t.part.besidesSlot n = q.besidesSlot n
          ∧ t.part.flights = s.part.flights ∧ t.part.status.dirty[slotRecordNo n] = true
          ∧ t.part.ports[n].besidesCounters = Port.besidesCounters
            (if x.state = .standby then x.powered s.part.now
             else if x.powerRemoved = false then (if x.link = true then { freed with state := .quarantine } else trained)
             else if enabled = true then freed.powered s.part.now
             else if n = 0 then freed.powered s.part.now
             else { freed.linkDown with state := .standby, stateTimer := none }))

/-- HEARTBEAT and ADMIT_WORD. A heartbeat value is ignored while the slot is not supervised; the expected value restarts the window,
is the last valid one, turns the expected value into its complement and clears the lost flag; a repeat of the last valid value
changes nothing; any other value sets the lost flag and fences a slot of 1–11 HEARTBEAT_INVALID where the plan says so, with its
reads in flight marked and its status record dirty (R11, R12, R54, R61, R73, R78). A nonzero admit word in QUARANTINE with no check
under way begins an admission check whose read waits, and any other changes nothing (R59). Each copy keeps the value. That a fence
makes the REFUSAL FENCED of the queued READs oldest first is the model's (DESIGN CHOICE, log entry 4). -/
def Obligations.CardWordsAreJudged : Prop :=
  ∀ (s : State) (n : Slot) (v : Word), s.part.running = true →
    let x := s.part.ports[n]
    let q := s.part.setWatched (.heartbeat n) v
    let lost := { x with heartbeat := { x.heartbeat with lost := true } }
    let fences := v ≠ x.heartbeat.expected ∧ s.part.plan.slots[n].fenceOnHeartbeat = true ∧ n ≠ 0
    ((x.heartbeat.supervising = false ∨ (v ≠ x.heartbeat.expected ∧ x.heartbeat.lastValid = some v)) →
      exec (.heartbeat n v) s = .next (s.modPart fun _ => q))
    ∧ (x.heartbeat.supervising = true → (v = x.heartbeat.expected ∨ x.heartbeat.lastValid ≠ some v) →
        ∃ t, exec (.heartbeat n v) s = .next t ∧ t.memory = s.memory ∧ t.part.besidesSlot n = q.besidesSlot n
          ∧ t.part.flights = (if fences then markedFlights n x.link s.part.flights else s.part.flights)
          ∧ (fences → t.part.status.dirty[slotRecordNo n] = true)
          ∧ t.part.ports[n].besidesCounters = Port.besidesCounters
            (if v = x.heartbeat.expected then
              { x with heartbeat :=
                { supervising := true, expected := ~~~v, lastValid := some v, windowStart := s.part.now, lost := false } }
             else if fences then lost.fencedBy .heartbeatInvalid false
             else lost))
    ∧ exec (.admitWord n v) s = .next (s.modPart fun p =>
        let q := p.setWatched (.admitWord n) v
        if p.ports[n].state = .quarantine ∧ p.ports[n].check = none ∧ v ≠ 0 then
          q.modPort n fun x => { x with check := some { start := p.now, inFlight := false } }
        else q)

/-- EGRESS_PRODUCER and INGRESS_CONSUMER, each ignored for an absent ring but for the copy of the word. A producer value that posts
no more than the ring holds and withdraws nothing of a frame being taken is the new producer copy, and puts an idle ring with a
new posting on the take list; a consumer value between the consumer and the producer copy is the new consumer copy, and the high
flag and INGRESS_HIGH follow; any other value is a ring fault (R87–R89, R96, R97). -/
def Obligations.CardIndexWordsAreJudged : Prop :=
  (∀ (s : State) (n : Slot) (c : Cls) (v : Word), s.part.running = true →
    let r := egressRing n c
    let x := s.part.rings[r]
    let low : BitVec 16 := v.setWidth 16
    let posted := (low - x.consumer).toNat
    let kept := match x.take with
      | .head h => h.header.entries
      | .reading => 1
      | _ => 0
    let q := s.part.setWatched (.egressProducer n c) v
    (s.part.plan.rings[r].count = 0 → exec (.egressProducer n c v) s = .next (s.modPart fun _ => q))
    ∧ (s.part.plan.rings[r].count ≠ 0 → posted ≤ s.part.plan.rings[r].count → kept ≤ posted →
        ∃ t, exec (.egressProducer n c v) s = .next t ∧ t.memory = s.memory
          ∧ t.part.rings[r].producer = low
          ∧ ((x.take = .idle ∨ x.take = .waiting) → low ≠ x.producer → low ≠ x.consumer →
              s.part.ports[n].state = .admitted → t.part.rings[r].take = .listed ∨ t.part.rings[r].take = .reading)
          ∧ ((x.take = .listed ∨ x.take = .waiting) → low = x.consumer → t.part.rings[r].take = .idle)
          ∧ t.part.besidesExchange = (q.modRing r fun y => { y with producer := low }).besidesExchange)
    ∧ (s.part.plan.rings[r].count ≠ 0 → ¬ (posted ≤ s.part.plan.rings[r].count ∧ kept ≤ posted) →
        exec (.egressProducer n c v) s = .next (s.modPart fun _ =>
          (q.modPort n fun y => { y with ringFaults := min 65535 (y.ringFaults + 1) }).raiseEvent (ringFaultPoint n))))
  ∧ ∀ (s : State) (n : Slot) (c : Cls) (v : Word), s.part.running = true →
    let r := ingressRing n c
    let x := s.part.rings[r]
    let plan := s.part.plan.rings[r]
    let low : BitVec 16 := v.setWidth 16
    let left := (x.producer - low).toNat
    let q := s.part.setWatched (.ingressConsumer n c) v
    let freed := { x with
      consumer := low
      high := if plan.high < left then true else if left ≤ plan.low then false else x.high }
    (plan.count = 0 → exec (.ingressConsumer n c v) s = .next (s.modPart fun _ => q))
    ∧ (plan.count ≠ 0 → left ≤ (x.producer - x.consumer).toNat →
        ∃ t, exec (.ingressConsumer n c v) s = .next t ∧ t.memory = s.memory
          ∧ t.part.rings[r].consumer = low ∧ t.part.rings[r].producer = x.producer ∧ t.part.rings[r].high = freed.high
          ∧ (∀ i, i ≠ slotPoint n 3 → t.part.alarm.points[i] = s.part.alarm.points[i])
          ∧ t.part.besidesExchange.besidesAlarms = (q.modRing r fun _ => freed).besidesExchange.besidesAlarms)
    ∧ (plan.count ≠ 0 → (x.producer - x.consumer).toNat < left →
        exec (.ingressConsumer n c v) s = .next (s.modPart fun _ =>
          (q.modPort n fun y => { y with ringFaults := min 65535 (y.ringFaults + 1) }).raiseEvent (ringFaultPoint n)))

/-! ### The cabinet plan (Chapter 3) -/

/-- PLAN_READ_COMPLETE. A good block that is not the last joins the image and the next block's read is issued; a warm start
takes its generation from the header block. A failed read, or a structural check that fails after the last block, rejects the
operation: the active plan stays, the plan result names the section and the entry, PLAN_REJECTED is raised, and MEMORY_ERROR with
it for a failed read (in which order the two are taken is the model's, log entry 18), and a pending apply begins at once. An image
that passes enters WAITING with the plan it spells and its clamp count (R16, R42–R46, R49; the block 0 and the clamp count 0 of an
IDLE loader are the model's, log entry 2). -/
def Obligations.PlanReadAdvancesTheOperation : Prop :=
  ∀ (s : State) (data : List Byte) (rest : List Flight) (err : Bool), s.part.running = true →
    s.part.flights = { purpose := .plan, data := data } :: rest →
    let l := s.part.loader
    let image := l.image ++ [data]
    let generation := if err = false ∧ l.generation = none then some (field data 0 2) else l.generation
    let fault := if err = true then some (PlanSection.memory, l.block) else structuralFault image (generation.getD 0)
    let done : Part := { s.part with flights := rest }
    (err = false → l.block + 1 < 65 →
      exec (.planReadComplete err) s = .next (s.modPart fun _ => { done with
        loader := { l with image := image, generation := generation, block := l.block + 1, readWaiting := true } }))
    ∧ (∀ sec entry, (err = true ∨ 65 ≤ l.block + 1) → fault = some (sec, entry) →
        let ended : Loader := { l with
          phase := .idle, generation := none, block := 0, readWaiting := false, image := [], staged := none, clamps := 0,
          result :=
            { applyNumber := if 65535 ≤ l.result.applyNumber then 1 else l.result.applyNumber + 1
              warmCount := s.part.control.warmCount, kind := l.kind, generation := generation.getD 0
              outcome := .rejected, failingSection := sec, failingEntry := entry, clampCount := 0
              activeGeneration := s.part.plan.generation } }
        ∃ t, exec (.planReadComplete err) s = .next t ∧ t.memory = s.memory
          ∧ t.part.loader = (match l.pendingApply with
              | none => ended
              | some g => { ended with
                  phase := .reading, kind := .apply, generation := some g, readWaiting := true, pendingApply := none })
          ∧ t.part.status.dirty[1] = true
          ∧ t.part.alarm.points[planRejectedPoint].raw = true
          ∧ t.part.alarm.points[planRejectedPoint].lastEvent = some s.part.now
          ∧ (err = true → t.part.alarm.points[memoryErrorPoint].raw = true
              ∧ t.part.alarm.points[memoryErrorPoint].lastEvent = some s.part.now)
          ∧ (∀ i, i ≠ planRejectedPoint → (err = false ∨ i ≠ memoryErrorPoint) →
              t.part.alarm.points[i] = s.part.alarm.points[i])
          ∧ t.part.besidesAlarms = Part.besidesAlarms { done with loader := t.part.loader })
    ∧ (err = false → 65 ≤ l.block + 1 → fault = none →
        ∃ t, exec (.planReadComplete err) s = .next t ∧ t.memory = s.memory
          ∧ t.part.besidesExchange = Part.besidesExchange { done with
              loader := { l with
                image := image, generation := generation, readWaiting := false, phase := .waiting,
                staged := some (readPlan image).1, clamps := (readPlan image).2 } })

/-- The checks of a plan image. The structural checks fail in the order of Table 3-8, and each names its section and entry (R43).
An image that passes them gives each field of the plan as it stands or, outside its range, as Tables 3-2 to 3-7 say, with the
fields of egress and absent rings left alone, and one clamp is counted for each field replaced, to at most 65,535 (R35–R40, R44;
that a plan without a log holds base 0 is DEDUCED, log entry 16). -/
def Obligations.PlanImageIsCheckedAndClamped : Prop :=
  ∀ (img : PlanImage) (g : Nat),
    let val (bytes : List Byte) (o k : Nat) : Nat := ofLe ((bytes.drop o).take k)
    let block (b : Nat) : List Byte := img.getD b []
    let slot (n : Slot) : List Byte := block (1 + 2 * n.val) ++ block (2 + 2 * n.val)
    let ring (r : RingNo) : List Byte := (block (25 + r.val / 4)).drop (16 * (r.val % 4))
    let point (i : Point) : List Byte := (block (52 + i.val / 8)).drop (8 * (i.val % 8))
    let base (r : RingNo) : Nat := val (ring r) 0 4 * 128
    let count (r : RingNo) : Nat := val (ring r) 4 2
    let winBase (n : Slot) (w : Fin 6) : Nat := val (slot n) (32 + 16 * w.val) 4 * 4096
    let winSize (n : Slot) (w : Fin 6) : Nat := val (slot n) (36 + 16 * w.val) 4 * 4096
    let near (lo hi v : Nat) : Nat := max lo (min hi v)
    let rawCapacity := val (block 64) 8 2
    let capacity := if rawCapacity = 0 then 0 else near 16 1024 rawCapacity
    let logBase := val (block 64) 4 4 * 32
    let memory := 2 ^ 26 * 2 ^ val (block 0) 2 1
    let header := val (block 0) 0 2 = 0 ∨ val (block 0) 0 2 ≠ g
    let badRing (r : RingNo) : Prop := count r ≠ 0 ∧
      ((¬ ∃ k, 4 ≤ k ∧ k ≤ 12 ∧ count r = 2 ^ k) ∨ memory < base r + 128 * count r ∨ base r < 0x40000
        ∨ ∃ q : RingNo, q.val < r.val ∧ count q ≠ 0 ∧ ¬ Apart (base r) (128 * count r) (base q) (128 * count q))
    let badWindow (n : Slot) (w : Fin 6) : Prop := winSize n w ≠ 0 ∧
      (memory < winBase n w + winSize n w ∨ winBase n w < 0x40000
        ∨ ∃ q : RingNo, count q ≠ 0 ∧ ¬ Apart (winBase n w) (winSize n w) (base q) (128 * count q))
    let badOwner (o : Nat) : Prop := 12 ≤ val (block 51) o 1 ∧ val (block 51) o 1 ≠ 255
    let badLog : Prop := capacity ≠ 0 ∧
      (memory < logBase + 32 * capacity ∨ logBase < 0x40000
        ∨ (∃ q : RingNo, count q ≠ 0 ∧ ¬ Apart logBase (32 * capacity) (base q) (128 * count q))
        ∨ ∃ (n : Slot) (w : Fin 6), winSize n w ≠ 0 ∧ ¬ Apart logBase (32 * capacity) (winBase n w) (winSize n w))
    let fault := structuralFault img g
    let plan := (readPlan img).1
    let miss (lo hi v : Nat) : Nat := if v < lo ∨ hi < v then 1 else 0
    let kinds : List (Option TickKind) := [none, some .second, some .frame, some .subframe, some .half, some .prog]
    let clock (o k : Nat) : Nat := val (block 51) o k
    let ref (x : Nat) (y : RefPlan) : Prop :=
      y.enabled = (clock (8 * x) 1 != 0)
        ∧ (∀ n : Slot, y.owner = some n ↔ clock (8 * x + 1) 1 = n.val)
        ∧ y.qualifyCount = near 2 16 (clock (8 * x + 2) 1) ∧ y.missLimit = near 1 8 (clock (8 * x + 3) 1)
        ∧ y.cableDelay = clock (8 * x + 4) 2 ∧ y.tolerance = near 1 1000 (clock (8 * x + 6) 2)
    -- the structural checks
    (header → fault = some (.header, 0))
    ∧ (¬ header → 4 < val (block 0) 2 1 → fault = some (.header, 1))
    ∧ (¬ header → val (block 0) 2 1 ≤ 4 →
        (∀ r : RingNo, badRing r → (∀ q : RingNo, q.val < r.val → ¬ badRing q) → fault = some (.ring, r.val))
        ∧ ((∀ r, ¬ badRing r) →
            (∀ (n : Slot) (w : Fin 6), badWindow n w →
              (∀ (m : Slot) (v : Fin 6), m.val * 6 + v.val < n.val * 6 + w.val → ¬ badWindow m v) →
              fault = some (.slot, n.val * 6 + w.val))
            ∧ ((∀ n w, ¬ badWindow n w) →
                (badOwner 1 → fault = some (.clock, 0))
                ∧ (¬ badOwner 1 → badOwner 9 → fault = some (.clock, 1))
                ∧ (¬ badOwner 1 → ¬ badOwner 9 → badLog → fault = some (.alarm, 0))
                ∧ (¬ badOwner 1 → ¬ badOwner 9 → ¬ badLog → fault = none))))
    -- the fields after the range checks
    ∧ plan.generation = val (block 0) 0 2 ∧ plan.waiver = false
    ∧ (val (block 0) 2 1 ≤ 4 → plan.memorySize = memory)
    ∧ (∀ n : Slot, let e := slot n; let y := plan.slots[n]
        y.enabled = (val e 0 1 != 0 || n == 0) ∧ y.expected = (val e 1 1 != 0)
          ∧ y.fenceOnHeartbeat = (val e 2 1 != 0) ∧ y.violationLimit = val e 3 1 ∧ y.expectedKind = val e 4 2
          ∧ y.minRevision = val e 6 2
          ∧ y.key = (if val e 8 4 = 0 then 1 else BitVec.ofNat 32 (val e 8 4))
          ∧ y.heartbeatPeriod = near 10 10000 (val e 12 2) ∧ y.admitDelay = near 0 5000 (val e 14 2)
          ∧ y.debounce = near 1 1000 (val e 16 2) ∧ y.powerGoodLimit = near 1 5000 (val e 18 2)
          ∧ y.trainingLimit = near 1 5000 (val e 20 2) ∧ y.strobeKind = kinds.getD (val e 22 1) none
          ∧ y.strobeDelay = val e 24 2
          ∧ ∀ w : Fin 6, y.windows[w] = { base := winBase n w, size := winSize n w
                                          read := val e (40 + 16 * w.val) 1 != 0
                                          write := val e (41 + 16 * w.val) 1 != 0 })
    ∧ (∀ r : RingNo, let e := ring r; let y := plan.rings[r]
        let high := near 1 (count r) (val e 6 2)
        y.base = base r ∧ y.count = count r ∧ y.attention = (val e 10 1 != 0)
          ∧ (count r ≠ 0 → r.val % 2 = 1 → y.high = high ∧ y.low = near 0 (high - 1) (val e 8 2)))
    ∧ (∀ c : Cls, let o := 8 * c.val; let y := plan.classes[c]
        y.holdLimit = near 1 65535 (val (block 49) o 2)
          ∧ y.policy = (if val (block 49) (o + 2) 1 = 1 then .drop else .hold)
          ∧ y.batchLimit = near 1 16 (val (block 49) (o + 3) 1))
    ∧ (∀ k : GateNo, let o := 8 * k.val; let y := plan.gates[k]
        y.source = kinds.getD (val (block 50) o 1) none
          ∧ y.mode = (if val (block 50) (o + 1) 1 = 1 then .window else .pulse)
          ∧ y.traceable = (val (block 50) (o + 2) 1 != 0)
          ∧ y.openDelay = near 0 999 (val (block 50) (o + 4) 2)
          ∧ y.windowLength = near 1 65535 (val (block 50) (o + 6) 2))
    ∧ (let y := plan.clock
       let prog := near 10 1000000 (clock 48 4)
       ref 0 y.refA ∧ ref 1 y.refB
        ∧ y.first = (if clock 16 1 = 1 then .b else .a) ∧ y.revertive = (clock 17 1 != 0)
        ∧ y.gp = near 1 4096 (clock 18 2) ∧ y.gi = near 0 256 (clock 20 2) ∧ y.lockCount = near 2 64 (clock 22 1)
        ∧ y.fmax = near 0 5120000 (clock 24 4) ∧ y.slew = near 0 2560000 (clock 28 4)
        ∧ y.stepThreshold = near 100 1000000 (clock 32 4) ∧ y.lockThreshold = near 10 10000 (clock 36 2)
        ∧ y.strayLimit = near 100 100000 (clock 40 4) ∧ y.holdoverLimit = near 60 86400 (clock 44 4)
        ∧ 1000000 % y.progPeriod = 0 ∧ y.progPeriod ≤ prog
        ∧ ∀ d, 1000000 % d = 0 → d ≤ prog → d ≤ y.progPeriod)
    ∧ (∀ i : Point, let e := point i; let y := plan.alarm.points[i]
        y.severity = [Severity.critical, .major, .minor, .warning].getD (val e 0 1) .major
          ∧ y.mask = (val e 1 1 != 0) ∧ y.force = (val e 2 1 != 0)
          ∧ y.raiseTime = near 0 60000 (val e 4 2) ∧ y.clearTime = near 0 60000 (val e 6 2))
    ∧ plan.alarm.eventHold = near 1 3600 (val (block 64) 0 2) ∧ plan.alarm.discardThreshold = val (block 64) 2 2
    ∧ plan.alarm.logCapacity = capacity ∧ plan.alarm.logBase = (if capacity = 0 then 0 else logBase)
    ∧ (∀ k : Fin 8, plan.alarm.polarity[k] = (if val (block 64) (16 + k.val) 1 = 0 then .opened else .closed))
    -- the clamp count
    ∧ (readPlan img).2 = min 65535
        (((List.finRange 12).map fun n => let e := slot n
            (if n = 0 ∧ val e 0 1 = 0 then 1 else 0) + (if val e 8 4 = 0 then 1 else 0) + miss 10 10000 (val e 12 2)
              + miss 0 5000 (val e 14 2) + miss 1 1000 (val e 16 2) + miss 1 5000 (val e 18 2)
              + miss 1 5000 (val e 20 2) + miss 0 5 (val e 22 1)).sum
          + ((List.finRange 96).map fun r => let e := ring r
            if count r ≠ 0 ∧ r.val % 2 = 1 then
              miss 1 (count r) (val e 6 2) + miss 0 (near 1 (count r) (val e 6 2) - 1) (val e 8 2)
            else 0).sum
          + ((List.finRange 4).map fun c => let o := 8 * c.val
            miss 1 65535 (val (block 49) o 2) + miss 0 1 (val (block 49) (o + 2) 1)
              + miss 1 16 (val (block 49) (o + 3) 1)).sum
          + ((List.finRange 8).map fun k => let o := 8 * k.val
            miss 0 5 (val (block 50) o 1) + miss 0 1 (val (block 50) (o + 1) 1) + miss 0 999 (val (block 50) (o + 4) 2)
              + miss 1 65535 (val (block 50) (o + 6) 2)).sum
          + ([0, 1].map fun x => miss 2 16 (clock (8 * x + 2) 1) + miss 1 8 (clock (8 * x + 3) 1)
              + miss 1 1000 (clock (8 * x + 6) 2)).sum
          + miss 0 1 (clock 16 1) + miss 1 4096 (clock 18 2) + miss 0 256 (clock 20 2) + miss 2 64 (clock 22 1)
          + miss 0 5120000 (clock 24 4) + miss 0 2560000 (clock 28 4) + miss 100 1000000 (clock 32 4)
          + miss 10 10000 (clock 36 2) + miss 100 100000 (clock 40 4) + miss 60 86400 (clock 44 4)
          + (if clock 48 4 < 10 ∨ 1000000 % clock 48 4 ≠ 0 then 1 else 0)
          + ((List.finRange 89).map fun i => let e := point i
            miss 0 3 (val e 0 1) + miss 0 60000 (val e 4 2) + miss 0 60000 (val e 6 2)).sum
          + miss 1 3600 (val (block 64) 0 2) + (if rawCapacity = 0 then 0 else miss 16 1024 rawCapacity))

/-- ACTIVATION with the engine and the status writer at rest: the staged plan becomes the active plan as a whole, the plan
result says ACCEPTED or ACCEPTED_CLAMPED, a pending apply begins, every ring whose base or entry count changed is empty at
index 0 with no head, every gate is CLOSED with its counts kept, a changed log ring is empty with the records of this instant
offered to it again, Facc is brought into the new limit, and cabinet time, memory and the services outside the plan go on (R47,
R48, R100, R146, R160, R188). Each slot meets the new plan by the first change of R79 that applies and by R80, where no timer of it
runs out under the new lengths: its port, its reads in flight and the dirty mark of its status record (R11, R12, R54, R61, R77). The
PROG record takes a changed period from the later of cabinet time and its last boundary (R154), and the SECOND tick of this instant
is over for the event holds (R177). The model's own here: the block, image and clamp count of a loader whose operation has ended (log
entry 2); the order of the REFUSAL FENCED responses of a fence, oldest READ first (log entry 4); the expiry inside the activation of
a timer that has run its new length, whose slots are left out of the clause about slots (log entry 9); the mark of the SECOND tick
(log entry 20); which of two times is the later (log entry 19); and that the formula of R154 decides where R152 would keep the PROG
record at its boundary (log entry 34). -/
def Obligations.ActivationReplacesThePlan : Prop :=
  ∀ (s : State) (new : Plan), s.part.running = true → s.part.activationDue = true →
    s.part.loader.staged = some new →
    let old := s.part.plan
    let l := s.part.loader
    let ended : Loader := { l with
      phase := .idle, generation := none, block := 0, readWaiting := false, image := [], staged := none, clamps := 0,
      result :=
        { applyNumber := if 65535 ≤ l.result.applyNumber then 1 else l.result.applyNumber + 1
          warmCount := s.part.control.warmCount, kind := l.kind, generation := l.generation.getD 0
          outcome := if l.clamps = 0 then .accepted else .acceptedClamped
          failingSection := .none, failingEntry := 0, clampCount := l.clamps, activeGeneration := new.generation } }
    ∃ t, exec .activation s = .next t ∧ t.memory = s.memory ∧ t.part.plan = new
      ∧ t.part.loader = (match l.pendingApply with
          | none => ended
          | some g => { ended with
              phase := .reading, kind := .apply, generation := some g, readWaiting := true, pendingApply := none })
      ∧ (∀ r : RingNo, (old.rings[r].count ≠ 0 ∨ new.rings[r].count ≠ 0) →
          (old.rings[r].base ≠ new.rings[r].base ∨ old.rings[r].count ≠ new.rings[r].count) →
          t.part.rings[r].producer = 0 ∧ t.part.rings[r].consumer = 0 ∧ t.part.rings[r].high = false
            ∧ t.part.headRecord r = none ∧ t.part.watched.get (cardOwnedWord r) = 0)
      ∧ (∀ g : GateNo, t.part.gates[g] = { s.part.gates[g] with state := .closed })
      ∧ (if old.alarm.logBase = new.alarm.logBase ∧ old.alarm.logCapacity = new.alarm.logCapacity then
          t.part.status.log.producer = s.part.status.log.producer
            ∧ t.part.status.log.consumer = s.part.status.log.consumer
            ∧ (∃ later, t.part.status.logQueue = s.part.status.logQueue ++ later)
         else t.part.status.log.base = new.alarm.logBase ∧ t.part.status.log.capacity = new.alarm.logCapacity
            ∧ t.part.status.log.producer = 0 ∧ t.part.status.log.consumer = 0
            ∧ (∀ record rest, s.part.status.logQueue = record :: rest → new.alarm.logCapacity ≠ 0 →
                ∃ later, t.part.status.logQueue = { record with sequence := 0 } :: later))
      ∧ (∀ n : Slot,
          let x := s.part.ports[n]
          let y := x.replanned n old.slots[n] new.slots[n] s.part.now
          y.untimed new.slots[n] s.part.now →
            t.part.ports[n].besidesCounters = y.besidesCounters
              ∧ (y.state ≠ x.state → t.part.status.dirty[slotRecordNo n] = true)
              ∧ (y.state = .removing → x.state ≠ .removing → ∀ f ∈ t.part.flights, ∀ tag fenced dropped,
                  f.purpose = .card n tag fenced dropped → dropped = true)
              ∧ (y.state = .fenced → x.state ≠ .fenced → ∀ f ∈ t.part.flights, ∀ tag fenced dropped,
                  f.purpose = .card n tag fenced dropped → if x.link = true then fenced = true else dropped = true)
              ∧ (x.check.isSome = true → x.state = .quarantine → ∀ f ∈ t.part.flights, ∀ live,
                  f.purpose = .check n live → live = false))
      ∧ t.part.gens = (if old.clock.progPeriod = new.clock.progPeriod then s.part.gens
          else modify s.part.gens 4 fun g =>
            let now := s.part.cabinetTime
            let past : Int := (now.seconds - g.last.seconds).toInt * 1000000000 + now.ns - g.last.ns
            let later := if past < 0 then g.last else now
            { g with last :=
              { later with ns := later.ns - later.ns % (new.clock.progPeriod * 1000), epoch := s.part.clock.epoch } })
      ∧ t.part.clock.facc = max (-(new.clock.fmax : Int)) (min (new.clock.fmax : Int) s.part.clock.facc)
      ∧ t.part.cabinetTime = s.part.cabinetTime ∧ t.part.clock.fraction = s.part.clock.fraction
      ∧ t.part.osc = s.part.osc ∧ t.part.control = s.part.control ∧ t.part.env = s.part.env
      ∧ t.part.arbiter = s.part.arbiter ∧ t.part.secondTick = false
      ∧ t.part.flights.map Flight.besidesMarks = s.part.flights.map Flight.besidesMarks

/-! ### Rings and the exchange engine (Chapters 5 and 6) -/

/-- HEADER_READ_COMPLETE for an egress ring. A ring that is no longer READING goes on as it was: its consumer and the owed and
malformed counts stay, a listed ring is listed or its next header read issued, and a head whose destinations the rules of this
instant all keep stays the head with them; after an error, or with fewer
entries posted than the header says, it is WAITING; a malformed header abandons every posted entry, counts against the card
and raises RING_FAULT; otherwise the frame is taken: the copies owed count every slot of the destination set, the head keeps
each ADMITTED destination that can hold the frame, and a frame that nobody can hold is retired (R90–R94, R104). Given that the
copies are accounted for, so that a ring on the take list is LISTED (R89). -/
def Obligations.HeaderReadIsActedOn : Prop :=
  ∀ (s : State) (r : RingNo) (data : List Byte) (rest : List Flight) (err : Bool), s.part.running = true →
    s.part.exchangeSound → isEgress r = true → s.part.flights = { purpose := .header r, data := data } :: rest →
    let n := ringSlot r
    let x := s.part.rings[r]
    let h := readHeader data
    let done : Part := { s.part with flights := rest }
    let after := if err = true then done.raiseEvent memoryErrorPoint else done
    let malformed := (12 ≤ h.dest ∧ h.dest ≤ 254) ∨ h.dest = n.val ∨ h.entries = 0 ∨ 16 < h.entries ∨ h.length = 0
      ∨ 2032 < h.length ∨ h.entries ≠ (if h.length ≤ 112 then 1 else 1 + (h.length - 112 + 127) / 128)
      ∨ (8 ≤ h.gate ∧ h.gate ≤ 254)
    let occupancy := (x.producer - x.consumer).toNat
    let into (d : Slot) := s.part.plan.rings[ingressRing d (ringClass r)]
    let owed := (List.finRange 12).filter fun d =>
      if h.dest = 255 then d != n && s.part.admitted d && (into d).count != 0 else d.val == h.dest
    ∃ t, exec (.headerReadComplete err) s = .next t ∧ t.memory = s.memory
      ∧ (x.take ≠ .reading → t.part.besidesExchange = after.besidesExchange
          ∧ t.part.ports[n].counters.owed = s.part.ports[n].counters.owed
          ∧ t.part.ports[n].counters.malformed = s.part.ports[n].counters.malformed
          ∧ ((x.take = .idle ∨ x.take = .waiting) → t.part.rings[r].take = x.take ∧ t.part.rings[r].consumer = x.consumer)
          ∧ (x.take = .listed → (t.part.rings[r].take = .listed ∨ t.part.rings[r].take = .reading)
              ∧ t.part.rings[r].consumer = x.consumer)
          ∧ (∀ y, x.take = .head y → (∀ d ∈ y.dests, s.part.keepsDown r y d = true) →
              t.part.rings[r].consumer = x.consumer
                ∧ ∃ z, t.part.rings[r].take = .head z ∧ z.header = y.header ∧ z.taken = y.taken ∧ z.dests = y.dests))
      ∧ (x.take = .reading → (err = true ∨ (¬ malformed ∧ occupancy < h.entries)) →
          t.part.rings[r].take = .waiting ∧ t.part.rings[r].consumer = x.consumer
            ∧ t.part.besidesExchange = after.besidesExchange)
      ∧ (x.take = .reading → err = false → malformed →
          t.part.rings[r].take = .idle ∧ t.part.rings[r].consumer = x.producer
            ∧ t.part.ports[n].counters.malformed = s.part.ports[n].counters.malformed + 1
            ∧ t.part.besidesExchange = (after.raiseEvent (ringFaultPoint n)).besidesExchange)
      ∧ (x.take = .reading → err = false → ¬ malformed → h.entries ≤ occupancy →
          t.part.besidesExchange = after.besidesExchange
            ∧ t.part.ports[n].counters.owed = s.part.ports[n].counters.owed + BitVec.ofNat 32 owed.length
            ∧ (∀ y, t.part.headRecord r = some y →
                y.header = h ∧ y.taken = s.part.cabinetTime ∧ ∀ d ∈ y.dests, d ∈ owed)
            ∧ (∀ d ∈ owed, s.part.admitted d = true → (into d).count ≠ 0 → h.entries ≤ (into d).count →
                ∃ y, t.part.headRecord r = some y ∧ d ∈ y.dests)
            ∧ ((∀ d ∈ owed, (into d).count < h.entries) →
                t.part.headRecord r = none ∧ t.part.rings[r].consumer = x.consumer + BitVec.ofNat 16 h.entries))

/-- SERVICE_CHOICE: of the READY heads the engine takes one of the lowest class, and in it the first slot in ascending cyclic
order after the one served last; a batch begins on its ring and the first copy starts to the head's first ready destination
(R107, R109). -/
def Obligations.ServiceChoiceFollowsClassAndRotation : Prop :=
  ∀ s : State, s.part.running = true → s.part.choiceDue = true →
    ∃ (n : Slot) (c : Cls) (h : Head) (d : Slot) (t : State),
      s.part.headIs (egressRing n c) .ready = true
      ∧ (∀ (m : Slot) (k : Cls), k.val < c.val → s.part.headIs (egressRing m k) .ready = false)
      ∧ (∀ m : Slot, s.part.headIs (egressRing m c) .ready = true →
          (n.val + 11 - s.part.engine.lastServed[c].val) % 12 ≤ (m.val + 11 - s.part.engine.lastServed[c].val) % 12)
      ∧ s.part.headRecord (egressRing n c) = some h ∧ h.dests.find? (s.part.destReady c h) = some d
      ∧ exec .serviceChoice s = .next t ∧ t.memory = s.memory ∧ t.part.besidesExchange = s.part.besidesExchange
      ∧ t.part.engine.batch = some { ring := egressRing n c, count := 0 }
      ∧ (∃ k, t.part.engine.copy = some k ∧ k.ring = egressRing n c ∧ k.dest = d
          ∧ k.destPos = s.part.rings[ingressRing d c].producer ∧ k.block = 0 ∧ k.void = false ∧ k.headPresent = true
          ∧ (k.due = .read ∨ t.part.engine.waiting = some .copyRead))
      ∧ (∀ g : GateNo, h.header.gate = g.val → h.gatePassed = false → s.part.plan.gates[g].mode = .pulse →
          t.part.gates[g].state = .closed)

/-- COPY_READ_COMPLETE. A good block becomes the write of the same block, block 0 with the head's header, the source slot and
the time of the take in its first 16 bytes; a void copy ends; an error raises MEMORY_ERROR and ends the copy, whose
destination is discarded MEMORY unless the copy was void (R99, R111, R112, R114, R195). -/
def Obligations.CopyReadBecomesAWrite : Prop :=
  ∀ (s : State) (c : Copy) (data : List Byte) (rest : List Flight), s.part.running = true →
    s.part.engine.copy = some c → s.part.flights = { purpose := .copy, data := data } :: rest →
    let done : Part := { s.part with flights := rest }
    let n := ringSlot c.ring
    (∃ t, exec (.copyReadComplete false) s = .next t ∧ t.memory = s.memory
      ∧ t.part.besidesExchange = done.besidesExchange
      ∧ (∀ h, c.void = false → s.part.headRecord c.ring = some h →
          let bytes := if c.block = 0 then
              [BitVec.ofNat 8 h.header.dest, BitVec.ofNat 8 h.header.tag, BitVec.ofNat 8 h.header.entries,
               BitVec.ofNat 8 h.header.gate, BitVec.ofNat 8 h.header.length, BitVec.ofNat 8 (h.header.length / 256),
               BitVec.ofNat 8 h.header.sequence, BitVec.ofNat 8 (h.header.sequence / 256), BitVec.ofNat 8 n.val,
               h.taken.epoch, h.taken.seconds.extractLsb' 0 8, h.taken.seconds.extractLsb' 8 8,
               BitVec.ofNat 8 h.taken.ns, BitVec.ofNat 8 (h.taken.ns / 2 ^ 8), BitVec.ofNat 8 (h.taken.ns / 2 ^ 16),
               BitVec.ofNat 8 (h.taken.ns / 2 ^ 24)] ++ data.drop 16
            else data
          ∃ k, t.part.engine.copy = some k ∧ k.ring = c.ring ∧ k.dest = c.dest ∧ k.destPos = c.destPos
            ∧ k.block = c.block ∧ k.void = false
            ∧ (k.due = .write bytes ∨ t.part.engine.waiting = some (.copyWrite bytes)))
      ∧ (c.void = true → ∀ k, t.part.engine.copy = some k → k.block = 0 ∧ k.void = false))
    ∧ (∃ t, exec (.copyReadComplete true) s = .next t ∧ t.memory = s.memory
      ∧ t.part.besidesExchange = (done.raiseEvent memoryErrorPoint).besidesExchange
      ∧ (∀ k, t.part.engine.copy = some k → k.block = 0 ∧ k.void = false)
      ∧ (∀ h, s.part.headRecord c.ring = some h → h.dests.Nodup → c.dest ∈ h.dests →
          t.part.ports[n].counters.memory = s.part.ports[n].counters.memory + (if c.void then 0 else 1)))

/-- HOLD_EXPIRED at its instant: every destination still in the set is discarded HOLD_EXPIRED, the frame is retired, and a
batch of that ring ends with its slot the last served of its class (R94, R104, R108, R115). -/
def Obligations.HoldLimitDiscardsTheHead : Prop :=
  ∀ (s : State) (n : Slot) (c : Cls) (h : Head), s.part.running = true → s.part.holdDue (egressRing n c) = true →
    s.part.headRecord (egressRing n c) = some h → h.dests ≠ [] →
    let r := egressRing n c
    ∃ t, exec (.holdExpired n c) s = .next t ∧ t.memory = s.memory
      ∧ t.part.besidesExchange = s.part.besidesExchange ∧ t.part.headRecord r = none
      ∧ t.part.rings[r].consumer = s.part.rings[r].consumer + BitVec.ofNat 16 h.header.entries
      ∧ t.part.ports[n].counters.holdExpired
          = s.part.ports[n].counters.holdExpired + BitVec.ofNat 32 h.dests.length
      ∧ (∀ b, s.part.engine.batch = some b → b.ring = r →
          t.part.engine.batch = none ∧ t.part.engine.lastServed[c] = n)

/-! ### Slots (Chapter 4) -/

/-- SETTLEMENT and REMOVING_END at their instants: every head of the slot's egress rings is dropped with its destinations
discarded SOURCE_DOWN and every posted frame is abandoned; settlement is no longer owed. A RELEASE held by a FENCED slot is then
taken, and a slot that leaves REMOVING goes to EMPTY without its card, else on to power after a power cycle and for slot 0,
else to STANDBY; a change of state makes the slot's status record dirty (R54, R66, R68, R71). -/
def Obligations.SettlementAbandonsTheSlotsFrames : Prop :=
  ∀ (s : State) (n : Slot), s.part.running = true →
    let x := s.part.ports[n]
    let settled (t : State) : Prop :=
      t.memory = s.memory ∧ t.part.besidesSlot n = s.part.besidesSlot n ∧ t.part.flights = s.part.flights
        ∧ (t.part.ports[n].state ≠ x.state → t.part.status.dirty[slotRecordNo n] = true)
        ∧ t.part.ports[n].settlementOwed = false
        ∧ t.part.ports[n].counters.sourceDown
            = s.part.ports[n].counters.sourceDown + BitVec.ofNat 32 (s.part.heldDests n)
        ∧ ∀ c : Cls, t.part.headRecord (egressRing n c) = none
            ∧ (s.part.plan.rings[egressRing n c].count ≠ 0 →
                t.part.rings[egressRing n c].consumer = s.part.rings[egressRing n c].producer)
    (s.part.settlementDue n = true → ∃ t, exec (.settlement n) s = .next t ∧ settled t
        ∧ t.part.ports[n].state =
            if x.state = .fenced ∧ x.releaseHeld = true then
              (if x.powerRemoved = false then (if x.link = true then .quarantine else .training)
               else if s.part.plan.slots[n].enabled = true ∨ n = 0 then
                 (if x.pwrgd = true then .training else .powering)
               else .standby)
            else x.state)
    ∧ (s.part.removingDue n = true → ∃ t, exec (.removingEnd n) s = .next t ∧ settled t
        ∧ t.part.ports[n].besidesCounters = Port.besidesCounters
            (let y := { x with settlementOwed := false, powerCycle := false, stateTimer := none }
             if x.presence = false then y.emptied
             else if x.powerCycle = true ∨ n = 0 then y.powered s.part.now
             else { y.linkDown with state := .standby, stateTimer := none }))

/-- LINK_TRAINED and LINK_LOST. A slot in TRAINING enters QUARANTINE, slot 0 under the admission waiver ADMITTED; a FENCED slot
with its power kept only regains its link. A slot in QUARANTINE, ADMITTING or ADMITTED that loses its link is fenced LINK_LOST,
slot 0 goes back to TRAINING with its power kept; FENCED and REMOVING slots drop their open requests; in any other state
neither event changes anything. A lost link marks the slot's reads in flight as dropped, and a change of state makes its status
record dirty (R12, R54, R58, R61, R64, R67, R77, R78). -/
def Obligations.LinkEventsMoveTheSlot : Prop :=
  ∀ (s : State) (n : Slot), s.part.running = true →
    let x := s.part.ports[n]
    let up := { x with link := true, credits := 8 - x.queue.length }
    let waived := n = 0 ∧ s.part.plan.waiver = true
    (x.state = .training → ∃ t, exec (.linkTrained n) s = .next t ∧ t.memory = s.memory
        ∧ t.part.besidesSlot n = s.part.besidesSlot n
        ∧ t.part.flights = s.part.flights ∧ t.part.status.dirty[slotRecordNo n] = true
        ∧ t.part.ports[n].besidesCounters = Port.besidesCounters
            (if waived then { up with
              state := .admitted, stateTimer := none, admitResult := .waived, waived := true, identity := none,
              identityShown := true, violations := 0 }
             else { up with state := .quarantine, stateTimer := none, admitResult := .none }))
    ∧ (x.state = .fenced → exec (.linkTrained n) s = .next (s.modPart fun p =>
        if x.powerRemoved = true ∨ x.link = true then p else p.modPort n fun _ => up))
    ∧ (x.state ≠ .training → x.state ≠ .fenced → exec (.linkTrained n) s = .next s)
    ∧ (x.state.linked = true → ∃ t, exec (.linkLost n) s = .next t ∧ t.memory = s.memory
        ∧ t.part.besidesSlot n = s.part.besidesSlot n
        ∧ t.part.flights = markedFlights n false s.part.flights ∧ t.part.status.dirty[slotRecordNo n] = true
        ∧ t.part.ports[n].besidesCounters = Port.besidesCounters
            (if n ≠ 0 then x.linkDown.fencedBy .linkLost false
             else
              let y := { x.linkDown.dropReads with check := none, state := .training, stateTimer := some s.part.now }
              if x.state = .admitted then { y with
                heartbeat := { y.heartbeat with supervising := false }, waived := false, strobe := Strobe.reset,
                settlementOwed := true }
              else y))
    ∧ ((x.state = .fenced ∨ x.state = .removing) → exec (.linkLost n) s = .next (s.modPart fun p =>
        { p.modPort n (fun _ => x.linkDown.dropReads) with flights := markFlights n false p.flights }))
    ∧ (x.state.linked = false → x.state ≠ .fenced → x.state ≠ .removing → exec (.linkLost n) s = .next s)

/-- PRESENCE_LEVEL_CHANGE, PRESENCE_FOUND and PRESENCE_LOST. The level starts or stops the presence timer (during a reset it is
taken and no more). A card found in EMPTY goes to POWERING if its slot is enabled and to STANDBY if not; a card lost goes to EMPTY
from STANDBY, POWERING and TRAINING and to REMOVING from QUARANTINE, ADMITTING, ADMITTED and FENCED; in any other state the
debounced presence alone changes. Entry to REMOVING marks the slot's reads in flight as dropped, and a change of state makes its
status record dirty (R12, R54–R58, R61, R64, R67, R70). -/
def Obligations.PresenceIsDebouncedAndActedOn : Prop :=
  ∀ (s : State) (n : Slot),
    let x := s.part.ports[n]
    (∀ b, exec (.presenceLevelChange n b) s = .next (s.modPart fun p => p.modPort n fun _ =>
        if s.part.running = true then
          { x with
            presentLevel := b
            presenceTimer := if b = x.presence then none
              else if x.presenceTimer = none then some s.part.now else x.presenceTimer }
        else { x with presentLevel := b }))
    ∧ (s.part.running = true → s.part.presenceDue n true = true →
        ∃ t, exec (.presenceFound n) s = .next t ∧ t.memory = s.memory ∧ t.part.besidesSlot n = s.part.besidesSlot n
          ∧ t.part.flights = s.part.flights ∧ (x.state = .empty → t.part.status.dirty[slotRecordNo n] = true)
          ∧ t.part.ports[n].besidesCounters = Port.besidesCounters
            (let y := { x with presence := true, presenceTimer := none }
             if x.state = .empty then
              (if s.part.plan.slots[n].enabled = true ∨ n = 0 then y.powered s.part.now
               else { y.linkDown with state := .standby, stateTimer := none })
             else y))
    ∧ (s.part.running = true → s.part.presenceDue n false = true →
        ∃ t, exec (.presenceLost n) s = .next t ∧ t.memory = s.memory ∧ t.part.besidesSlot n = s.part.besidesSlot n
          ∧ t.part.flights = (if x.state.linked = true ∨ x.state = .fenced then markedFlights n false s.part.flights
              else s.part.flights)
          ∧ (x.state ≠ .empty → x.state ≠ .removing → t.part.status.dirty[slotRecordNo n] = true)
          ∧ t.part.ports[n].besidesCounters = Port.besidesCounters
            (let y := { x with presence := false, presenceTimer := none }
             if x.state = .standby ∨ x.state = .powering ∨ x.state = .training then y.emptied
             else if x.state = .empty ∨ x.state = .removing then y
             else y.removedBy false s.part.now))

/-- PWRGD_ASSERTED and PWRGD_DEASSERTED. The level is taken, during a reset too. Asserted in POWERING, the slot goes to TRAINING.
Deasserted, a slot of 1–11 in TRAINING, QUARANTINE, ADMITTING or ADMITTED is fenced POWER_FAULT with its power removed and
slot 0 is power-cycled; a FENCED slot with its power kept loses it; in any other state the level alone changes. With its power a
slot loses the responses to its reads in flight, and a change of state makes its status record dirty (R12, R54, R57, R58, R61, R64,
R67, R78). -/
def Obligations.PowerGoodLevelIsActedOn : Prop :=
  ∀ (s : State) (n : Slot),
    let x := s.part.ports[n]
    let good := { x with pwrgd := true }
    let bad := { x with pwrgd := false }
    let powered := x.state = .training ∨ x.state.linked = true
    (¬ (s.part.running = true ∧ x.state = .powering) →
      exec (.pwrgdAsserted n) s = .next (s.modPart fun p => p.modPort n fun _ => good))
    ∧ (s.part.running = true → x.state = .powering →
        ∃ t, exec (.pwrgdAsserted n) s = .next t ∧ t.memory = s.memory ∧ t.part.besidesSlot n = s.part.besidesSlot n
          ∧ t.part.flights = s.part.flights ∧ t.part.status.dirty[slotRecordNo n] = true
          ∧ t.part.ports[n].besidesCounters =
              Port.besidesCounters { good.linkDown with state := .training, stateTimer := some s.part.now })
    ∧ (¬ (s.part.running = true ∧ (powered ∨ (x.state = .fenced ∧ x.powerRemoved = false))) →
        exec (.pwrgdDeasserted n) s = .next (s.modPart fun p => p.modPort n fun _ => bad))
    ∧ (s.part.running = true → x.state = .fenced → x.powerRemoved = false →
        exec (.pwrgdDeasserted n) s = .next (s.modPart fun p =>
          { p.modPort n (fun _ => { bad.linkDown with powerRemoved := true }.dropReads) with
            flights := markFlights n false p.flights }))
    ∧ (s.part.running = true → powered →
        ∃ t, exec (.pwrgdDeasserted n) s = .next t ∧ t.memory = s.memory ∧ t.part.besidesSlot n = s.part.besidesSlot n
          ∧ t.part.flights = markedFlights n false s.part.flights ∧ t.part.status.dirty[slotRecordNo n] = true
          ∧ t.part.ports[n].besidesCounters =
              (if n = 0 then bad.removedBy true s.part.now else bad.fencedBy .powerFault true).besidesCounters)

/-- POWER_GOOD_LIMIT_EXPIRY, TRAINING_LIMIT_EXPIRY and HEARTBEAT_WINDOW_EXPIRY at their instants: the power-good and the training
limit fence a slot of 1–11 POWER_FAULT and TRAIN_TIMEOUT with its power removed and power-cycle slot 0; the heartbeat window
sets the lost flag and fences a slot of 1–11 HEARTBEAT_LOST where the plan says so. A fence or removal marks the slot's reads in
flight and makes its status record dirty (R11, R12, R54, R57, R58, R61, R74, R78). That a fence with the link up makes the REFUSAL
FENCED of the queued READs oldest first is the model's (DESIGN CHOICE, log entry 4). -/
def Obligations.SlotLimitsExpire : Prop :=
  ∀ (s : State) (n : Slot), s.part.running = true →
    let x := s.part.ports[n]
    let ends (c : Instr) (y : Port) (flights : List Flight) : Prop := ∃ t, exec c s = .next t ∧ t.memory = s.memory
      ∧ t.part.besidesSlot n = s.part.besidesSlot n ∧ t.part.ports[n].besidesCounters = y.besidesCounters
      ∧ t.part.flights = flights ∧ (y.state ≠ x.state → t.part.status.dirty[slotRecordNo n] = true)
    let fences := s.part.plan.slots[n].fenceOnHeartbeat = true ∧ n ≠ 0
    let lost := { x with heartbeat := { x.heartbeat with lost := true } }
    (s.part.powerGoodDue n = true → ends (.powerGoodLimitExpiry n)
      (if n = 0 then x.removedBy true s.part.now else x.fencedBy .powerFault true)
      (markedFlights n false s.part.flights))
    ∧ (s.part.trainingDue n = true → ends (.trainingLimitExpiry n)
        (if n = 0 then x.removedBy true s.part.now else x.fencedBy .trainTimeout true)
        (markedFlights n false s.part.flights))
    ∧ (s.part.heartbeatDue n = true → ends (.heartbeatWindowExpiry n)
        (if fences then lost.fencedBy .heartbeatLost false else lost)
        (if fences then markedFlights n x.link s.part.flights else s.part.flights))

/-- ADMIT_DELAY_EXPIRY at its instant: the slot is ADMITTED with a violation count of 0, its identity shown, heartbeat
supervision begun from K, its strobe armed and no settlement owed; each of its present rings is empty at index 0 with the
card's word taken as 0 and a write of 0 to the part's word requested; its status record becomes dirty (R54, R63, R72, R98,
R99). -/
def Obligations.AdmissionResetsTheSlotsRings : Prop :=
  ∀ (s : State) (n : Slot), s.part.running = true → s.part.admitDue n = true →
    let x := s.part.ports[n]
    ∃ t, exec (.admitDelayExpiry n) s = .next t ∧ t.memory = s.memory
      ∧ t.part.besidesAdmission n = s.part.besidesAdmission n
      ∧ t.part.flights = s.part.flights ∧ t.part.status.dirty[slotRecordNo n] = true
      ∧ t.part.ports[n].besidesCounters = Port.besidesCounters
          { x with
            state := .admitted
            stateTimer := none
            violations := 0
            identityShown := true
            settlementOwed := false
            heartbeat := { supervising := true, expected := s.part.plan.slots[n].key, lastValid := none,
                           windowStart := s.part.now, lost := false }
            strobe := { x.strobe with armed := true } }
      ∧ ∀ r : RingNo, ringSlot r = n →
          if s.part.plan.rings[r].count ≠ 0 then
            t.part.rings[r] = { producer := 0, consumer := 0, high := false, take := .idle }
              ∧ t.part.watched.get (cardOwnedWord r) = 0
              ∧ ({ ring := r, value := 0 } ∈ t.part.engine.indexQueue
                  ∨ t.part.engine.waiting = some (.index { ring := r, value := 0 }))
          else t.part.watched.get (cardOwnedWord r) = s.part.watched.get (cardOwnedWord r)

/-- ADMISSION_CHECK_READ_COMPLETE. Without its check record the data is discarded; otherwise, in QUARANTINE, the check ends:
MEMORY after an error, KIND or REVISION where the card does not fit the slot entry, and PASSED with the card's identity, on
to ADMITTING, or to ADMITTED where the admit delay is 0. The end of a check makes the slot's status record dirty, and an error
raises MEMORY_ERROR, live or not (R16, R54, R60–R62). -/
def Obligations.AdmissionCheckIsJudged : Prop :=
  ∀ (s : State) (n : Slot) (live err : Bool) (data : List Byte) (rest : List Flight), s.part.running = true →
    s.part.flights = { purpose := .check n live, data := data } :: rest →
    let x := s.part.ports[n]
    let plan := s.part.plan.slots[n]
    let done : Part := { s.part with flights := rest }
    let after := if err = true then done.raiseEvent memoryErrorPoint else done
    let kind := ofLe (data.take 2)
    let revision := ofLe ((data.drop 2).take 2)
    let passed := { x with
      check := none, admitResult := .passed, state := .admitting, stateTimer := some s.part.now, identityShown := false,
      identity := some { kind := kind, revision := revision, serial := (data.drop 4).take 8 } }
    (live = false → exec (.admissionCheckReadComplete err) s = .next (s.modPart fun _ => after))
    ∧ (live = true → x.state = .quarantine → ∃ t, exec (.admissionCheckReadComplete err) s = .next t
        ∧ t.memory = s.memory ∧ t.part.besidesAdmission n = after.besidesAdmission n
        ∧ t.part.flights = rest ∧ t.part.status.dirty[slotRecordNo n] = true
        ∧ (err = true → t.part.alarm.points[memoryErrorPoint].raw = true
            ∧ t.part.alarm.points[memoryErrorPoint].lastEvent = some s.part.now)
        ∧ t.part.ports[n].besidesCounters = Port.besidesCounters
            (if err = true then { x with check := none, admitResult := .memory }
             else if plan.expectedKind ≠ 0 ∧ kind ≠ plan.expectedKind then
              { x with check := none, admitResult := .kind }
             else if revision < plan.minRevision then { x with check := none, admitResult := .revision }
             else if plan.admitDelay ≠ 0 then passed
             else { passed with
              state := .admitted, stateTimer := none, violations := 0, identityShown := true, settlementOwed := false,
              strobe := { x.strobe with armed := true },
              heartbeat :=
                { supervising := true, expected := plan.key, lastValid := none, windowStart := s.part.now
                  lost := false } }))

/-! ### Cabinet time (Chapter 7) -/

/-- REFERENCE_PULSE. A reference that is not usable takes no pulse. A usable one takes it by its state and the spacing in
oscillator periods. A pulse that leaves its reference QUALIFIED and selected is disciplined: in TRACKING within the stray
limit the loop takes e, and the third stray in a row acquires again; in ACQUIRING within the step threshold the loop takes e
and the lock counter with it, and beyond it the time steps by −e and PHASE_STEP is raised. At a forward step each generator emits
one tick for the latest of the boundaries passed and counts the others as skipped, the SECOND tick closing one discard tally; at a
backward step no record moves (R122, R128–R131, R139–R143, R151, R152; how far the step lies past a boundary when the seconds wrap
is log entry 19's, and the mark of the SECOND tick log entry 20's). -/
def Obligations.ReferencePulseDisciplinesTheClock : Prop :=
  ∀ (s : State) (r : RefId), s.part.running = true →
    let k := s.part.clock
    let plan := s.part.plan.clock
    let ref := k.ref r
    let tolerance := (plan.ref r).tolerance * 125
    let spacing := s.part.osc - ref.previous.getD 0
    let good (seconds : Nat) : Prop :=
      seconds * 125000000 ≤ spacing + tolerance ∧ spacing ≤ seconds * 125000000 + tolerance
    let qualified (run : Nat) : Reference :=
      { state := .qualified, previous := some s.part.osc, run := run, misses := 0
        deadline := some (s.part.osc + 125000000 + tolerance) }
    let taken : Reference := match ref.state with
      | .quiet => { ref with state := .qualifying, run := 1, previous := some s.part.osc }
      | .qualifying =>
        if good 1 then
          (if (plan.ref r).qualifyCount ≤ ref.run + 1 then qualified (ref.run + 1)
           else { ref with run := ref.run + 1, previous := some s.part.osc })
        else { ref with run := 1, previous := some s.part.osc }
      | .qualified => if good (1 + ref.misses) then qualified ref.run else Reference.quiet
    let q := (k.setRef r taken).select plan s.part.now
    let phase : Int := ((k.ns : Int) - (plan.ref r).cableDelay) % 1000000000
    let e : Int := if phase < 500000000 then phase else phase - 1000000000
    let clamped (limit : Nat) (v : Int) : Int := max (-(limit : Int)) (min (limit : Int) v)
    let facc := clamped plan.fmax (q.facc - e * plan.gi)
    let p := clamped plan.slew (-e * plan.gp)
    let updated : Clock := { q with
      lastError := e, facc := facc, p := p, c := facc + p, increment := incrementOf (facc + p) }
    let lock := if e.natAbs ≤ plan.lockThreshold then q.lock + 1 else 0
    (s.part.usable r = false → exec (.referencePulse r) s = .next s)
    ∧ (s.part.usable r = true → k.ns < 1000000000 → (plan.ref r).cableDelay ≤ 1000000000 →
        ∃ t, exec (.referencePulse r) s = .next t ∧ t.memory = s.memory ∧ t.part.clock.ref r = taken
          ∧ (taken.state = .qualified → q.selected = some r →
              (q.state = .tracking → e.natAbs ≤ plan.strayLimit → t.part.clock = { updated with strays := 0 })
              ∧ (q.state = .tracking → plan.strayLimit < e.natAbs →
                t.part.clock = if q.strays < 2 then { q with lastError := e, strays := q.strays + 1 }
                  else { q with
                    lastError := e, state := .acquiring, strays := 0, lock := 0, holdoverStart := none,
                    holdoverReached := false })
              ∧ (q.state = .acquiring → e.natAbs ≤ plan.stepThreshold →
                t.part.clock = if lock < plan.lockCount then { updated with lock := lock }
                  else { updated with lock := lock, state := .tracking, strays := 0, trained := true })
              ∧ (q.state = .acquiring → plan.stepThreshold < e.natAbs →
                t.part.clock.epoch = k.epoch + 1 ∧ t.part.clock.lock = 0 ∧ t.part.clock.state = .acquiring
                  ∧ t.part.clock.lastError = e ∧ t.part.clock.facc = q.facc ∧ t.part.clock.p = q.p
                  ∧ (t.part.clock.ns : Int) = ((k.ns : Int) - e) % 1000000000
                  ∧ t.part.clock.seconds = k.seconds + BitVec.ofInt 32 (((k.ns : Int) - e) / 1000000000)
                  ∧ t.part.alarm.points[phaseStepPoint].raw = true
                  ∧ t.part.alarm.points[phaseStepPoint].lastEvent = some s.part.now
                  ∧ (0 ≤ e → t.part.gens = s.part.gens ∧ t.part.secondTick = s.part.secondTick
                      ∧ t.part.engine.lastSecond = s.part.engine.lastSecond)
                  ∧ (e < 0 → ∀ kind : TickKind,
                      let g := s.part.gens[kindNo kind]
                      let period : Nat := match kind with
                        | .second => 1000000000
                        | .frame => 10000000
                        | .subframe => 1000000
                        | .half => 500000
                        | .prog => plan.progPeriod * 1000
                      let past : Int :=
                        (t.part.clock.seconds - g.last.seconds).toInt * 1000000000 + t.part.clock.ns - g.last.ns
                      let n := past.toNat / period
                      t.part.gens[kindNo kind] = (if n = 0 then g else
                        { last := { seconds := g.last.seconds + BitVec.ofNat 32 ((g.last.ns + n * period) / 1000000000)
                                    ns := (g.last.ns + n * period) % 1000000000, epoch := k.epoch + 1 }
                          skipped := g.skipped + BitVec.ofNat 32 (n - 1) })
                      ∧ (kind = .second → n ≠ 0 →
                          t.part.engine.lastSecond = s.part.engine.tally ∧ t.part.secondTick = true))))
          ∧ ((taken.state ≠ .qualified ∨ q.selected ≠ some r) →
              t.part.clock = q
                ∧ t.part.besidesExchange.besidesAlarms =
                    Part.besidesAlarms (Part.besidesExchange { s.part with clock := q })))

/-- The selection, and MISS and HOLDOVER_LIMIT at their instants. Found afresh, the selection keeps a reference still QUALIFIED while
the revertive flag is clear, and is otherwise the first QUALIFIED one of the priority order; a change of it clears the counters and
leads to ACQUIRING, or with none left to HOLDOVER or FREERUN. The clock after a miss is that of the selection found afresh, which
at the miss limit of the selected reference may be the other QUALIFIED one. A miss adds to the count and moves the deadline a second on from the last good
pulse, and at the miss limit the reference is QUIET and the selection is found afresh; when the last selected reference goes,
a clock that is TRACKING, or ACQUIRING once trained, enters HOLDOVER and any other ACQUIRING clock FREERUN, with P 0 and C equal
to Facc. The holdover limit is recorded once (R132–R137). -/
def Obligations.MissesAndHoldoverAreTaken : Prop :=
  (∀ (k : Clock) (plan : ClockPlan) (now : Nat),
    let q := k.select plan now
    let other : RefId := if plan.first = .a then .b else .a
    let kept (r : RefId) : Prop := plan.revertive = false ∧ k.selected = some r ∧ (k.ref r).state = .qualified
    let holds := k.state = .tracking ∨ k.trained = true
    (∀ r, kept r → q.selected = some r)
    ∧ ((∀ r, ¬ kept r) → q.selected =
        if (k.ref plan.first).state = .qualified then some plan.first
        else if (k.ref other).state = .qualified then some other else none)
    ∧ (q.selected = k.selected → q = k)
    ∧ (∀ r, q.selected = some r → k.selected ≠ some r → q = { k with
        selected := some r, state := .acquiring, strays := 0, lock := 0, holdoverStart := none, holdoverReached := false })
    ∧ (q.selected = none → k.selected ≠ none → (k.state = .tracking ∨ k.state = .acquiring) → q = { k with
        selected := none, strays := 0, lock := 0, p := 0, c := k.facc, increment := incrementOf k.facc
        state := if holds then .holdover else .freerun
        holdoverStart := if holds then some now else none
        holdoverReached := false }))
  ∧ ∀ (s : State) (r : RefId), s.part.running = true →
    let k := s.part.clock
    let ref := k.ref r
    let plan := s.part.plan.clock
    let missed : Reference :=
      if (plan.ref r).missLimit ≤ ref.misses + 1 then Reference.quiet
      else { ref with
        misses := ref.misses + 1
        deadline := some (ref.previous.getD 0 + (ref.misses + 2) * 125000000 + (plan.ref r).tolerance * 125) }
    let q := k.setRef r missed
    (s.part.missDue r = true → ∃ t, exec (.miss r) s = .next t ∧ t.memory = s.memory
        ∧ t.part.clock.ref r = missed ∧ t.part.clock.besidesSelection = k.besidesSelection
        ∧ t.part.besidesAlarms = Part.besidesAlarms { s.part with clock := t.part.clock }
        ∧ (∀ i, i ∉ clockPoints → t.part.alarm.points[i] = s.part.alarm.points[i])
        ∧ t.part.clock = q.select plan s.part.now
        ∧ (q.found plan = k.selected → t.part.clock = q)
        ∧ (k.selected = some r → q.found plan = none → (k.state = .tracking ∨ k.state = .acquiring) →
            t.part.clock.selected = none ∧ t.part.clock.p = 0 ∧ t.part.clock.c = k.facc
              ∧ t.part.clock.increment = incrementOf k.facc
              ∧ if k.state = .tracking ∨ k.trained = true then
                  t.part.clock.state = .holdover ∧ t.part.clock.holdoverStart = some s.part.now
                    ∧ t.part.clock.holdoverReached = false
                else t.part.clock.state = .freerun))
    ∧ (s.part.holdoverDue = true → ∃ t, exec .holdoverLimit s = .next t ∧ t.memory = s.memory
        ∧ t.part.clock = { k with holdoverReached := true }
        ∧ t.part.besidesAlarms = Part.besidesAlarms { s.part with clock := t.part.clock }
        ∧ (∀ i, i ∉ clockPoints → t.part.alarm.points[i] = s.part.alarm.points[i]))

/-- SECOND_TURNOVER, the oscillator period whose increment carries the nanoseconds past a second: the fraction and the
nanoseconds keep the rest, and the seconds rise by one, or take a pending SECONDS value, which raises the step epoch and moves
every last emitted boundary by the difference (R124, R127, R153). The instant before it is over for the exchange: an access that
the engine held back is issued, a write of the index write queue first (R110). That the command lets the oscillator period pass is
the model's (log entry 10), and with it the run of the dip timer (log entry 14) and the end of the marks of the SECOND tick, of the
instant's joins and of its log offers (log entries 20, 30 and 31). -/
def Obligations.SecondTurnoverCarriesOrSets : Prop :=
  ∀ s : State, s.part.turnoverDue = true →
    let closed := if s.part.running = true then s.part.closeInstant else s.part
    let k := s.part.clock
    let sum := k.fraction + k.increment
    let carried : Clock := { k with fraction := sum % 2 ^ 32, ns := k.ns + sum / 2 ^ 32 - 1000000000 }
    exec .secondTurnover s = .next (s.modPart fun p =>
      { closed with
        osc := if p.running then p.osc + 1 else p.osc
        secondTick := false
        status := { p.status with offered := 0 }
        control := { p.control with dip := p.control.dip.map (· + 1) }
        clock := match k.pendingSeconds with
          | none => { carried with seconds := k.seconds + 1 }
          | some v => { carried with seconds := v, epoch := k.epoch + 1, pendingSeconds := none }
        gens := match k.pendingSeconds with
          | none => p.gens
          | some v => mapTable (fun _ g => { g with last := { g.last with
              seconds := g.last.seconds + (v - (k.seconds + 1)), epoch := k.epoch + 1 } }) p.gens })
    ∧ closed.besidesExchange = s.part.besidesExchange
    ∧ (s.part.running = true → closed.engine.before = none
        ∧ (s.part.engine.waiting.isSome = true → closed.engine = { s.part.engine with before := none })
        ∧ (s.part.engine.waiting = none → s.part.hold = false →
            (∀ w rest, s.part.engine.indexQueue = w :: rest →
              closed.engine.waiting = some (.index w) ∧ closed.engine.indexQueue = rest)
            ∧ (s.part.engine.indexQueue = [] → s.part.noHeaderRead = true →
                ∀ r rest, s.part.engine.takeList = r :: rest →
                closed.engine.waiting = some (.header r) ∧ closed.rings[r].take = .reading)))

/-! ### Ticks, gates and strobes (Chapter 8) -/

/-- TICK at its instant: the record's last boundary moves on by one period under the present epoch; a CLOSED gate of that source
arms, opens or is suppressed, and any other counts an overrun; an idle armed strobe schedule of that kind gets its pulse. The
SECOND tick closes the discard tally and makes the time, slot and gate records dirty; another tick reaches no alarm point and
no record (R122, R149, R150, R156, R157, R161, R180). That the SECOND tick sets the mark secondTick and another tick keeps it is the
model's own (DESIGN CHOICE, log entry 20). -/
def Obligations.TickReachesItsReceivers : Prop :=
  ∀ (s : State) (kind : TickKind), s.part.running = true → s.part.tickDue kind = true →
    let old := s.part.gens[kindNo kind]
    let period : Nat := match kind with
      | .second => 1000000000
      | .frame => 10000000
      | .subframe => 1000000
      | .half => 500000
      | .prog => s.part.plan.clock.progPeriod * 1000
    ∃ t, exec (.tick kind) s = .next t ∧ t.memory = s.memory
      ∧ t.part.gens[kindNo kind] =
          { last := { seconds := old.last.seconds + BitVec.ofNat 32 ((old.last.ns + period) / 1000000000)
                      ns := (old.last.ns + period) % 1000000000, epoch := s.part.clock.epoch }
            skipped := old.skipped }
      ∧ (∀ j : Fin 5, j ≠ kindNo kind → t.part.gens[j] = s.part.gens[j])
      ∧ (∀ g : GateNo,
          let x := s.part.gates[g]
          let y := t.part.gates[g]
          let plan := s.part.plan.gates[g]
          let suppressed := plan.traceable = true ∧ (s.part.clock.state = .freerun ∨ s.part.clock.state = .acquiring)
          let z : Gate :=
            if plan.source ≠ some kind then x
            else if x.state ≠ .closed then { x with overruns := x.overruns + 1 }
            else if suppressed then { x with suppressed := x.suppressed + 1 }
            else if plan.openDelay ≠ 0 then { x with state := .armed, delayStart := s.part.now }
            else { x with
              state := .opened, delayStart := s.part.now, opens := x.opens + 1
              windowStart := if plan.mode = .window then s.part.now else x.windowStart }
          y = z ∨ (z.state = .opened ∧ plan.mode = .pulse ∧ y = { z with state := .closed }))
      ∧ (∀ n : Slot,
          let x := s.part.ports[n]
          t.part.ports[n].besidesCounters = Port.besidesCounters
            (if s.part.plan.slots[n].strobeKind = some kind ∧ x.strobe.armed = true ∧ x.strobe.pending = none
                ∧ x.strobe.driven = none then
              { x with strobe := { x.strobe with pending := some (s.part.osc + s.part.plan.slots[n].strobeDelay / 8) } }
             else x))
      ∧ (if kind = .second then
          t.part.engine.lastSecond = s.part.engine.tally ∧ t.part.alarm.discards = s.part.engine.tally
            ∧ t.part.secondTick = true ∧ ∀ k : RecordNo, 2 ≤ k.val → k.val ≤ 15 → t.part.status.dirty[k] = true
         else t.part.alarm = s.part.alarm ∧ t.part.status = s.part.status ∧ t.part.secondTick = s.part.secondTick
            ∧ t.part.engine.lastSecond = s.part.engine.lastSecond)
      ∧ (∀ i : Point, i ≠ 80 → t.part.alarm.points[i] = s.part.alarm.points[i])
      ∧ (∀ r : RingNo, t.part.rings[r].besidesTake r = s.part.rings[r].besidesTake r)
      ∧ t.part.clock = s.part.clock ∧ t.part.osc = s.part.osc ∧ t.part.plan = s.part.plan
      ∧ t.part.loader = s.part.loader ∧ t.part.watched = s.part.watched ∧ t.part.arbiter = s.part.arbiter
      ∧ t.part.flights = s.part.flights ∧ t.part.control = s.part.control ∧ t.part.env = s.part.env

/-- GATE_OPEN_DELAY_EXPIRY, GATE_WINDOW_EXPIRY, STROBE_BEGIN and STROBE_END at their instants: an ARMED gate opens and counts it,
or closes suppressed while the time is not traceable; an open PULSE gate may be closed at once by a waiting frame; a WINDOW
gate closes at the end of its window; a strobe line is driven and released (R157–R159, R161). -/
def Obligations.GatesAndStrobesKeepTheirTimes : Prop :=
  ∀ s : State, s.part.running = true →
    (∀ g : GateNo, s.part.gateDelayDue g = true →
      let x := s.part.gates[g]
      let plan := s.part.plan.gates[g]
      let suppressed := plan.traceable = true ∧ (s.part.clock.state = .freerun ∨ s.part.clock.state = .acquiring)
      let z : Gate :=
        if suppressed then { x with state := .closed, suppressed := x.suppressed + 1 }
        else { x with
          state := .opened, opens := x.opens + 1
          windowStart := if plan.mode = .window then s.part.now else x.windowStart }
      ∃ t, exec (.gateOpenDelayExpiry g) s = .next t ∧ t.memory = s.memory
        ∧ (t.part.gates[g] = z
            ∨ (z.state = .opened ∧ plan.mode = .pulse ∧ t.part.gates[g] = { z with state := .closed }))
        ∧ t.part.besidesExchange = (s.part.modGate g fun _ => z).besidesExchange)
    ∧ (∀ g : GateNo, s.part.gateWindowDue g = true →
        ∃ t, exec (.gateWindowExpiry g) s = .next t ∧ t.memory = s.memory
          ∧ t.part.gates[g] = { s.part.gates[g] with state := .closed }
          ∧ t.part.besidesExchange = s.part.besidesExchange)
    ∧ (∀ n : Slot, s.part.strobeBeginDue n = true →
        exec (.strobeBegin n) s = .next (s.modPart fun p => p.modPort n fun x =>
          { x with strobe := { armed := x.strobe.armed, pending := none, driven := some p.osc } }))
    ∧ (∀ n : Slot, s.part.strobeEndDue n = true →
        exec (.strobeEnd n) s = .next (s.modPart fun p => p.modPort n fun x =>
          { x with strobe := { x.strobe with driven := none } }))

/-! ### Alarm points and status records (Chapters 9 and 10) -/

/-- ENV_CHANGE, EVENT_HOLD_EXPIRY and the event of an event-type point: the point's raw condition becomes what its rule gives and
the point acts on its effective condition; every other point, and all outside the alarm unit and its log offers, stays. A
level that leaves the raw condition as it was, or comes during a reset, changes the level alone (R165, R167–R170). -/
def Obligations.ConditionsAreIntegrated : Prop :=
  (∀ (s : State) (i : Fin 8) (level : Contact),
    let j := envPoint i
    let x := s.part.alarm.points[j]
    let raw := level == s.part.plan.alarm.polarity[i]
    let moved : Part := { s.part with env := modify s.part.env i fun _ => level }
    ((s.part.running = false ∨ raw = x.raw) → exec (.envChange i level) s = .next (s.modPart fun _ => moved))
    ∧ (s.part.running = true → raw ≠ x.raw → ∃ t, exec (.envChange i level) s = .next t ∧ t.memory = s.memory
        ∧ t.part.alarm.points[j] =
            { x with raw := raw }.acted s.part.plan.alarm.points[j] s.part.now s.part.cabinetTime
        ∧ (∀ k, k ≠ j → t.part.alarm.points[k] = s.part.alarm.points[k])
        ∧ t.part.besidesAlarms = moved.besidesAlarms))
  ∧ (∀ (s : State) (i : Point), s.part.running = true → s.part.eventHoldDue i = true →
    ∃ t, exec (.eventHoldExpiry i) s = .next t ∧ t.memory = s.memory
      ∧ t.part.alarm.points[i] =
          { s.part.alarm.points[i] with raw := false, lastEvent := none }.acted s.part.plan.alarm.points[i] s.part.now
            s.part.cabinetTime
      ∧ (∀ k, k ≠ i → t.part.alarm.points[k] = s.part.alarm.points[k])
      ∧ t.part.besidesAlarms = s.part.besidesAlarms)
  ∧ ∀ (p : Part) (i : Point),
    (p.raiseEvent i).alarm.points[i] =
        { p.alarm.points[i] with raw := true, lastEvent := some p.now }.acted p.plan.alarm.points[i] p.now p.cabinetTime
      ∧ (∀ k, k ≠ i → (p.raiseEvent i).alarm.points[k] = p.alarm.points[k])
      ∧ (p.raiseEvent i).besidesAlarms = p.besidesAlarms

/-- RAISE_TIMER_EXPIRY and CLEAR_TIMER_EXPIRY at their instants: a transition. The point is RAISED, with its raise count up by
one to at most 255, or CLEAR; its last change is the present cabinet time; the alarm summary becomes dirty; an unmasked raise
ends cut-off; and an unmasked point offers a log record, which takes the next sequence number and is queued, or is counted
as overflow where there is no log or it is full. Nothing else changes (R169–R173, R175, R189), but for the model's mark of the
offers of the instant (log entry 31). -/
def Obligations.TransitionsAreCountedAndLogged : Prop :=
  ∀ (s : State) (i : Point) (raised : Bool), s.part.running = true →
    (if raised = true then s.part.raiseDue i = true else s.part.clearDue i = true) →
    let x := s.part.alarm.points[i]
    let plan := s.part.plan.alarm.points[i]
    let st := s.part.status
    let log := st.log
    let record : LogRecord :=
      { sequence := log.nextSequence, point := i, raised := raised, severity := plan.severity, forced := plan.force
        time := s.part.cabinetTime }
    let marked : Status := { st with dirty := modify st.dirty 16 fun _ => true }
    let space := log.capacity ≠ 0
      ∧ (log.producer + st.logQueue.length + 2 * log.capacity - log.consumer) % (2 * log.capacity) < log.capacity
    exec (if raised = true then .raiseTimerExpiry i else .clearTimerExpiry i) s = .next (s.modPart fun p =>
      { p with
        alarm := { p.alarm with
          points := modify p.alarm.points i fun _ =>
            { x with
              state := if raised = true then .raised else .clear
              start := none
              raiseCount := if raised = true then min 255 (x.raiseCount + 1) else x.raiseCount
              lastChange := some s.part.cabinetTime }
          cutoff := if raised = true ∧ plan.mask = false then false else p.alarm.cutoff }
        status :=
          if plan.mask = true then marked
          else if space then { marked with
            log := { log with nextSequence := log.nextSequence + 1 }
            logQueue := st.logQueue ++ [record]
            offered := st.offered + 1
            waiting := if st.waiting = none then some .log else st.waiting }
          else { marked with
            log := { log with nextSequence := log.nextSequence + 1, overflow := log.overflow + 1 } } })

/-- STATUS_RECORD_BEGIN at its instant: the lowest-numbered dirty record leaves the dirty set, its update number rises, its
fields are captured whole with that number in the first four bytes and in the last four, and the write of its first block is
issued; nothing else changes (R181, R182, R196). The number in the last four bytes rests on serial numbers of 8 bytes at most, which
every step keeps. -/
def Obligations.StatusRecordIsCapturedWhole : Prop :=
  ∀ s : State, s.part.running = true → s.part.recordDue = true →
    ∃ k : RecordNo, s.part.status.dirty[k] = true
      ∧ (∀ j : RecordNo, j.val < k.val → s.part.status.dirty[j] = false)
      ∧ (let st := s.part.status
         let update := st.updates[k] + 1
         let blocks := captureRecord s.part k update
         exec .statusRecordBegin s = .next (s.modPart fun p => { p with status := { st with
            dirty := modify st.dirty k fun _ => false
            updates := modify st.updates k fun _ => update
            progress := some { record := k, blocks := blocks, next := 0 }
            waiting := if st.waiting = none then some .block else st.waiting } })
         ∧ blocks.length = recordBlocks k ∧ (∀ b ∈ blocks, b.length = 64)
         ∧ blocks.flatten.take 4 = leBytes 4 update.toNat
         ∧ (s.part.identitiesSound → blocks.flatten.drop (64 * recordBlocks k - 4) = leBytes 4 update.toNat))

/-- What the status writer writes. Each status record and each log record holds its fields at the offsets and in the codes of
Chapter 11, unused bytes 0, and a status record its update number in its first and, given serial numbers of 8 bytes at most, in its
last four bytes (R181, R184–R187, R194,
R196, R197, Tables 11-1 and 11-12 to 11-17). -/
def Obligations.RecordsHoldTheirFields : Prop :=
  let val (bytes : List Byte) (o k : Nat) : Nat := ofLe ((bytes.drop o).take k)
  let flag (b : Bool) : Nat := if b then 1 else 0
  let severity : Severity → Nat := fun v => match v with
    | .critical => 0 | .major => 1 | .minor => 2 | .warning => 3
  let two32 (x : Int) : Nat := (x % 4294967296).toNat
  (∀ (p : Part) (k : RecordNo) (update : BitVec 16),
    let bytes := (captureRecord p k update).flatten
    let size := 64 * (if k.val ≤ 1 then 1 else if k.val ≤ 14 then 2 else if k.val = 15 then 3 else 24)
    let num (o n : Nat) : Nat := val bytes o n
    bytes.length = size ∧ num 0 4 = update.toNat ∧ (p.identitiesSound → num (size - 4) 4 = update.toNat)
    -- reset record and plan result (Table 11-13)
    ∧ (k = 0 → num 4 2 = 0x1204 ∧ num 6 2 = 3
        ∧ num 8 1 = (match p.control.cause with | .powerOn => 1 | .supplyDip => 2 | .resetPin => 3)
        ∧ num 9 1 = 0 ∧ num 10 2 = p.control.warmCount % 65536 ∧ num 12 48 = 0)
    ∧ (k = 1 → let r := p.loader.result
        num 4 2 = r.applyNumber % 65536 ∧ num 6 2 = r.warmCount % 65536
        ∧ num 8 1 = (match r.kind with | .apply => 0 | .warmStart => 1)
        ∧ num 9 1 = (match r.outcome with | .none => 0 | .accepted => 1 | .acceptedClamped => 2 | .rejected => 3)
        ∧ num 10 1 = (match r.failingSection with
            | .none => 0 | .header => 1 | .ring => 2 | .slot => 3 | .clock => 4 | .alarm => 5 | .memory => 6)
        ∧ num 11 1 = 0 ∧ num 12 2 = r.generation % 65536 ∧ num 14 2 = r.failingEntry % 65536
        ∧ num 16 2 = r.clampCount % 65536 ∧ num 18 2 = r.activeGeneration % 65536 ∧ num 20 40 = 0)
    -- time record (Table 11-14)
    ∧ (k = 2 → let x := p.clock
        let ref (y : Reference) : Nat := match y.state with | .quiet => 0 | .qualifying => 1 | .qualified => 2
        num 4 4 = x.seconds.toNat ∧ num 8 4 = x.ns % 4294967296 ∧ num 12 1 = x.epoch.toNat
        ∧ num 13 1 = (match x.state with | .freerun => 0 | .acquiring => 1 | .tracking => 2 | .holdover => 3)
        ∧ num 14 1 = flag x.trained
        ∧ num 15 1 = (match x.selected with | none => 0 | some .a => 1 | some .b => 2)
        ∧ num 16 1 = ref x.refA ∧ num 17 1 = ref x.refB ∧ num 18 1 = flag x.holdoverReached
        ∧ num 19 1 = flag x.pendingSeconds.isSome
        ∧ num 20 4 = (match x.pendingSeconds with | none => 0 | some v => v.toNat)
        ∧ num 24 4 = two32 x.lastError ∧ num 28 4 = two32 x.facc ∧ num 32 4 = two32 x.c
        ∧ num 36 4 = (match x.state, x.holdoverStart with
            | .holdover, some t => (p.now - t) / 1000000 % 4294967296
            | _, _ => 0)
        ∧ num 40 8 = x.increment % 18446744073709551616
        ∧ (∀ i : Fin 5, num (48 + 4 * i.val) 4 = p.gens[i].skipped.toNat) ∧ num 68 56 = 0)
    -- slot record (Table 11-15)
    ∧ (∀ n : Slot, k.val = 3 + n.val → let x := p.ports[n]
        let shown := if x.identityShown = true then x.identity else none
        let w := x.counters
        num 4 1 = (match x.state with
            | .empty => 0 | .standby => 1 | .powering => 2 | .training => 3 | .quarantine => 4 | .admitting => 5
            | .admitted => 6 | .removing => 7 | .fenced => 8)
        ∧ num 5 1 = (match x.fenceReason with
            | .none => 0 | .powerFault => 1 | .trainTimeout => 2 | .linkLost => 3 | .command => 4 | .violations => 5
            | .heartbeatLost => 6 | .heartbeatInvalid => 7 | .planMismatch => 8)
        ∧ num 6 1 = flag x.powerRemoved
        ∧ num 7 1 = (match x.admitResult with
            | .none => 0 | .passed => 1 | .waived => 2 | .kind => 3 | .revision => 4 | .memory => 5)
        ∧ num 8 1 = flag shown.isSome ∧ num 9 1 = flag x.waived ∧ num 10 1 = flag x.heartbeat.lost
        ∧ num 11 1 = x.violations % 256
        ∧ (shown = none → num 12 12 = 0)
        ∧ (∀ i, shown = some i → i.serial.length = 8 →
            num 12 2 = i.kind % 65536 ∧ num 14 2 = i.revision % 65536 ∧ (bytes.drop 16).take 8 = i.serial)
        ∧ ((∀ i, shown = some i → i.serial.length = 8) →
          num 24 2 = x.ringFaults % 65536 ∧ num 26 2 = 0
          ∧ (∀ c : Cls, num (28 + c.val) 1 = (match p.headRecord (egressRing n c) with
              | none => 0
              | some h => match h.blockReason with | .none => 0 | .space => 1 | .gate => 2 | .destDown => 3))
          ∧ num 32 4 = w.owed.toNat ∧ num 36 4 = w.delivered.toNat ∧ num 40 4 = w.received.toNat
          ∧ num 44 4 = w.holdExpired.toNat ∧ num 48 4 = w.destDown.toNat ∧ num 52 4 = w.oversize.toNat
          ∧ num 56 4 = w.sourceDown.toNat ∧ num 60 4 = w.plan.toNat ∧ num 64 4 = w.memory.toNat
          ∧ num 68 4 = w.malformed.toNat ∧ num 72 52 = 0))
    -- gate record (11.5)
    ∧ (k = 15 → num 4 12 = 0 ∧ num 144 44 = 0 ∧ ∀ g : GateNo, let x := p.gates[g]
        num (16 + 16 * g.val) 1 = (match x.state with | .closed => 0 | .armed => 1 | .opened => 2)
        ∧ num (17 + 16 * g.val) 3 = 0 ∧ num (20 + 16 * g.val) 4 = x.opens.toNat
        ∧ num (24 + 16 * g.val) 4 = x.overruns.toNat ∧ num (28 + 16 * g.val) 4 = x.suppressed.toNat)
    -- alarm summary (Table 11-16)
    ∧ (k = 16 → let l := p.status.log
        num 4 1 = flag p.alarm.cutoff ∧ num 5 1 = flag (p.relay .critical) ∧ num 6 1 = flag (p.relay .major)
        ∧ num 7 1 = flag (p.relay .minor) ∧ num 8 4 = l.base % 4294967296 ∧ num 12 2 = l.capacity % 65536
        ∧ num 14 2 = l.producer % 65536 ∧ num 16 2 = l.consumer % 65536 ∧ num 18 2 = 0
        ∧ num 20 4 = l.nextSequence.toNat ∧ num 24 4 = l.overflow.toNat ∧ num 28 36 = 0 ∧ num 1488 44 = 0
        ∧ ∀ i : Point, let o := 64 + 16 * i.val; let x := p.alarm.points[i]; let plan := p.plan.alarm.points[i]
          num o 1 = flag x.raw ∧ num (o + 1) 1 = flag plan.force ∧ num (o + 2) 1 = flag plan.mask
          ∧ num (o + 3) 1 = severity plan.severity
          ∧ num (o + 4) 1 = (match x.state with | .clear => 0 | .rising => 1 | .raised => 2 | .falling => 3)
          ∧ num (o + 5) 1 = x.raiseCount % 256
          ∧ (match x.lastChange with
              | none => num (o + 6) 10 = 0
              | some t => num (o + 6) 1 = 1 ∧ num (o + 7) 1 = t.epoch.toNat ∧ num (o + 8) 4 = t.seconds.toNat
                  ∧ num (o + 12) 4 = t.ns % 4294967296)))
  -- log record (Table 11-17)
  ∧ ∀ r : LogRecord, (logBytes r).length = 32
    ∧ val (logBytes r) 0 4 = r.sequence.toNat ∧ val (logBytes r) 4 1 = r.point.val
    ∧ val (logBytes r) 5 1 = (if r.raised = true then 1 else 2) ∧ val (logBytes r) 6 1 = severity r.severity
    ∧ val (logBytes r) 7 1 = flag r.forced ∧ val (logBytes r) 8 4 = r.time.seconds.toNat
    ∧ val (logBytes r) 12 4 = r.time.ns % 4294967296 ∧ val (logBytes r) 16 1 = r.time.epoch.toNat
    ∧ val (logBytes r) 17 15 = 0

/-! ### Supply and resets (Chapter 10) -/

/-- POWER_ON_RESET, SUPPLY_FALL, SUPPLY_RETURN, SUPPLY_DIP_RESET and RESET_PIN_ASSERT. A power-on or supply-dip reset puts every
block to the values it has after reset, but for the input pins and what reset control remembers; a reset-pin reset of a
running part does the same but keeps cabinet time with its epoch, the trained flag, Facc and the last phase error, and holds
every slot that has its power on, good and its card present in TRAINING. Exchange memory keeps its content; the dip timer
runs from a fall of the supply to its return, unless a reset already waits for the supply (R20, R51, R81, R82, R102, R147, R148,
R178, R192, R193). Four things are the model's: POWER_ON_RESET leaves the supply low (log entry 14), the slots are held in TRAINING
with their links DOWN while the reset lasts, where R82 speaks of its end (log entry 22), the last emitted boundaries are 0, the
warm-reset count of the plan result is the one before the reset and no raw condition is true while a reset lasts (log entry 36), and the fields the manual gives no value after a reset hold those of log entry 2. -/
def Obligations.ResetsPutTheBlocksBack : Prop :=
  ∀ s : State,
    let c := s.part.control
    let blank (control : ResetControl) : Part :=
      { Part.reset with
        control := control
        env := s.part.env
        loader := Loader.reset control.warmCount
        ports := mapTable (fun _ x => Port.reset x.presentLevel x.pwrgd) s.part.ports
        alarm := Alarm.reset
        status := Status.reset }
    exec .powerOnReset s = .next (s.modPart fun _ =>
      blank { c with active := some .powerOn, supplyLow := true, dip := none })
    ∧ exec .supplyFall s = .next (s.modPart fun p => { p with control :=
        if c.supplyLow = true ∧ c.dip = none then c else { c with supplyLow := true, dip := some (c.dip.getD 0) } })
    ∧ exec .supplyReturn s = .next (s.modPart fun p => { p with control := { c with supplyLow := false, dip := none } })
    ∧ (s.part.dipDue = true → exec .supplyDipReset s = .next (s.modPart fun _ => blank { c with
        active := some (if c.active = some .powerOn then .powerOn else .supplyDip), dip := none }))
    ∧ (s.part.running = false → exec .resetPinAssert s = .next (s.modPart fun p =>
        { p with control := { c with pinLow := true } }))
    ∧ (s.part.running = true →
        let k := s.part.clock
        let keeps (n : Slot) : Bool := s.part.pwren n && s.part.ports[n].pwrgd && s.part.ports[n].presence
        let held := k.trained = true
        exec .resetPinAssert s = .next (s.modPart fun _ =>
          { blank { c with active := some .resetPin, pinLow := true } with
            ports := tabulate fun n =>
              let x := Port.reset s.part.ports[n].presentLevel s.part.ports[n].pwrgd
              if keeps n = true then { x with state := .training, presence := true } else x
            clock := { Clock.reset with
              seconds := k.seconds, ns := k.ns, fraction := k.fraction, epoch := k.epoch, trained := k.trained,
              facc := k.facc, c := k.facc, increment := incrementOf k.facc, lastError := k.lastError,
              state := if held then .holdover else .freerun
              holdoverStart := if held then some 0 else none } }))

/-- RESET_END: RESETN is released. Where a reset waits for the supply, or there is none, that is all. Otherwise the part starts, even
with the supply low again in a dip that RESETN outlasted:
the cause and the warm-reset count are recorded, the timers start at service-clock 0, each last boundary is the latest at or
before cabinet time, every alarm point acts on its condition of that instant, and after a reset-pin reset the loader begins a
warm start. A power-on reset of a part with no card, power-good or closed contact ends in the state called reset (R52, R81, R82,
R155, R178, R192, R193). What RESET_END stands for is the model's (DEDUCED, log entry 14), and so is the state called reset: its
input levels (DESIGN CHOICE, log entry 15) and the fields the manual gives no value after a reset (log entry 2). A slot held in
TRAINING stays in it whatever the level of its PWRGDn at the end of the reset, which R58 leaves open (DESIGN CHOICE, log entry
33). -/
def Obligations.ResetEndStartsThePart : Prop :=
  (∀ s : State,
    let c := { s.part.control with pinLow := false }
    let ends (kind : ResetKind) : Prop := c.active = some kind ∧ ¬ (c.supplyLow = true ∧ c.dip = none)
    ((∀ kind, ¬ ends kind) → exec .resetEnd s = .next (s.modPart fun p => { p with control := c }))
    ∧ ∀ kind, ends kind →
      let warm := if kind = .resetPin then min 65535 (c.warmCount + 1) else 0
      let started : Part :=
        { s.part with
          control := { c with
            active := none, cause := kind, warmCount := warm, dip := if c.supplyLow = true then some 0 else none }
          loader := if kind = .resetPin then { Loader.reset warm with
              phase := .reading, kind := .warmStart, readWaiting := true } else Loader.reset warm
          ports := mapTable (fun _ x =>
            { x with
              stateTimer := if x.state = .training then some 0 else x.stateTimer
              presenceTimer := if x.presentLevel = x.presence then none
                else if x.presenceTimer = none then some 0 else x.presenceTimer }) s.part.ports
          gens := tabulate fun i =>
            let period := s.part.plan.period (tickKinds.getD i.val .second)
            { last := { s.part.cabinetTime with ns := s.part.clock.ns - s.part.clock.ns % period }, skipped := 0 } }
      ∃ t, exec .resetEnd s = .next t ∧ t.memory = s.memory ∧ t.part.besidesAlarms = started.besidesAlarms
        ∧ ∀ i : Point, t.part.alarm.points[i] =
            { s.part.alarm.points[i] with
              raw := (t.part.condition i).getD s.part.alarm.points[i].raw }.acted s.part.plan.alarm.points[i] t.part.now
                t.part.cabinetTime)
  ∧ ∀ s : State, (∀ n : Slot, s.part.ports[n].presentLevel = false ∧ s.part.ports[n].pwrgd = false) →
      (∀ i : Fin 8, s.part.env[i] = .opened) → s.part.control.pinLow = false →
      ∃ t u, exec .powerOnReset s = .next t ∧ exec .supplyReturn t = .next u
        ∧ exec .resetEnd u = .next { State.reset with memory := s.memory, pending := s.pending }

/-- The output lines. ATTNn is driven while the slot is ADMITTED and a present attention ring of it, or for slot 0 the log, holds
entries; a relay is energised while, with cut-off not in force, an unmasked point of its severity is RAISED, and WARNING has
none; PWRENn is on in POWERING to ADMITTED and in FENCED with power kept. Every reset releases ATTNn, STROBEn and the relays,
and turns off every PWRENn but, at a reset-pin reset, those whose slot has its power on and good and its card present. ATTNn is
driven low; PWRENn, STROBEn and the relays are on, driven and energised high; an input at its active level reads low for PRESENTn
and RESETN and high for PWRGDn, and a rising edge alone of REFA and REFB is a pulse (R56, R75, R82, R163, R174, R178, R198). That an
edge of a pin is the command of its row is the model's (DESIGN CHOICE, log entry 24), and that the release of RESETN is RESET_END,
the row for the end of the last overlapping reset (R192), is DEDUCED (log entry 14). -/
def Obligations.OutputLinesFollowTheState : Prop :=
  (∀ (p : Part) (n : Slot), p.attn n = true ↔ p.ports[n].state = .admitted
    ∧ ((∃ c : Cls, p.plan.rings[ingressRing n c].count ≠ 0 ∧ p.plan.rings[ingressRing n c].attention = true
          ∧ p.rings[ingressRing n c].producer ≠ p.rings[ingressRing n c].consumer)
        ∨ (n = 0 ∧ p.status.log.producer ≠ p.status.log.consumer)))
  ∧ (∀ (p : Part) (v : Severity), p.relay v = true ↔ v ≠ .warning ∧ p.alarm.cutoff = false
    ∧ ∃ i : Point, p.alarm.points[i].state = .raised ∧ p.plan.alarm.points[i].mask = false
        ∧ p.plan.alarm.points[i].severity = v)
  ∧ (∀ (p : Part) (n : Slot), p.pwren n = true ↔ p.ports[n].state = .powering ∨ p.ports[n].state = .training
    ∨ p.ports[n].state.linked = true ∨ (p.ports[n].state = .fenced ∧ p.ports[n].powerRemoved = false))
  ∧ (∀ (p : Part) (n : Slot),
      p.outputLevel (.attn n) = (if p.attn n = true then .low else .high)
      ∧ p.outputLevel (.pwren n) = (if p.pwren n = true then .high else .low)
      ∧ p.outputLevel (.strobe n) = (if p.ports[n].strobe.driven.isSome = true then .high else .low)
      ∧ p.inputLevel (.present n) = (if p.ports[n].presentLevel = true then .low else .high)
      ∧ p.inputLevel (.pwrgd n) = (if p.ports[n].pwrgd = true then .high else .low)
      ∧ LevelPin.edge (.present n) .low = .presenceLevelChange n true
      ∧ LevelPin.edge (.present n) .high = .presenceLevelChange n false
      ∧ LevelPin.edge (.pwrgd n) .high = .pwrgdAsserted n ∧ LevelPin.edge (.pwrgd n) .low = .pwrgdDeasserted n)
  ∧ (∀ p : Part, p.outputLevel .relayCritical = (if p.relay .critical = true then .high else .low)
      ∧ p.outputLevel .relayMajor = (if p.relay .major = true then .high else .low)
      ∧ p.outputLevel .relayMinor = (if p.relay .minor = true then .high else .low)
      ∧ p.inputLevel .resetN = (if p.control.pinLow = true then .low else .high)
      ∧ LevelPin.edge .resetN .low = .resetPinAssert ∧ LevelPin.edge .resetN .high = .resetEnd
      ∧ ∀ r, referenceEdge r .high = some (.referencePulse r) ∧ referenceEdge r .low = none)
  ∧ ∀ (s t : State) (c : Instr),
    (c = .powerOnReset ∨ (c = .supplyDipReset ∧ s.part.dipDue = true)
      ∨ (c = .resetPinAssert ∧ s.part.running = true)) → exec c s = .next t →
    (∀ n : Slot, t.part.attn n = false ∧ t.part.strobe n = false
      ∧ (t.part.pwren n = true ↔ c = .resetPinAssert ∧ s.part.pwren n = true ∧ s.part.ports[n].pwrgd = true
          ∧ s.part.ports[n].presence = true))
    ∧ ∀ v, t.part.relay v = false
end

