-- ==== Sys2Proof/Laws/State.lean ====
section
/-! SUPPORT. Sys2Proof/Laws/State.lean: one lemma for each field of the part and of the machine under each small update, so
that no proof unfolds a record update. -/
namespace Sys2Proof.Machine

/-! ### `Part.modPort`: one slot port -/

@[simp] theorem Part.modPort_osc (n : Slot) (f : Port → Port) (p : Part) : (p.modPort n f).osc = p.osc := rfl
@[simp] theorem Part.modPort_control (n : Slot) (f : Port → Port) (p : Part) : (p.modPort n f).control = p.control := rfl
@[simp] theorem Part.modPort_env (n : Slot) (f : Port → Port) (p : Part) : (p.modPort n f).env = p.env := rfl
@[simp] theorem Part.modPort_plan (n : Slot) (f : Port → Port) (p : Part) : (p.modPort n f).plan = p.plan := rfl
@[simp] theorem Part.modPort_loader (n : Slot) (f : Port → Port) (p : Part) : (p.modPort n f).loader = p.loader := rfl
@[simp] theorem Part.modPort_rings (n : Slot) (f : Port → Port) (p : Part) : (p.modPort n f).rings = p.rings := rfl
@[simp] theorem Part.modPort_engine (n : Slot) (f : Port → Port) (p : Part) : (p.modPort n f).engine = p.engine := rfl
@[simp] theorem Part.modPort_watched (n : Slot) (f : Port → Port) (p : Part) : (p.modPort n f).watched = p.watched := rfl
@[simp] theorem Part.modPort_arbiter (n : Slot) (f : Port → Port) (p : Part) : (p.modPort n f).arbiter = p.arbiter := rfl
@[simp] theorem Part.modPort_flights (n : Slot) (f : Port → Port) (p : Part) : (p.modPort n f).flights = p.flights := rfl
@[simp] theorem Part.modPort_clock (n : Slot) (f : Port → Port) (p : Part) : (p.modPort n f).clock = p.clock := rfl
@[simp] theorem Part.modPort_gens (n : Slot) (f : Port → Port) (p : Part) : (p.modPort n f).gens = p.gens := rfl
@[simp] theorem Part.modPort_gates (n : Slot) (f : Port → Port) (p : Part) : (p.modPort n f).gates = p.gates := rfl
@[simp] theorem Part.modPort_secondTick (n : Slot) (f : Port → Port) (p : Part) : (p.modPort n f).secondTick = p.secondTick := rfl
@[simp] theorem Part.modPort_alarm (n : Slot) (f : Port → Port) (p : Part) : (p.modPort n f).alarm = p.alarm := rfl
@[simp] theorem Part.modPort_status (n : Slot) (f : Port → Port) (p : Part) : (p.modPort n f).status = p.status := rfl

@[simp] theorem Part.modPort_self (n : Slot) (f : Port → Port) (p : Part) : (p.modPort n f).ports[n] = f p.ports[n] :=
  getElem_modify_self p.ports n f

theorem Part.modPort_ne {n m : Slot} (h : n ≠ m) (f : Port → Port) (p : Part) : (p.modPort n f).ports[m] = p.ports[m] :=
  getElem_modify_ne p.ports n f m.val m.isLt fun e => h (Fin.ext e)

/-! ### `Part.modRing`: one ring record -/

@[simp] theorem Part.modRing_osc (r : RingNo) (f : Ring → Ring) (p : Part) : (p.modRing r f).osc = p.osc := rfl
@[simp] theorem Part.modRing_control (r : RingNo) (f : Ring → Ring) (p : Part) : (p.modRing r f).control = p.control := rfl
@[simp] theorem Part.modRing_env (r : RingNo) (f : Ring → Ring) (p : Part) : (p.modRing r f).env = p.env := rfl
@[simp] theorem Part.modRing_plan (r : RingNo) (f : Ring → Ring) (p : Part) : (p.modRing r f).plan = p.plan := rfl
@[simp] theorem Part.modRing_loader (r : RingNo) (f : Ring → Ring) (p : Part) : (p.modRing r f).loader = p.loader := rfl
@[simp] theorem Part.modRing_ports (r : RingNo) (f : Ring → Ring) (p : Part) : (p.modRing r f).ports = p.ports := rfl
@[simp] theorem Part.modRing_engine (r : RingNo) (f : Ring → Ring) (p : Part) : (p.modRing r f).engine = p.engine := rfl
@[simp] theorem Part.modRing_watched (r : RingNo) (f : Ring → Ring) (p : Part) : (p.modRing r f).watched = p.watched := rfl
@[simp] theorem Part.modRing_arbiter (r : RingNo) (f : Ring → Ring) (p : Part) : (p.modRing r f).arbiter = p.arbiter := rfl
@[simp] theorem Part.modRing_flights (r : RingNo) (f : Ring → Ring) (p : Part) : (p.modRing r f).flights = p.flights := rfl
@[simp] theorem Part.modRing_clock (r : RingNo) (f : Ring → Ring) (p : Part) : (p.modRing r f).clock = p.clock := rfl
@[simp] theorem Part.modRing_gens (r : RingNo) (f : Ring → Ring) (p : Part) : (p.modRing r f).gens = p.gens := rfl
@[simp] theorem Part.modRing_gates (r : RingNo) (f : Ring → Ring) (p : Part) : (p.modRing r f).gates = p.gates := rfl
@[simp] theorem Part.modRing_secondTick (r : RingNo) (f : Ring → Ring) (p : Part) : (p.modRing r f).secondTick = p.secondTick := rfl
@[simp] theorem Part.modRing_alarm (r : RingNo) (f : Ring → Ring) (p : Part) : (p.modRing r f).alarm = p.alarm := rfl
@[simp] theorem Part.modRing_status (r : RingNo) (f : Ring → Ring) (p : Part) : (p.modRing r f).status = p.status := rfl

@[simp] theorem Part.modRing_self (r : RingNo) (f : Ring → Ring) (p : Part) : (p.modRing r f).rings[r] = f p.rings[r] :=
  getElem_modify_self p.rings r f

theorem Part.modRing_ne {r q : RingNo} (h : r ≠ q) (f : Ring → Ring) (p : Part) : (p.modRing r f).rings[q] = p.rings[q] :=
  getElem_modify_ne p.rings r f q.val q.isLt fun e => h (Fin.ext e)

/-! ### `Part.modGate`: one gate -/

@[simp] theorem Part.modGate_osc (g : GateNo) (f : Gate → Gate) (p : Part) : (p.modGate g f).osc = p.osc := rfl
@[simp] theorem Part.modGate_control (g : GateNo) (f : Gate → Gate) (p : Part) : (p.modGate g f).control = p.control := rfl
@[simp] theorem Part.modGate_env (g : GateNo) (f : Gate → Gate) (p : Part) : (p.modGate g f).env = p.env := rfl
@[simp] theorem Part.modGate_plan (g : GateNo) (f : Gate → Gate) (p : Part) : (p.modGate g f).plan = p.plan := rfl
@[simp] theorem Part.modGate_loader (g : GateNo) (f : Gate → Gate) (p : Part) : (p.modGate g f).loader = p.loader := rfl
@[simp] theorem Part.modGate_ports (g : GateNo) (f : Gate → Gate) (p : Part) : (p.modGate g f).ports = p.ports := rfl
@[simp] theorem Part.modGate_rings (g : GateNo) (f : Gate → Gate) (p : Part) : (p.modGate g f).rings = p.rings := rfl
@[simp] theorem Part.modGate_engine (g : GateNo) (f : Gate → Gate) (p : Part) : (p.modGate g f).engine = p.engine := rfl
@[simp] theorem Part.modGate_watched (g : GateNo) (f : Gate → Gate) (p : Part) : (p.modGate g f).watched = p.watched := rfl
@[simp] theorem Part.modGate_arbiter (g : GateNo) (f : Gate → Gate) (p : Part) : (p.modGate g f).arbiter = p.arbiter := rfl
@[simp] theorem Part.modGate_flights (g : GateNo) (f : Gate → Gate) (p : Part) : (p.modGate g f).flights = p.flights := rfl
@[simp] theorem Part.modGate_clock (g : GateNo) (f : Gate → Gate) (p : Part) : (p.modGate g f).clock = p.clock := rfl
@[simp] theorem Part.modGate_gens (g : GateNo) (f : Gate → Gate) (p : Part) : (p.modGate g f).gens = p.gens := rfl
@[simp] theorem Part.modGate_secondTick (g : GateNo) (f : Gate → Gate) (p : Part) : (p.modGate g f).secondTick = p.secondTick := rfl
@[simp] theorem Part.modGate_alarm (g : GateNo) (f : Gate → Gate) (p : Part) : (p.modGate g f).alarm = p.alarm := rfl
@[simp] theorem Part.modGate_status (g : GateNo) (f : Gate → Gate) (p : Part) : (p.modGate g f).status = p.status := rfl
@[simp] theorem Part.modGate_self (g : GateNo) (f : Gate → Gate) (p : Part) : (p.modGate g f).gates[g] = f p.gates[g] :=
  getElem_modify_self p.gates g f

theorem Part.modGate_ne {g k : GateNo} (h : g ≠ k) (f : Gate → Gate) (p : Part) : (p.modGate g f).gates[k] = p.gates[k] :=
  getElem_modify_ne p.gates g f k.val k.isLt fun e => h (Fin.ext e)

/-! ### `Part.modEngine`: the engine's records -/

@[simp] theorem Part.modEngine_osc (f : Engine → Engine) (p : Part) : (p.modEngine f).osc = p.osc := rfl
@[simp] theorem Part.modEngine_control (f : Engine → Engine) (p : Part) : (p.modEngine f).control = p.control := rfl
@[simp] theorem Part.modEngine_env (f : Engine → Engine) (p : Part) : (p.modEngine f).env = p.env := rfl
@[simp] theorem Part.modEngine_plan (f : Engine → Engine) (p : Part) : (p.modEngine f).plan = p.plan := rfl
@[simp] theorem Part.modEngine_loader (f : Engine → Engine) (p : Part) : (p.modEngine f).loader = p.loader := rfl
@[simp] theorem Part.modEngine_ports (f : Engine → Engine) (p : Part) : (p.modEngine f).ports = p.ports := rfl
@[simp] theorem Part.modEngine_rings (f : Engine → Engine) (p : Part) : (p.modEngine f).rings = p.rings := rfl
@[simp] theorem Part.modEngine_watched (f : Engine → Engine) (p : Part) : (p.modEngine f).watched = p.watched := rfl
@[simp] theorem Part.modEngine_arbiter (f : Engine → Engine) (p : Part) : (p.modEngine f).arbiter = p.arbiter := rfl
@[simp] theorem Part.modEngine_flights (f : Engine → Engine) (p : Part) : (p.modEngine f).flights = p.flights := rfl
@[simp] theorem Part.modEngine_clock (f : Engine → Engine) (p : Part) : (p.modEngine f).clock = p.clock := rfl
@[simp] theorem Part.modEngine_gens (f : Engine → Engine) (p : Part) : (p.modEngine f).gens = p.gens := rfl
@[simp] theorem Part.modEngine_gates (f : Engine → Engine) (p : Part) : (p.modEngine f).gates = p.gates := rfl
@[simp] theorem Part.modEngine_secondTick (f : Engine → Engine) (p : Part) : (p.modEngine f).secondTick = p.secondTick := rfl
@[simp] theorem Part.modEngine_alarm (f : Engine → Engine) (p : Part) : (p.modEngine f).alarm = p.alarm := rfl
@[simp] theorem Part.modEngine_status (f : Engine → Engine) (p : Part) : (p.modEngine f).status = p.status := rfl

@[simp] theorem Part.modEngine_engine (f : Engine → Engine) (p : Part) : (p.modEngine f).engine = f p.engine := rfl

/-! ### `Part.modLoader`: the plan loader -/

@[simp] theorem Part.modLoader_osc (f : Loader → Loader) (p : Part) : (p.modLoader f).osc = p.osc := rfl
@[simp] theorem Part.modLoader_control (f : Loader → Loader) (p : Part) : (p.modLoader f).control = p.control := rfl
@[simp] theorem Part.modLoader_env (f : Loader → Loader) (p : Part) : (p.modLoader f).env = p.env := rfl
@[simp] theorem Part.modLoader_plan (f : Loader → Loader) (p : Part) : (p.modLoader f).plan = p.plan := rfl
@[simp] theorem Part.modLoader_ports (f : Loader → Loader) (p : Part) : (p.modLoader f).ports = p.ports := rfl
@[simp] theorem Part.modLoader_rings (f : Loader → Loader) (p : Part) : (p.modLoader f).rings = p.rings := rfl
@[simp] theorem Part.modLoader_engine (f : Loader → Loader) (p : Part) : (p.modLoader f).engine = p.engine := rfl
@[simp] theorem Part.modLoader_watched (f : Loader → Loader) (p : Part) : (p.modLoader f).watched = p.watched := rfl
@[simp] theorem Part.modLoader_arbiter (f : Loader → Loader) (p : Part) : (p.modLoader f).arbiter = p.arbiter := rfl
@[simp] theorem Part.modLoader_flights (f : Loader → Loader) (p : Part) : (p.modLoader f).flights = p.flights := rfl
@[simp] theorem Part.modLoader_clock (f : Loader → Loader) (p : Part) : (p.modLoader f).clock = p.clock := rfl
@[simp] theorem Part.modLoader_gens (f : Loader → Loader) (p : Part) : (p.modLoader f).gens = p.gens := rfl
@[simp] theorem Part.modLoader_gates (f : Loader → Loader) (p : Part) : (p.modLoader f).gates = p.gates := rfl
@[simp] theorem Part.modLoader_secondTick (f : Loader → Loader) (p : Part) : (p.modLoader f).secondTick = p.secondTick := rfl
@[simp] theorem Part.modLoader_alarm (f : Loader → Loader) (p : Part) : (p.modLoader f).alarm = p.alarm := rfl
@[simp] theorem Part.modLoader_status (f : Loader → Loader) (p : Part) : (p.modLoader f).status = p.status := rfl

@[simp] theorem Part.modLoader_loader (f : Loader → Loader) (p : Part) : (p.modLoader f).loader = f p.loader := rfl

/-! ### `Part.setWatched`: one watched-word copy -/

@[simp] theorem Part.setWatched_osc (k : WatchedWord) (v : Word) (p : Part) : (p.setWatched k v).osc = p.osc := rfl
@[simp] theorem Part.setWatched_control (k : WatchedWord) (v : Word) (p : Part) : (p.setWatched k v).control = p.control := rfl
@[simp] theorem Part.setWatched_env (k : WatchedWord) (v : Word) (p : Part) : (p.setWatched k v).env = p.env := rfl
@[simp] theorem Part.setWatched_plan (k : WatchedWord) (v : Word) (p : Part) : (p.setWatched k v).plan = p.plan := rfl
@[simp] theorem Part.setWatched_loader (k : WatchedWord) (v : Word) (p : Part) : (p.setWatched k v).loader = p.loader := rfl
@[simp] theorem Part.setWatched_ports (k : WatchedWord) (v : Word) (p : Part) : (p.setWatched k v).ports = p.ports := rfl
@[simp] theorem Part.setWatched_rings (k : WatchedWord) (v : Word) (p : Part) : (p.setWatched k v).rings = p.rings := rfl
@[simp] theorem Part.setWatched_engine (k : WatchedWord) (v : Word) (p : Part) : (p.setWatched k v).engine = p.engine := rfl
@[simp] theorem Part.setWatched_arbiter (k : WatchedWord) (v : Word) (p : Part) : (p.setWatched k v).arbiter = p.arbiter := rfl
@[simp] theorem Part.setWatched_flights (k : WatchedWord) (v : Word) (p : Part) : (p.setWatched k v).flights = p.flights := rfl
@[simp] theorem Part.setWatched_clock (k : WatchedWord) (v : Word) (p : Part) : (p.setWatched k v).clock = p.clock := rfl
@[simp] theorem Part.setWatched_gens (k : WatchedWord) (v : Word) (p : Part) : (p.setWatched k v).gens = p.gens := rfl
@[simp] theorem Part.setWatched_gates (k : WatchedWord) (v : Word) (p : Part) : (p.setWatched k v).gates = p.gates := rfl
@[simp] theorem Part.setWatched_secondTick (k : WatchedWord) (v : Word) (p : Part) : (p.setWatched k v).secondTick = p.secondTick := rfl
@[simp] theorem Part.setWatched_alarm (k : WatchedWord) (v : Word) (p : Part) : (p.setWatched k v).alarm = p.alarm := rfl
@[simp] theorem Part.setWatched_status (k : WatchedWord) (v : Word) (p : Part) : (p.setWatched k v).status = p.status := rfl

@[simp] theorem Part.setWatched_watched (k : WatchedWord) (v : Word) (p : Part) :
    (p.setWatched k v).watched = p.watched.set k v := rfl

/-! ### `Part.withAlarm`: the alarm unit and the status writer -/

@[simp] theorem Part.withAlarm_osc (x : Alarm × Status) (p : Part) : (p.withAlarm x).osc = p.osc := rfl
@[simp] theorem Part.withAlarm_control (x : Alarm × Status) (p : Part) : (p.withAlarm x).control = p.control := rfl
@[simp] theorem Part.withAlarm_env (x : Alarm × Status) (p : Part) : (p.withAlarm x).env = p.env := rfl
@[simp] theorem Part.withAlarm_plan (x : Alarm × Status) (p : Part) : (p.withAlarm x).plan = p.plan := rfl
@[simp] theorem Part.withAlarm_loader (x : Alarm × Status) (p : Part) : (p.withAlarm x).loader = p.loader := rfl
@[simp] theorem Part.withAlarm_ports (x : Alarm × Status) (p : Part) : (p.withAlarm x).ports = p.ports := rfl
@[simp] theorem Part.withAlarm_rings (x : Alarm × Status) (p : Part) : (p.withAlarm x).rings = p.rings := rfl
@[simp] theorem Part.withAlarm_engine (x : Alarm × Status) (p : Part) : (p.withAlarm x).engine = p.engine := rfl
@[simp] theorem Part.withAlarm_watched (x : Alarm × Status) (p : Part) : (p.withAlarm x).watched = p.watched := rfl
@[simp] theorem Part.withAlarm_arbiter (x : Alarm × Status) (p : Part) : (p.withAlarm x).arbiter = p.arbiter := rfl
@[simp] theorem Part.withAlarm_flights (x : Alarm × Status) (p : Part) : (p.withAlarm x).flights = p.flights := rfl
@[simp] theorem Part.withAlarm_clock (x : Alarm × Status) (p : Part) : (p.withAlarm x).clock = p.clock := rfl
@[simp] theorem Part.withAlarm_gens (x : Alarm × Status) (p : Part) : (p.withAlarm x).gens = p.gens := rfl
@[simp] theorem Part.withAlarm_gates (x : Alarm × Status) (p : Part) : (p.withAlarm x).gates = p.gates := rfl
@[simp] theorem Part.withAlarm_secondTick (x : Alarm × Status) (p : Part) : (p.withAlarm x).secondTick = p.secondTick := rfl

@[simp] theorem Part.withAlarm_alarm (x : Alarm × Status) (p : Part) : (p.withAlarm x).alarm = x.1 := rfl
@[simp] theorem Part.withAlarm_status (x : Alarm × Status) (p : Part) : (p.withAlarm x).status = x.2 := rfl

/-! ### `Part.mark`: a dirty mark -/

@[simp] theorem Part.mark_osc (k : RecordNo) (p : Part) : (p.mark k).osc = p.osc := rfl
@[simp] theorem Part.mark_control (k : RecordNo) (p : Part) : (p.mark k).control = p.control := rfl
@[simp] theorem Part.mark_env (k : RecordNo) (p : Part) : (p.mark k).env = p.env := rfl
@[simp] theorem Part.mark_plan (k : RecordNo) (p : Part) : (p.mark k).plan = p.plan := rfl
@[simp] theorem Part.mark_loader (k : RecordNo) (p : Part) : (p.mark k).loader = p.loader := rfl
@[simp] theorem Part.mark_ports (k : RecordNo) (p : Part) : (p.mark k).ports = p.ports := rfl
@[simp] theorem Part.mark_rings (k : RecordNo) (p : Part) : (p.mark k).rings = p.rings := rfl
@[simp] theorem Part.mark_engine (k : RecordNo) (p : Part) : (p.mark k).engine = p.engine := rfl
@[simp] theorem Part.mark_watched (k : RecordNo) (p : Part) : (p.mark k).watched = p.watched := rfl
@[simp] theorem Part.mark_arbiter (k : RecordNo) (p : Part) : (p.mark k).arbiter = p.arbiter := rfl
@[simp] theorem Part.mark_flights (k : RecordNo) (p : Part) : (p.mark k).flights = p.flights := rfl
@[simp] theorem Part.mark_clock (k : RecordNo) (p : Part) : (p.mark k).clock = p.clock := rfl
@[simp] theorem Part.mark_gens (k : RecordNo) (p : Part) : (p.mark k).gens = p.gens := rfl
@[simp] theorem Part.mark_gates (k : RecordNo) (p : Part) : (p.mark k).gates = p.gates := rfl
@[simp] theorem Part.mark_secondTick (k : RecordNo) (p : Part) : (p.mark k).secondTick = p.secondTick := rfl
@[simp] theorem Part.mark_alarm (k : RecordNo) (p : Part) : (p.mark k).alarm = p.alarm := rfl

@[simp] theorem Part.mark_status (k : RecordNo) (p : Part) : (p.mark k).status = p.status.mark k := rfl

@[simp] theorem Status.mark_progress (k : RecordNo) (st : Status) : (st.mark k).progress = st.progress := rfl
@[simp] theorem Status.mark_updates (k : RecordNo) (st : Status) : (st.mark k).updates = st.updates := rfl
@[simp] theorem Status.mark_log (k : RecordNo) (st : Status) : (st.mark k).log = st.log := rfl
@[simp] theorem Status.mark_logQueue (k : RecordNo) (st : Status) : (st.mark k).logQueue = st.logQueue := rfl
@[simp] theorem Status.mark_waiting (k : RecordNo) (st : Status) : (st.mark k).waiting = st.waiting := rfl

/-! ### The machine -/

@[simp] theorem State.modPart_part (f : Part → Part) (s : State) : (s.modPart f).part = f s.part := rfl
@[simp] theorem State.modPart_memory (f : Part → Part) (s : State) : (s.modPart f).memory = s.memory := rfl
@[simp] theorem State.modPart_pending (f : Part → Part) (s : State) : (s.modPart f).pending = s.pending := rfl
@[simp] theorem State.store_part (a : Nat) (l : List Byte) (s : State) : (s.store a l).part = s.part := rfl
@[simp] theorem State.store_memory (a : Nat) (l : List Byte) (s : State) : (s.store a l).memory = s.memory.write a l := rfl
@[simp] theorem State.store_pending (a : Nat) (l : List Byte) (s : State) : (s.store a l).pending = s.pending := rfl
@[simp] theorem State.launch_memory (k : Purpose) (a n : Nat) (s : State) : (s.launch k a n).memory = s.memory := rfl
@[simp] theorem State.launch_pending (k : Purpose) (a n : Nat) (s : State) : (s.launch k a n).pending = s.pending := rfl
@[simp] theorem State.launch_flights (k : Purpose) (a n : Nat) (s : State) :
    (s.launch k a n).part.flights = s.part.flights ++ [{ purpose := k, data := s.memory.read a n }] := rfl

theorem Part.whileRunning_of_running {p : Part} (h : p.running = true) (f : Part → Part) : p.whileRunning f = f p := by
  simp [Part.whileRunning, h]

theorem Part.whileRunning_of_reset {p : Part} (h : p.running = false) (f : Part → Part) : p.whileRunning f = p := by
  simp [Part.whileRunning, h]

/-! ### Watched-word copies -/

/-- The copy that was set reads as it was set (R18). -/
theorem Watched.get_set_self (w : Watched) (k : WatchedWord) (v : Word) : (w.set k v).get k = v := by
  cases k <;> simp [Watched.set, Watched.get]

/-- Setting one copy leaves every other copy alone (R18). -/
theorem Watched.get_set_ne (w : Watched) (k j : WatchedWord) (v : Word) (h : k ≠ j) : (w.set k v).get j = w.get j := by
  have index : ∀ (n m : Slot) (c d : Cls), (n = m → c ≠ d) → (wordIndex n c).val ≠ (wordIndex m d).val := by
    intro n m c d hne e
    have : n.val * 4 + c.val = m.val * 4 + d.val := e
    exact hne (Fin.ext (by omega)) (Fin.ext (by omega))
  have slot : ∀ n m : Slot, n ≠ m → n.val ≠ m.val := fun n m h e => h (Fin.ext e)
  cases k <;> cases j <;> simp [Watched.set, Watched.get] at h ⊢ <;>
    first
    | exact getElem_modify_ne _ _ _ _ _ (index _ _ _ _ h)
    | exact getElem_modify_ne _ _ _ _ _ (slot _ _ h)

end Sys2Proof.Machine
end

