-- ==== Sys2Proof/Laws/Tables.lean ====
section
/-! SUPPORT. Sys2Proof/Laws/Tables.lean: the laws of the tables of like things: equality entry by entry, one entry changed, and
what a fold over all entries keeps. -/
namespace Sys2Proof.Machine

/-- Two tables are equal when their entries are. -/
theorem table_ext {α : Type} {n : Nat} {v w : Vector α n} (h : ∀ i : Fin n, v[i.val] = w[i.val]) : v = w :=
  Vector.ext fun i hi => h ⟨i, hi⟩

/-- A change of one entry that a view does not see is not seen in the table. -/
theorem mapTable_modify {α β : Type} {n : Nat} (g : Fin n → α → β) (v : Vector α n) (i : Fin n) (f : α → α)
    (h : g i (f v[i.val]) = g i v[i.val]) : mapTable g (modify v i f) = mapTable g v := by
  apply table_ext
  intro j
  by_cases e : i = j
  · subst e
    simpa using h
  · simp [getElem_modify_ne v i f j.val j.isLt fun x => e (Fin.ext x)]

/-- A change of every entry that a view does not see is not seen in the table. -/
theorem mapTable_mapTable {α β : Type} {n : Nat} (g : Fin n → α → β) (f : Fin n → α → α) (v : Vector α n)
    (h : ∀ i x, g i (f i x) = g i x) : mapTable g (mapTable f v) = mapTable g v := by
  apply table_ext
  simp [h]

/-- Changing an entry after another of the same number leaves only the later change. -/
theorem modify_const_modify {α : Type} {n : Nat} (v : Vector α n) (i : Fin n) (f : α → α) (x : α) :
    modify (modify v i f) i (fun _ => x) = modify v i fun _ => x := by
  simp [modify]

/-- A view of a table with one entry left out does not see a change of that entry. -/
theorem modify_const_mapTable {α β : Type} {n : Nat} (g : Fin n → α → β) (v : Vector α n) (i : Fin n) (f : α → α) (x : β) :
    modify (mapTable g (modify v i f)) i (fun _ => x) = modify (mapTable g v) i fun _ => x := by
  apply table_ext
  intro j
  by_cases e : i = j
  · subst e
    simp
  · have h := fun x => e (Fin.ext x)
    simp [getElem_modify_ne _ i _ j.val j.isLt h]

theorem foldl_invariant {σ α : Type} (P : σ → Prop) (f : σ → α → σ) (h : ∀ s a, P s → P (f s a)) (l : List α) (s : σ)
    (hs : P s) : P (l.foldl f s) := by
  induction l generalizing s with
  | nil => exact hs
  | cons a l ih => exact ih _ (h s a hs)

/-- What every round of `forEach` keeps, the whole of it keeps. -/
theorem forEach_invariant {σ : Type} (P : σ → Prop) (n : Nat) (f : Fin n → σ → σ) (h : ∀ i s, P s → P (f i s)) (s : σ)
    (hs : P s) : P (forEach n f s) :=
  foldl_invariant P _ (fun s i => h i s) _ s hs

end Sys2Proof.Machine
end

