-- ==== Sys2Proof/Laws/Alarm.lean ====
section
/-! SUPPORT. Sys2Proof/Laws/Alarm.lean: what the shared operations of the alarm unit leave unchanged: everything outside
`Part.besidesAlarms`, and every point but the one they act on. -/
namespace Sys2Proof.Machine

/-- The alarm unit and the status writer besides what a transition changes. -/
def besidesTransition (as : Alarm × Status) : Alarm × Status := (as.1.besidesPoints, as.2.besidesOffers)

theorem Status.besidesOffers_mark (k : RecordNo) (st : Status) : (st.mark k).besidesOffers = st.besidesOffers := rfl

theorem Status.besidesOffers_issue (st : Status) : st.issue.besidesOffers = st.besidesOffers := by
  simp only [Status.issue]
  repeat' split
  all_goals rfl

theorem Status.besidesOffers_offerRecord (st : Status) (r : LogRecord) :
    (st.offerRecord r).besidesOffers = st.besidesOffers := by
  simp only [Status.offerRecord]
  split
  · rw [Status.besidesOffers_issue]
    rfl
  · rfl

theorem Status.besidesOffers_offer (i : Point) (b : Bool) (x : PointPlan) (t : CabinetTime) (st : Status) :
    (st.offer i b x t).besidesOffers = st.besidesOffers := Status.besidesOffers_offerRecord _ _

theorem besidesTransition_transition (x : PointContext) (i : Point) (b : Bool) (as : Alarm × Status) :
    besidesTransition (transition x i b as) = besidesTransition as := by
  refine Prod.ext rfl ?_
  show (if x.plan.mask then as.2.mark 16 else (as.2.mark 16).offer i b x.plan x.time).besidesOffers = as.2.besidesOffers
  split
  · rfl
  · rw [Status.besidesOffers_offer]
    rfl

/-- What a point that acts on its effective condition can do: nothing, a transition, or a move into or out of RISING or
FALLING with the integration start that goes with it (R169, R170). -/
theorem react_cases (x : PointContext) (i : Point) (as : Alarm × Status) :
    react x i as = as ∨ (∃ b, react x i as = transition x i b as)
      ∨ ∃ st start, (start.isSome = true ↔ st = .rising ∨ st = .falling) ∧
        react x i as = ({ as.1 with points := modify as.1.points i fun pt => { pt with state := st, start := start } },
          as.2) := by
  generalize hr : react x i as = z
  unfold react at hr
  dsimp only at hr
  split at hr
  · unfold beginRise at hr
    split at hr <;> subst hr
    · exact .inr (.inl ⟨_, rfl⟩)
    · exact .inr (.inr ⟨_, _, by simp, rfl⟩)
  · exact .inr (.inr ⟨_, _, by simp, hr.symm⟩)
  · unfold beginFall at hr
    split at hr <;> subst hr
    · exact .inr (.inl ⟨_, rfl⟩)
    · exact .inr (.inr ⟨_, _, by simp, rfl⟩)
  · exact .inr (.inr ⟨_, _, by simp, hr.symm⟩)
  · exact .inl hr.symm

theorem besidesTransition_react (x : PointContext) (i : Point) (as : Alarm × Status) :
    besidesTransition (react x i as) = besidesTransition as := by
  rcases react_cases x i as with h | ⟨b, h⟩ | ⟨st, start, -, h⟩ <;> rw [h]
  · exact besidesTransition_transition x i b as
  · rfl

theorem besidesTransition_reportOn (x : PointContext) (i : Point) (raw : Bool) (as : Alarm × Status) :
    besidesTransition (reportOn x i raw as) = besidesTransition as := by
  simp only [reportOn]
  split
  · rfl
  · exact besidesTransition_react _ _ _

theorem besidesTransition_eventOn (x : PointContext) (i : Point) (as : Alarm × Status) :
    besidesTransition (eventOn x i as) = besidesTransition as := besidesTransition_react _ _ _

theorem Part.besidesAlarms_withAlarm (p : Part) (as : Alarm × Status)
    (h : besidesTransition as = besidesTransition (p.alarm, p.status)) :
    (p.withAlarm as).besidesAlarms = p.besidesAlarms := by
  have h1 : as.1.besidesPoints = p.alarm.besidesPoints := congrArg Prod.fst h
  have h2 : as.2.besidesOffers = p.status.besidesOffers := congrArg Prod.snd h
  simp [Part.besidesAlarms, Part.withAlarm, h1, h2]

theorem Part.besidesAlarms_mark (k : RecordNo) (p : Part) : (p.mark k).besidesAlarms = p.besidesAlarms := rfl

/-- An event changes the alarm unit and its log offers alone (R168, R171). -/
theorem Part.besidesAlarms_raiseEvent (i : Point) (p : Part) : (p.raiseEvent i).besidesAlarms = p.besidesAlarms :=
  Part.besidesAlarms_withAlarm _ _ (besidesTransition_eventOn _ _ _)

/-- Reports change the alarm unit and its log offers alone (R165, R171). -/
theorem Part.besidesAlarms_report (l : List Point) (p : Part) : (p.report l).besidesAlarms = p.besidesAlarms := by
  refine Part.besidesAlarms_withAlarm _ _ (foldl_keeps besidesTransition _ (fun as i => ?_) _ _)
  split
  · exact besidesTransition_reportOn _ _ _ _
  · rfl

theorem Part.besidesAlarms_raisePoint (i : Point) (p : Part) : (p.raisePoint i).besidesAlarms = p.besidesAlarms :=
  Part.besidesAlarms_withAlarm _ _ (besidesTransition_transition _ _ _ _)

theorem Part.besidesAlarms_clearPoint (i : Point) (p : Part) : (p.clearPoint i).besidesAlarms = p.besidesAlarms :=
  Part.besidesAlarms_withAlarm _ _ (besidesTransition_transition _ _ _ _)

theorem Part.besidesAlarms_endHold (i : Point) (p : Part) : (p.endHold i).besidesAlarms = p.besidesAlarms :=
  Part.besidesAlarms_withAlarm _ _ (besidesTransition_react _ _ _)

theorem Part.besidesAlarms_setCutoff (b : Bool) (p : Part) : (p.setCutoff b).besidesAlarms = p.besidesAlarms := by
  unfold Part.setCutoff
  split
  · rfl
  · exact Part.besidesAlarms_mark _ _

/-- Integration afresh changes the alarm unit and its log offers alone (R176–R178). -/
theorem Part.besidesAlarms_reintegrate (p : Part) : p.reintegrate.besidesAlarms = p.besidesAlarms := by
  unfold Part.reintegrate
  refine Part.besidesAlarms_withAlarm _ _ (foldl_keeps besidesTransition _ (fun as i => ?_) _ _)
  exact (besidesTransition_react _ i _).trans (Prod.ext rfl rfl)

theorem Part.besidesAlarms_expirePoints (p : Part) : p.expirePoints.besidesAlarms = p.besidesAlarms := by
  unfold Part.expirePoints
  refine forEach_keeps Part.besidesAlarms 89 _ (fun i q => ?_) p
  repeat' split
  · exact Part.besidesAlarms_raisePoint _ _
  · exact Part.besidesAlarms_clearPoint _ _
  · rfl

/-! ### Points -/

theorem transition_point_ne {i j : Point} (h : i ≠ j) (x : PointContext) (b : Bool) (as : Alarm × Status) :
    (transition x i b as).1.points[j.val] = as.1.points[j.val] :=
  getElem_modify_ne _ i _ j.val j.isLt fun e => h (Fin.ext e)

theorem react_point_ne {i j : Point} (h : i ≠ j) (x : PointContext) (as : Alarm × Status) :
    (react x i as).1.points[j.val] = as.1.points[j.val] := by
  rcases react_cases x i as with e | ⟨b, e⟩ | ⟨st, start, -, e⟩ <;> rw [e]
  · exact transition_point_ne h x b as
  · exact getElem_modify_ne _ i _ j.val j.isLt fun e => h (Fin.ext e)

theorem reportOn_point_ne {i j : Point} (h : i ≠ j) (x : PointContext) (raw : Bool) (as : Alarm × Status) :
    (reportOn x i raw as).1.points[j.val] = as.1.points[j.val] := by
  simp only [reportOn]
  split
  · rfl
  · exact (react_point_ne h _ _).trans (getElem_modify_ne _ i _ j.val j.isLt fun e => h (Fin.ext e))

/-- An event of one point leaves every other point alone (R168). -/
theorem Part.raiseEvent_point_ne {i j : Point} (h : i ≠ j) (p : Part) :
    (p.raiseEvent i).alarm.points[j.val] = p.alarm.points[j.val] :=
  (react_point_ne h _ _).trans (getElem_modify_ne _ i _ j.val j.isLt fun e => h (Fin.ext e))

/-- Reports of listed points leave every other point alone (R165). -/
theorem Part.report_point_ne {l : List Point} {j : Point} (h : j ∉ l) (p : Part) :
    (p.report l).alarm.points[j.val] = p.alarm.points[j.val] := by
  have key : ∀ (l : List Point) (as : Alarm × Status), j ∉ l →
      ((l.foldl (fun as i => match p.condition i with
        | some raw => reportOn (p.context i) i raw as
        | none => as) as).1.points[j.val] = as.1.points[j.val]) := by
    intro l
    induction l with
    | nil => exact fun _ _ => rfl
    | cons i l ih =>
      intro as hj
      simp only [List.mem_cons, not_or] at hj
      rw [List.foldl_cons, ih _ hj.2]
      split
      · exact reportOn_point_ne (fun e => hj.1 e.symm) _ _ _
      · rfl
  exact key l _ h

/-- A transition into RAISED or CLEAR of point `i` (R171): what becomes of the point itself. -/
theorem transition_point_self (x : PointContext) (i : Point) (b : Bool) (as : Alarm × Status) :
    (transition x i b as).1.points[i.val] =
      { as.1.points[i.val] with
        state := if b then .raised else .clear
        start := none
        raiseCount := if b then min 255 (as.1.points[i.val].raiseCount + 1) else as.1.points[i.val].raiseCount
        lastChange := some x.time } :=
  getElem_modify_self _ i _

/-- An alarm point record that acts on its effective condition stays sound. -/
theorem react_sound (x : PointContext) (i : Point) (as : Alarm × Status) (h : as.1.points[i.val].sound) :
    ((react x i as).1.points[i.val]).sound := by
  rcases react_cases x i as with e | ⟨b, e⟩ | ⟨st, start, hs, e⟩ <;> rw [e]
  · exact h
  · rw [transition_point_self]
    exact ⟨by cases b <;> simp, by have := h.2; cases b <;> simp <;> omega⟩
  · show (modify as.1.points i _)[i.val].sound
    rw [getElem_modify_self]
    exact ⟨hs, h.2⟩

/-- A point whose condition has been acted on is RISING or RAISED exactly while its effective condition is true (R169,
R170). -/
theorem react_follows (x : PointContext) (i : Point) (as : Alarm × Status) :
    (effective x.plan (react x i as).1.points[i.val].raw = true) ↔
      (react x i as).1.points[i.val].state = .rising ∨ (react x i as).1.points[i.val].state = .raised := by
  have step : ∀ st start b, effective x.plan as.1.points[i.val].raw = b → (b = true ↔ st = .rising ∨ st = .raised) →
      (effective x.plan (modify as.1.points i fun pt => { pt with state := st, start := start })[i.val].raw = true ↔
        (modify as.1.points i fun pt => { pt with state := st, start := start })[i.val].state = .rising ∨
        (modify as.1.points i fun pt => { pt with state := st, start := start })[i.val].state = .raised) := by
    intro st start b hb h
    rw [getElem_modify_self]
    simpa [hb] using h
  have turn : ∀ b, effective x.plan as.1.points[i.val].raw = b →
      (effective x.plan (transition x i b as).1.points[i.val].raw = true ↔
        (transition x i b as).1.points[i.val].state = .rising ∨ (transition x i b as).1.points[i.val].state = .raised) := by
    intro b hb
    rw [transition_point_self]
    cases b <;> simp [hb]
  generalize hr : react x i as = z
  unfold react at hr
  dsimp only at hr
  split at hr
  · rename_i he
    unfold beginRise at hr
    split at hr <;> subst hr
    · exact turn true he
    · exact step .rising _ true he (by simp)
  · rename_i he
    subst hr
    exact step .clear _ false he (by simp)
  · rename_i he
    unfold beginFall at hr
    split at hr <;> subst hr
    · exact turn false he
    · exact step .falling _ false he (by simp)
  · rename_i he
    subst hr
    exact step .raised _ true he (by simp)
  · rename_i h1 h2 h3 h4
    subst hr
    have e1 : ∀ st b, as.1.points[i.val].state = st → effective x.plan as.1.points[i.val].raw = b → _ := fun st b h h' =>
      (⟨h, h'⟩ : as.1.points[i].state = st ∧ effective x.plan as.1.points[i].raw = b)
    rcases hs : as.1.points[i.val].state <;> rcases hb : effective x.plan as.1.points[i.val].raw <;> simp
    · exact h1 (e1 _ _ hs hb).1 (e1 _ _ hs hb).2
    · exact h2 (e1 _ _ hs hb).1 (e1 _ _ hs hb).2
    · exact h3 (e1 _ _ hs hb).1 (e1 _ _ hs hb).2
    · exact h4 (e1 _ _ hs hb).1 (e1 _ _ hs hb).2

end Sys2Proof.Machine
end

