-- ==== Sys2Proof/Laws/Exchange.lean ====
section
/-! SUPPORT. Sys2Proof/Laws/Exchange.lean: what the shared operations of the exchange leave unchanged: each changes nothing
outside `Part.besidesExchange`, and every change it makes to a port is to the exchange counters. -/
namespace Sys2Proof.Machine

theorem Part.besidesExchange_modRing (r : RingNo) (f : Ring → Ring) (p : Part)
    (h : (f p.rings[r.val]).besidesTake r = p.rings[r.val].besidesTake r) :
    (p.modRing r f).besidesExchange = p.besidesExchange := by
  simp only [Part.besidesExchange, Part.modRing]
  rw [mapTable_modify _ _ _ _ h]

theorem Part.besidesExchange_modEngine (f : Engine → Engine) (p : Part)
    (h : (f p.engine).lastSecond = p.engine.lastSecond) : (p.modEngine f).besidesExchange = p.besidesExchange := by
  simp [Part.besidesExchange, Part.modEngine, h]

theorem Part.besidesExchange_modGate (g : GateNo) (f : Gate → Gate) (p : Part)
    (h : ∀ x : Gate, { f x with state := .closed } = { x with state := GateState.closed }) :
    (p.modGate g f).besidesExchange = p.besidesExchange := by
  simp only [Part.besidesExchange, Part.modGate]
  rw [mapTable_modify _ _ _ _ (h _)]

theorem Part.besidesExchange_modCounters (n : Slot) (f : Counters → Counters) (p : Part) :
    (p.modCounters n f).besidesExchange = p.besidesExchange := by
  simp only [Part.besidesExchange, Part.modCounters, Part.modPort]
  rw [mapTable_modify _ _ _ _ rfl]

theorem Part.besidesExchange_discard (why : Discard) (n : Slot) (k : Nat) (p : Part) :
    (p.discard why n k).besidesExchange = p.besidesExchange := by
  simp only [Part.discard]
  rw [Part.besidesExchange_modEngine _ _ rfl, Part.besidesExchange_modCounters]

theorem Part.besidesExchange_writeIndex (r : RingNo) (v : BitVec 16) (p : Part) :
    (p.writeIndex r v).besidesExchange = p.besidesExchange :=
  Part.besidesExchange_modEngine _ _ rfl

theorem Part.besidesExchange_setTake (r : RingNo) (t : Take) (p : Part) :
    (p.setTake r t).besidesExchange = p.besidesExchange := by
  simp only [Part.setTake]
  rw [Part.besidesExchange_modEngine _ _ rfl, Part.besidesExchange_modRing _ _ _ rfl]

theorem Part.besidesExchange_orphanCopy (r : RingNo) (p : Part) :
    (p.orphanCopy r).besidesExchange = p.besidesExchange := Part.besidesExchange_modEngine _ _ rfl

theorem Part.besidesExchange_countBatch (r : RingNo) (p : Part) :
    (p.countBatch r).besidesExchange = p.besidesExchange := Part.besidesExchange_modEngine _ _ rfl

theorem Part.besidesExchange_endBatch (b : Batch) (p : Part) :
    (p.endBatch b).besidesExchange = p.besidesExchange := Part.besidesExchange_modEngine _ _ rfl

theorem Part.besidesExchange_endCopy (p : Part) : p.endCopy.besidesExchange = p.besidesExchange :=
  Part.besidesExchange_modEngine _ _ rfl

/-- The retirement of a frame stays within the exchange (R94). -/
theorem Part.besidesExchange_retire {r : RingNo} (e : isEgress r = true) (k : Nat) (p : Part) :
    (p.retire r k).besidesExchange = p.besidesExchange := by
  simp only [Part.retire]
  rw [Part.besidesExchange_countBatch, Part.besidesExchange_setTake, Part.besidesExchange_orphanCopy,
    Part.besidesExchange_writeIndex, Part.besidesExchange_modRing _ _ _ (by simp [Ring.besidesTake, e])]

/-- An egress ring is the only ring with a head (R89). -/
theorem Part.egress_of_headRecord {p : Part} {r : RingNo} {h : Head} (e : p.headRecord r = some h) :
    isEgress r = true := by
  unfold Part.headRecord at e
  split at e
  · assumption
  · cases e

/-- A head record is the one its ring's take state carries (R89). -/
theorem Part.headRecord_eq_some {p : Part} {r : RingNo} {h : Head} :
    p.headRecord r = some h ↔ isEgress r = true ∧ p.rings[r].take = .head h := by
  unfold Part.headRecord
  split
  · rename_i h1 h2
    have h3 : p.rings[r].take = _ := h2
    rw [h3, h1]
    constructor
    · rintro ⟨⟩
      exact ⟨rfl, rfl⟩
    · rintro ⟨-, ⟨⟩⟩
      rfl
  · rename_i hne
    simp only [reduceCtorEq, false_iff, not_and]
    exact fun h1 h2 => hne h h1 h2

/-- Taking destinations out of a head stays within the exchange (R94, R104). -/
theorem Part.besidesExchange_keepDests {r : RingNo} (e : isEgress r = true) (h : Head) (why : Discard)
    (keep : Slot → Bool) (p : Part) : (p.keepDests r h why keep).besidesExchange = p.besidesExchange := by
  simp only [Part.keepDests]
  split
  · rfl
  · split
    · rw [Part.besidesExchange_retire e, Part.besidesExchange_discard]
    · rw [Part.besidesExchange_modRing _ _ _ rfl, Part.besidesExchange_discard]

/-- Dropping a head stays within the exchange (R99, R100). -/
theorem Part.besidesExchange_dropHead (r : RingNo) (why : Discard) (p : Part) :
    (p.dropHead r why).besidesExchange = p.besidesExchange := by
  simp only [Part.dropHead]
  split
  · rw [Part.besidesExchange_setTake, Part.besidesExchange_orphanCopy, Part.besidesExchange_discard]
  · rfl

theorem Part.besidesExchange_sweepDests (p : Part) : p.sweepDests.besidesExchange = p.besidesExchange := by
  unfold Part.sweepDests
  refine forEach_keeps Part.besidesExchange 96 _ (fun r q => ?_) p
  split
  · rename_i h e
    exact Part.besidesExchange_keepDests (Part.egress_of_headRecord e) _ _ _ _
  · rfl

theorem Part.besidesExchange_reviewHeads (p : Part) : p.reviewHeads.besidesExchange = p.besidesExchange := by
  simp only [Part.besidesExchange, Part.reviewHeads]
  rw [mapTable_mapTable]
  intro r x
  split <;> rfl

/-- A copy start stays within the exchange and the gate it passes (R109, R158). -/
theorem Part.besidesExchange_startCopy (r : RingNo) (h : Head) (d : Slot) (p : Part) :
    (p.startCopy r h d).besidesExchange = p.besidesExchange := by
  simp only [Part.startCopy]
  split
  · split
    · exact Part.besidesExchange_modEngine _ _ rfl
    · rename_i hg _
      refine (Part.besidesExchange_modGate _ _ _ fun x => ?_).trans ?_
      · simp only [Gate.copyStart]
        split <;> rfl
      · exact (Part.besidesExchange_modRing _ _ _ rfl).trans (Part.besidesExchange_modEngine _ _ rfl)
  · exact Part.besidesExchange_modEngine _ _ rfl

theorem Part.besidesExchange_serveHead (r : RingNo) (p : Part) :
    (p.serveHead r).besidesExchange = p.besidesExchange := by
  simp only [Part.serveHead]
  split
  · split
    · exact Part.besidesExchange_startCopy _ _ _ _
    · rfl
  · rfl

theorem Part.besidesExchange_serveBatch (p : Part) : p.serveBatch.besidesExchange = p.besidesExchange := by
  simp only [Part.serveBatch]
  split
  · split
    · exact Part.besidesExchange_endBatch _ _
    · split
      · exact Part.besidesExchange_serveHead _ _
      · rfl
  · rfl

theorem Part.besidesExchange_issueEngine (p : Part) : p.issueEngine.besidesExchange = p.besidesExchange := by
  simp only [Part.issueEngine]
  repeat' split
  all_goals first
    | rfl
    | exact Part.besidesExchange_modEngine _ _ rfl
    | (rw [Part.besidesExchange_modEngine _ _ rfl, Part.besidesExchange_setTake])

@[simp] theorem Engine.orderJoins_lastSecond (stood : Joined) (e : Engine) :
    (e.orderJoins stood).lastSecond = e.lastSecond := rfl

/-- The end of an instant issues an access at most (R110). -/
theorem Part.besidesExchange_closeInstant (p : Part) : p.closeInstant.besidesExchange = p.besidesExchange := by
  unfold Part.closeInstant
  rw [Part.besidesExchange_issueEngine, Part.besidesExchange_modEngine _ _ rfl]

/-- The end of an event marks its instant as going on or ends it (R110). -/
theorem Part.besidesExchange_endInstant (stood : Joined) (p : Part) :
    (p.endInstant stood).besidesExchange = p.besidesExchange := by
  unfold Part.endInstant
  split
  · exact Part.besidesExchange_modEngine _ _ rfl
  · exact Part.besidesExchange_closeInstant p

/-- All that the end of an event does to the exchange: it goes on with the instant marked, while words are being handed over or
another event by which rings may join is due, or it ends the instant (R89, R103, R110). -/
theorem Part.endInstant_cases (stood : Joined) (p : Part) :
    ((p.engine.handing = true ∨ p.joinsDue = true)
        ∧ p.endInstant stood = p.modEngine fun e => { e with before := some stood })
      ∨ (p.engine.handing = false ∧ p.joinsDue = false
        ∧ p.endInstant stood = p.closeInstant) := by
  unfold Part.endInstant
  cases p.engine.handing <;> cases p.joinsDue <;> simp

/-- Observations handed over together stay within the exchange if each of them does (R18, R103). -/
theorem Part.besidesExchange_handingOver {f : Part → Part} (h : ∀ q : Part, (f q).besidesExchange = q.besidesExchange)
    (p : Part) : (p.handingOver f).besidesExchange = p.besidesExchange := by
  unfold Part.handingOver
  rw [Part.besidesExchange_endInstant, Part.besidesExchange_modEngine _ _ rfl, h, Part.besidesExchange_modEngine _ _ rfl]

theorem insertBy_perm {α : Type} (key : α → Nat) (x : α) (l : List α) : (insertBy key x l).Perm (x :: l) := by
  induction l with
  | nil => exact .refl _
  | cons y ys ih =>
    unfold insertBy
    split
    · exact .refl _
    · exact (ih.cons y).trans (.swap x y ys)

theorem foldl_insertBy_perm {α : Type} (key : α → Nat) (l m : List α) :
    (l.foldl (fun acc x => insertBy key x acc) m).Perm (l ++ m) := by
  induction l generalizing m with
  | nil => exact .refl _
  | cons x l ih =>
    exact (ih _).trans (((insertBy_perm key x m).append_left l).trans List.perm_middle)

/-- Ordering the joins of an instant takes nothing out of a list and puts nothing in (R89, R103). -/
theorem joinInOrder_perm {α : Type} (ring : α → RingNo) (stood : List RingNo) (l : List α) :
    (joinInOrder ring stood l).Perm l := by
  refine ((foldl_insertBy_perm _ _ _).append_left _).trans ?_
  rw [List.append_nil]
  exact List.filter_append_perm (fun x => stood.contains (ring x)) l

/-- What the exchange does at the instant of an event stays within it. -/
theorem Part.besidesExchange_settleExchange (old : Engine) (p : Part) :
    (p.settleExchange old).besidesExchange = p.besidesExchange := by
  simp only [Part.settleExchange]
  rw [Part.besidesExchange_endInstant, Part.besidesExchange_reviewHeads, Part.besidesExchange_serveBatch]
  exact (Part.besidesExchange_modEngine _ _ (Engine.orderJoins_lastSecond _ _)).trans (Part.besidesExchange_sweepDests p)

/-- All that the passing of a period does outside the exchange: the time moves on and the marks of the instant are cleared (R123). -/
theorem Part.besidesExchange_passPeriod (p : Part) :
    p.passPeriod.besidesExchange =
      { p.besidesExchange with
        osc := if p.running then p.osc + 1 else p.osc
        secondTick := false
        status := { p.status with offered := 0 }
        control := { p.control with dip := p.control.dip.map (· + 1) } } := by
  have h : ∀ b q : Part, q.besidesExchange = b.besidesExchange →
      Part.besidesExchange { q with
        osc := if q.running then q.osc + 1 else q.osc
        secondTick := false
        status := { q.status with offered := 0 }
        control := { q.control with dip := q.control.dip.map (· + 1) } } =
      { b.besidesExchange with
        osc := if b.running then b.osc + 1 else b.osc
        secondTick := false
        status := { b.status with offered := 0 }
        control := { b.control with dip := b.control.dip.map (· + 1) } } := fun b q e =>
    congrArg (fun x : Part => { x with
        osc := if x.running then x.osc + 1 else x.osc
        secondTick := false
        status := { x.status with offered := 0 }
        control := { x.control with dip := x.control.dip.map (· + 1) } }) e
  refine h p _ ?_
  unfold Part.whileRunning
  split
  · exact Part.besidesExchange_closeInstant p
  · rfl

end Sys2Proof.Machine
end

