-- ==== Sys2Proof/Laws/Memory.lean ====
section
/-! SUPPORT. Sys2Proof/Laws/Memory.lean: the laws of exchange memory: a read after a write, every other byte left alone, and the
canonical form kept. -/
namespace Sys2Proof.Machine

theorem Memory.wfAbove_mono {m : Memory} {lo hi : Nat} (h : lo ≤ hi) (w : Memory.wfAbove hi m = true) :
    Memory.wfAbove lo m = true := by
  cases m with
  | nil => rfl
  | cons c m =>
    simp only [Memory.wfAbove, Bool.and_eq_true, decide_eq_true_eq] at w ⊢
    exact ⟨⟨by omega, w.1.2⟩, w.2⟩

/-- Below every listed address memory reads as unwritten. -/
theorem Memory.get_below {m : Memory} {lo a : Nat} (w : Memory.wfAbove lo m = true) (h : a < lo) :
    m.get a = Config.unwrittenByte := by
  induction m generalizing lo with
  | nil => rfl
  | cons c m ih =>
    simp only [Memory.wfAbove, Bool.and_eq_true, decide_eq_true_eq] at w
    simp only [Memory.get]
    rw [if_neg (by omega)]
    exact ih w.2 (by omega)

/-- A byte that was stored reads as it was stored. -/
theorem Memory.get_put_above {m : Memory} {lo : Nat} (w : Memory.wfAbove lo m = true) (a : Nat) (b : Byte) :
    (m.put a b).get a = b := by
  induction m generalizing lo with
  | nil => by_cases h : b = Config.unwrittenByte <;> simp [Memory.put, Memory.get, h]
  | cons c m ih =>
    obtain ⟨k, d⟩ := c
    simp only [Memory.wfAbove, Bool.and_eq_true, decide_eq_true_eq] at w
    simp only [Memory.put]
    split
    · split
      · rename_i hb
        have tail := Memory.get_below (a := a) w.2 (by omega)
        simp only [Memory.get]
        rw [if_neg (by omega), tail, hb]
      · simp [Memory.get]
    · split
      · rename_i h
        split
        · rename_i hb
          rw [Memory.get_below w.2 (by omega), hb]
        · simp [Memory.get]
      · simp only [Memory.get]
        rw [if_neg (by omega)]
        exact ih w.2

/-- A stored byte leaves every other byte alone, in any memory. -/
theorem Memory.get_put_ne (m : Memory) {a x : Nat} (b : Byte) (h : x ≠ a) : (m.put a b).get x = m.get x := by
  induction m with
  | nil =>
    simp only [Memory.put]
    split
    · rfl
    · simp only [Memory.get]
      rw [if_neg (by omega)]
  | cons c m ih =>
    obtain ⟨k, d⟩ := c
    simp only [Memory.put]
    split
    · split
      · rfl
      · simp only [Memory.get]
        rw [if_neg (by omega : ¬a = x)]
    · split
      · rename_i hk
        split <;> simp only [Memory.get]
        · rw [if_neg (by omega)]
        · rw [if_neg (by omega), if_neg (by omega)]
      · simp only [Memory.get]
        rw [ih]

theorem Memory.wfAbove_put {m : Memory} {lo a : Nat} (w : Memory.wfAbove lo m = true) (h : lo ≤ a) (b : Byte) :
    Memory.wfAbove lo (m.put a b) = true := by
  induction m generalizing lo with
  | nil =>
    simp only [Memory.put]
    split
    · rfl
    · rename_i hb
      simp [Memory.wfAbove, h, hb]
  | cons c m ih =>
    obtain ⟨k, d⟩ := c
    have w' := w
    simp only [Memory.wfAbove, Bool.and_eq_true, decide_eq_true_eq, bne_iff_ne] at w
    simp only [Memory.put]
    split
    · split
      · exact w'
      · rename_i ha hb
        simp only [Memory.wfAbove, Bool.and_eq_true, decide_eq_true_eq, bne_iff_ne]
        exact ⟨⟨h, hb⟩, ⟨by omega, w.1.2⟩, w.2⟩
    · split
      · rename_i hk
        split
        · exact Memory.wfAbove_mono (by omega) w.2
        · rename_i hb
          simp only [Memory.wfAbove, Bool.and_eq_true, decide_eq_true_eq, bne_iff_ne]
          exact ⟨⟨h, hb⟩, hk ▸ w.2⟩
      · simp only [Memory.wfAbove, Bool.and_eq_true, decide_eq_true_eq, bne_iff_ne]
        exact ⟨w.1, ih w.2 (by omega)⟩

/-- A stored byte reads as it was stored. -/
theorem Memory.get_put_self {m : Memory} (w : m.wf = true) (a : Nat) (b : Byte) : (m.put a b).get a = b :=
  Memory.get_put_above w a b

/-- A stored byte keeps the canonical form. -/
theorem Memory.wf_put {m : Memory} (w : m.wf = true) (a : Nat) (b : Byte) : (m.put a b).wf = true :=
  Memory.wfAbove_put w (Nat.zero_le a) b

/-- A write keeps the canonical form. -/
theorem Memory.wf_write {m : Memory} (w : m.wf = true) (a : Nat) (l : List Byte) : (m.write a l).wf = true := by
  induction l generalizing m a with
  | nil => exact w
  | cons b l ih => exact ih (Memory.wf_put w a b) (a + 1)

/-- A write leaves every byte outside the written range alone, in any memory. -/
theorem Memory.get_write_out (m : Memory) (a : Nat) (l : List Byte) (x : Nat) (h : x < a ∨ a + l.length ≤ x) :
    (m.write a l).get x = m.get x := by
  induction l generalizing m a with
  | nil => rfl
  | cons b l ih =>
    simp only [List.length_cons] at h
    rw [Memory.write, ih (m.put a b) (a + 1) (by omega)]
    exact Memory.get_put_ne m b (by omega)

/-- Each byte of the written range reads as it was written. -/
theorem Memory.get_write_in {m : Memory} (w : m.wf = true) (a : Nat) (l : List Byte) (i : Nat) (h : i < l.length) :
    (m.write a l).get (a + i) = l[i] := by
  induction l generalizing m a i with
  | nil => simp at h
  | cons b l ih =>
    cases i with
    | zero =>
      rw [Memory.write, Nat.add_zero, Memory.get_write_out _ _ _ _ (by omega)]
      exact Memory.get_put_self w a b
    | succ i =>
      rw [Memory.write, show a + (i + 1) = a + 1 + i by omega,
        ih (Memory.wf_put w a b) (a + 1) i (by simpa using h)]
      simp

/-- A read gives as many bytes as were asked for (R2). -/
@[simp] theorem Memory.length_read (m : Memory) (a n : Nat) : (m.read a n).length = n := by
  induction n generalizing a with
  | zero => rfl
  | succ n ih => simp [Memory.read, ih]

/-- Byte `i` of a read is the byte at its address (R2). -/
theorem Memory.getElem_read (m : Memory) (a n i : Nat) (h : i < (m.read a n).length) :
    (m.read a n)[i] = m.get (a + i) := by
  induction n generalizing a i with
  | zero => simp [Memory.read] at h
  | succ n ih =>
    cases i with
    | zero => simp [Memory.read]
    | succ i =>
      simp only [Memory.read, List.getElem_cons_succ]
      rw [ih, show a + 1 + i = a + (i + 1) by omega]

/-- The memory right after reset has the canonical form. -/
theorem State.reset_canonical : State.reset.memory.wf = true := rfl

end Sys2Proof.Machine
end

