-- ==== Sys2Proof/WellFormed.lean ====
section
/-! DEFINITION. Sys2Proof/WellFormed.lean: which terms of `Instr` the manual's slot links, pins and timers can produce.
Whether a REQUEST is well formed in the sense of R1 is not decided here: a badly formed request is a command of the part,
which refuses it BOUNDARY. -/
namespace Sys2Proof

/-- The event-type points: RING_FAULT and ACCESS_VIOLATION of each slot, PHASE_STEP, PLAN_REJECTED and MEMORY_ERROR
(R165, R166, R168). -/
def isEventPoint (p : Point) : Bool :=
  if p.val < 72 then p.val % 6 == 4 || p.val % 6 == 5 else p.val == 77 || p.val == 78 || p.val == 79

/-- A WRITE carries 1–64 data bytes (R1), a READ's length is a number of bytes a 32-bit address space can hold, and only an
event-type point has an event hold (R168). -/
def Instr.wellFormed : Instr → Bool
  | .read _ _ _ len => len < 2 ^ 32
  | .write _ _ _ data => 1 ≤ data.length && data.length ≤ 64
  | .eventHoldExpiry p => isEventPoint p
  | _ => true

end Sys2Proof
end

