-- ==== Sys2Proof/Laws/PerInstr.lean ====
section
/-! SUPPORT. Sys2Proof/Laws/PerInstr.lean: the statement made of every command, one lemma for each constructor: no word of any
length spells the command, since no row of the table gives bits. -/
namespace Sys2Proof.Laws

/-- No word of any length spells the command. -/
def NoWord.Statement (i : Instr) : Prop := ∀ nbits w, decodeTableWord nbits w ≠ some i

theorem NoWord.read (slot : Slot) (tag : Tag) (addr : Word) (len : Nat) : NoWord.Statement (.read slot tag addr len) := by
  simp [NoWord.Statement, decodeTableWord]

theorem NoWord.write (slot : Slot) (tag : Tag) (addr : Word) (data : List Byte) : NoWord.Statement (.write slot tag addr data) := by
  simp [NoWord.Statement, decodeTableWord]

theorem NoWord.accessGrant : NoWord.Statement (.accessGrant) := by
  simp [NoWord.Statement, decodeTableWord]

theorem NoWord.apply (value : Word) : NoWord.Statement (.apply value) := by
  simp [NoWord.Statement, decodeTableWord]

theorem NoWord.logConsumer (value : Word) : NoWord.Statement (.logConsumer value) := by
  simp [NoWord.Statement, decodeTableWord]

theorem NoWord.cutoff (value : Word) : NoWord.Statement (.cutoff value) := by
  simp [NoWord.Statement, decodeTableWord]

theorem NoWord.seconds (value : Word) : NoWord.Statement (.seconds value) := by
  simp [NoWord.Statement, decodeTableWord]

theorem NoWord.fence (slot : Slot) : NoWord.Statement (.fence slot) := by
  simp [NoWord.Statement, decodeTableWord]

theorem NoWord.release (slot : Slot) : NoWord.Statement (.release slot) := by
  simp [NoWord.Statement, decodeTableWord]

theorem NoWord.heartbeat (slot : Slot) (value : Word) : NoWord.Statement (.heartbeat slot value) := by
  simp [NoWord.Statement, decodeTableWord]

theorem NoWord.admitWord (slot : Slot) (value : Word) : NoWord.Statement (.admitWord slot value) := by
  simp [NoWord.Statement, decodeTableWord]

theorem NoWord.egressProducer (slot : Slot) (cls : Cls) (value : Word) : NoWord.Statement (.egressProducer slot cls value) := by
  simp [NoWord.Statement, decodeTableWord]

theorem NoWord.ingressConsumer (slot : Slot) (cls : Cls) (value : Word) : NoWord.Statement (.ingressConsumer slot cls value) := by
  simp [NoWord.Statement, decodeTableWord]

theorem NoWord.readCompletion (err : Bool) : NoWord.Statement (.readCompletion err) := by
  simp [NoWord.Statement, decodeTableWord]

theorem NoWord.admissionCheckReadComplete (err : Bool) : NoWord.Statement (.admissionCheckReadComplete err) := by
  simp [NoWord.Statement, decodeTableWord]

theorem NoWord.planReadComplete (err : Bool) : NoWord.Statement (.planReadComplete err) := by
  simp [NoWord.Statement, decodeTableWord]

theorem NoWord.activation : NoWord.Statement (.activation) := by
  simp [NoWord.Statement, decodeTableWord]

theorem NoWord.headerReadComplete (err : Bool) : NoWord.Statement (.headerReadComplete err) := by
  simp [NoWord.Statement, decodeTableWord]

theorem NoWord.serviceChoice : NoWord.Statement (.serviceChoice) := by
  simp [NoWord.Statement, decodeTableWord]

theorem NoWord.copyReadComplete (err : Bool) : NoWord.Statement (.copyReadComplete err) := by
  simp [NoWord.Statement, decodeTableWord]

theorem NoWord.holdExpired (slot : Slot) (cls : Cls) : NoWord.Statement (.holdExpired slot cls) := by
  simp [NoWord.Statement, decodeTableWord]

theorem NoWord.settlement (slot : Slot) : NoWord.Statement (.settlement slot) := by
  simp [NoWord.Statement, decodeTableWord]

theorem NoWord.linkTrained (slot : Slot) : NoWord.Statement (.linkTrained slot) := by
  simp [NoWord.Statement, decodeTableWord]

theorem NoWord.linkLost (slot : Slot) : NoWord.Statement (.linkLost slot) := by
  simp [NoWord.Statement, decodeTableWord]

theorem NoWord.presenceLevelChange (slot : Slot) (present : Bool) : NoWord.Statement (.presenceLevelChange slot present) := by
  simp [NoWord.Statement, decodeTableWord]

theorem NoWord.presenceFound (slot : Slot) : NoWord.Statement (.presenceFound slot) := by
  simp [NoWord.Statement, decodeTableWord]

theorem NoWord.presenceLost (slot : Slot) : NoWord.Statement (.presenceLost slot) := by
  simp [NoWord.Statement, decodeTableWord]

theorem NoWord.pwrgdAsserted (slot : Slot) : NoWord.Statement (.pwrgdAsserted slot) := by
  simp [NoWord.Statement, decodeTableWord]

theorem NoWord.pwrgdDeasserted (slot : Slot) : NoWord.Statement (.pwrgdDeasserted slot) := by
  simp [NoWord.Statement, decodeTableWord]

theorem NoWord.powerGoodLimitExpiry (slot : Slot) : NoWord.Statement (.powerGoodLimitExpiry slot) := by
  simp [NoWord.Statement, decodeTableWord]

theorem NoWord.trainingLimitExpiry (slot : Slot) : NoWord.Statement (.trainingLimitExpiry slot) := by
  simp [NoWord.Statement, decodeTableWord]

theorem NoWord.admitDelayExpiry (slot : Slot) : NoWord.Statement (.admitDelayExpiry slot) := by
  simp [NoWord.Statement, decodeTableWord]

theorem NoWord.removingEnd (slot : Slot) : NoWord.Statement (.removingEnd slot) := by
  simp [NoWord.Statement, decodeTableWord]

theorem NoWord.heartbeatWindowExpiry (slot : Slot) : NoWord.Statement (.heartbeatWindowExpiry slot) := by
  simp [NoWord.Statement, decodeTableWord]

theorem NoWord.referencePulse (ref : RefId) : NoWord.Statement (.referencePulse ref) := by
  simp [NoWord.Statement, decodeTableWord]

theorem NoWord.miss (ref : RefId) : NoWord.Statement (.miss ref) := by
  simp [NoWord.Statement, decodeTableWord]

theorem NoWord.holdoverLimit : NoWord.Statement (.holdoverLimit) := by
  simp [NoWord.Statement, decodeTableWord]

theorem NoWord.secondTurnover : NoWord.Statement (.secondTurnover) := by
  simp [NoWord.Statement, decodeTableWord]

theorem NoWord.tick (kind : TickKind) : NoWord.Statement (.tick kind) := by
  simp [NoWord.Statement, decodeTableWord]

theorem NoWord.gateOpenDelayExpiry (gate : GateNo) : NoWord.Statement (.gateOpenDelayExpiry gate) := by
  simp [NoWord.Statement, decodeTableWord]

theorem NoWord.gateWindowExpiry (gate : GateNo) : NoWord.Statement (.gateWindowExpiry gate) := by
  simp [NoWord.Statement, decodeTableWord]

theorem NoWord.strobeBegin (slot : Slot) : NoWord.Statement (.strobeBegin slot) := by
  simp [NoWord.Statement, decodeTableWord]

theorem NoWord.strobeEnd (slot : Slot) : NoWord.Statement (.strobeEnd slot) := by
  simp [NoWord.Statement, decodeTableWord]

theorem NoWord.envChange (input : Fin 8) (level : Contact) : NoWord.Statement (.envChange input level) := by
  simp [NoWord.Statement, decodeTableWord]

theorem NoWord.raiseTimerExpiry (point : Point) : NoWord.Statement (.raiseTimerExpiry point) := by
  simp [NoWord.Statement, decodeTableWord]

theorem NoWord.clearTimerExpiry (point : Point) : NoWord.Statement (.clearTimerExpiry point) := by
  simp [NoWord.Statement, decodeTableWord]

theorem NoWord.eventHoldExpiry (point : Point) : NoWord.Statement (.eventHoldExpiry point) := by
  simp [NoWord.Statement, decodeTableWord]

theorem NoWord.statusRecordBegin : NoWord.Statement (.statusRecordBegin) := by
  simp [NoWord.Statement, decodeTableWord]

theorem NoWord.powerOnReset : NoWord.Statement (.powerOnReset) := by
  simp [NoWord.Statement, decodeTableWord]

theorem NoWord.supplyFall : NoWord.Statement (.supplyFall) := by
  simp [NoWord.Statement, decodeTableWord]

theorem NoWord.supplyReturn : NoWord.Statement (.supplyReturn) := by
  simp [NoWord.Statement, decodeTableWord]

theorem NoWord.supplyDipReset : NoWord.Statement (.supplyDipReset) := by
  simp [NoWord.Statement, decodeTableWord]

theorem NoWord.resetPinAssert : NoWord.Statement (.resetPinAssert) := by
  simp [NoWord.Statement, decodeTableWord]

theorem NoWord.resetEnd : NoWord.Statement (.resetEnd) := by
  simp [NoWord.Statement, decodeTableWord]

end Sys2Proof.Laws
end

