-- ==== Sys2Proof/Laws/Slot.lean ====
section
/-! SUPPORT. Sys2Proof/Laws/Slot.lean: what the shared operations of a slot port leave unchanged: each changes nothing outside
`Part.besidesSlot` of its slot, and those that admit nothing outside `Part.besidesAdmission`. -/
namespace Sys2Proof.Machine

theorem Part.besidesExchange_besidesAlarms (p : Part) :
    p.besidesExchange.besidesAlarms = p.besidesAlarms.besidesExchange := rfl

/-- What stays within the exchange stays within an event of any slot. -/
theorem Part.besidesSlot_of_exchange (n : Slot) {p q : Part} (h : q.besidesExchange = p.besidesExchange) :
    q.besidesSlot n = p.besidesSlot n := by
  simp only [Part.besidesSlot, h]

/-- What stays within the alarm unit stays within an event of any slot. -/
theorem Part.besidesSlot_of_alarms (n : Slot) {p q : Part} (h : q.besidesAlarms = p.besidesAlarms) :
    q.besidesSlot n = p.besidesSlot n := by
  simp only [Part.besidesSlot, Part.besidesExchange_besidesAlarms, h]

/-- What stays within an event of a slot stays within one that may admit it. -/
theorem Part.besidesAdmission_of_slot (n : Slot) {p q : Part} (h : q.besidesSlot n = p.besidesSlot n) :
    q.besidesAdmission n = p.besidesAdmission n := by
  simp only [Part.besidesAdmission, h]

theorem Part.besidesSlot_modPort (n : Slot) (f : Port → Port) (p : Part) :
    (p.modPort n f).besidesSlot n = p.besidesSlot n := by
  simp only [Part.besidesSlot, Part.besidesExchange, Part.besidesAlarms, Part.modPort]
  rw [modify_const_mapTable]

theorem Part.besidesSlot_mark (n : Slot) (k : RecordNo) (p : Part) : (p.mark k).besidesSlot n = p.besidesSlot n :=
  Part.besidesSlot_of_alarms n (Part.besidesAlarms_mark k p)

theorem Part.besidesSlot_flights (n : Slot) (l : List Flight) (p : Part)
    (h : l.map Flight.besidesMarks = p.flights.map Flight.besidesMarks) :
    Part.besidesSlot n { p with flights := l } = p.besidesSlot n := by
  simp only [Part.besidesSlot, Part.besidesExchange, Part.besidesAlarms, h]

theorem Part.besidesSlot_clock (n : Slot) (k : Clock) (p : Part)
    (h : k.besidesSelection = p.clock.besidesSelection) : Part.besidesSlot n { p with clock := k } = p.besidesSlot n := by
  simp only [Part.besidesSlot, Part.besidesExchange, Part.besidesAlarms, h]

/-- The marks of R11 and R12 are marks (no purpose or data of a read in flight changes). -/
theorem besidesMarks_markFlights (n : Slot) (b : Bool) (l : List Flight) :
    (markFlights n b l).map Flight.besidesMarks = l.map Flight.besidesMarks := by
  simp only [markFlights, List.map_map]
  refine List.map_congr_left fun f _ => ?_
  obtain ⟨purpose, data⟩ := f
  cases purpose with
  | card m t x y =>
    by_cases e : m = n <;> simp [Flight.besidesMarks, e]
  | _ => rfl

@[simp] theorem Port.unqueueReads_state (x : Port) : x.unqueueReads.state = x.state := rfl
@[simp] theorem Port.unqueueReads_link (x : Port) : x.unqueueReads.link = x.link := rfl
@[simp] theorem Port.unqueueReads_tags (x : Port) : x.unqueueReads.tags = x.tags := rfl
@[simp] theorem Port.unqueueReads_queue (x : Port) : x.unqueueReads.queue = writesOnly x.queue := rfl
@[simp] theorem Port.refuseReads_state (x : Port) : x.refuseReads.state = x.state := rfl
@[simp] theorem Port.refuseReads_link (x : Port) : x.refuseReads.link = x.link := rfl
@[simp] theorem Port.refuseReads_tags (x : Port) : x.refuseReads.tags = x.tags := rfl
@[simp] theorem Port.refuseReads_queue (x : Port) : x.refuseReads.queue = writesOnly x.queue := rfl
@[simp] theorem Port.refuseReads_responses (x : Port) : x.refuseReads.responses = x.responses := rfl
@[simp] theorem Port.dropReads_state (x : Port) : x.dropReads.state = x.state := rfl
@[simp] theorem Port.dropReads_link (x : Port) : x.dropReads.link = x.link := rfl
@[simp] theorem Port.dropReads_queue (x : Port) : x.dropReads.queue = writesOnly x.queue := rfl
@[simp] theorem Port.dropReads_unsent (x : Port) : x.dropReads.unsent = [] := rfl
@[simp] theorem Port.dropReads_responses (x : Port) : x.dropReads.responses = x.responses := rfl

/-- What is left of a queue when its READs leave is its WRITEs (R11, R12). -/
theorem isRead_of_mem_writesOnly {l : List Request} {q : Request} (h : q ∈ writesOnly l) : q ∈ l ∧ q.isRead = false := by
  simpa [writesOnly] using h

/-- A READ's tag and the READ's place are one to one: the READs that leave are as many as the places they free (R4). -/
theorem writesOnly_readTags_length (l : List Request) : (writesOnly l).length + (readTags l).length = l.length := by
  induction l with
  | nil => rfl
  | cons q l ih =>
    cases h : q.isRead <;> simp [writesOnly, readTags, h] at ih ⊢ <;> omega

theorem Part.besidesSlot_dropRequests (n : Slot) (p : Part) : (p.dropRequests n).besidesSlot n = p.besidesSlot n := by
  unfold Part.dropRequests
  exact (Part.besidesSlot_modPort n _ _).trans (Part.besidesSlot_flights n _ p (besidesMarks_markFlights n _ _))

theorem Part.besidesSlot_refuseRequests (n : Slot) (p : Part) :
    (p.refuseRequests n).besidesSlot n = p.besidesSlot n := by
  unfold Part.refuseRequests
  exact (Part.besidesSlot_modPort n _ _).trans (Part.besidesSlot_flights n _ p (besidesMarks_markFlights n _ _))

theorem Part.besidesSlot_cancelCheck (n : Slot) (p : Part) : (p.cancelCheck n).besidesSlot n = p.besidesSlot n := by
  unfold Part.cancelCheck
  refine (Part.besidesSlot_modPort n _ _).trans (Part.besidesSlot_flights n _ p ?_)
  rw [List.map_map]
  refine List.map_congr_left fun f _ => ?_
  obtain ⟨purpose, data⟩ := f
  cases purpose with
  | check m x =>
    by_cases e : m = n <;> simp [Flight.besidesMarks, e]
  | _ => rfl

theorem Part.besidesExchange_idleRings (n : Slot) (p : Part) :
    (p.idleRings n).besidesExchange = p.besidesExchange := by
  unfold Part.idleRings
  refine forEach_keeps Part.besidesExchange 4 _ (fun c q => ?_) p
  split
  all_goals first | rfl | exact Part.besidesExchange_setTake _ _ _

/-- A change of state stays within an event of its slot (R54). -/
theorem Part.besidesSlot_setState (n : Slot) (st : SlotState) (p : Part) :
    (p.setState n st).besidesSlot n = p.besidesSlot n := by
  unfold Part.setState
  dsimp only
  split
  · rw [Part.besidesSlot_of_exchange n (Part.besidesExchange_idleRings n _), Part.besidesSlot_modPort,
      Part.besidesSlot_mark, Part.besidesSlot_modPort]
  · rw [Part.besidesSlot_mark, Part.besidesSlot_modPort]

theorem Part.besidesSlot_enterEmpty (n : Slot) (p : Part) : (p.enterEmpty n).besidesSlot n = p.besidesSlot n := by
  unfold Part.enterEmpty
  rw [Part.besidesSlot_modPort, Part.besidesSlot_setState]

theorem Part.besidesSlot_enterTraining (n : Slot) (p : Part) :
    (p.enterTraining n).besidesSlot n = p.besidesSlot n := by
  unfold Part.enterTraining
  rw [Part.besidesSlot_modPort, Part.besidesSlot_setState]

theorem Part.besidesSlot_enterPowering (n : Slot) (p : Part) :
    (p.enterPowering n).besidesSlot n = p.besidesSlot n := by
  unfold Part.enterPowering
  dsimp only
  split
  · rw [Part.besidesSlot_enterTraining, Part.besidesSlot_modPort, Part.besidesSlot_setState]
  · rw [Part.besidesSlot_modPort, Part.besidesSlot_setState]

theorem Part.besidesSlot_enterStandby (n : Slot) (p : Part) :
    (p.enterStandby n).besidesSlot n = p.besidesSlot n := by
  unfold Part.enterStandby
  dsimp only
  split
  · rw [Part.besidesSlot_enterPowering, Part.besidesSlot_modPort, Part.besidesSlot_setState]
  · rw [Part.besidesSlot_modPort, Part.besidesSlot_setState]

/-- Entry to FENCED stays within an event of its slot (R65). -/
theorem Part.besidesSlot_enterFenced (n : Slot) (why : FenceReason) (off : Bool) (p : Part) :
    (p.enterFenced n why off).besidesSlot n = p.besidesSlot n := by
  unfold Part.enterFenced
  dsimp only
  have start : ((p.setState n .fenced).cancelCheck n).besidesSlot n = p.besidesSlot n := by
    rw [Part.besidesSlot_cancelCheck, Part.besidesSlot_setState]
  rw [Part.besidesSlot_modPort]
  repeat' split
  all_goals first
    | rw [Part.besidesSlot_refuseRequests, Part.besidesSlot_modPort, start]
    | rw [Part.besidesSlot_dropRequests, Part.besidesSlot_modPort, start]
    | rw [Part.besidesSlot_refuseRequests, start]
    | rw [Part.besidesSlot_dropRequests, start]

/-- Entry to REMOVING stays within an event of its slot (R70). -/
theorem Part.besidesSlot_enterRemoving (n : Slot) (cycle : Bool) (p : Part) :
    (p.enterRemoving n cycle).besidesSlot n = p.besidesSlot n := by
  unfold Part.enterRemoving
  dsimp only
  rw [Part.besidesSlot_modPort, Part.besidesSlot_dropRequests, Part.besidesSlot_cancelCheck, Part.besidesSlot_setState]

theorem Part.besidesSlot_retrain (n : Slot) (p : Part) : (p.retrain n).besidesSlot n = p.besidesSlot n := by
  unfold Part.retrain
  dsimp only
  split
  · rw [Part.besidesSlot_modPort, Part.besidesSlot_enterTraining, Part.besidesSlot_cancelCheck,
      Part.besidesSlot_dropRequests, Part.besidesSlot_modPort]
  · rw [Part.besidesSlot_enterTraining, Part.besidesSlot_cancelCheck, Part.besidesSlot_dropRequests,
      Part.besidesSlot_modPort]

theorem Part.besidesSlot_powerFault (n : Slot) (why : FenceReason) (p : Part) :
    (p.powerFault n why).besidesSlot n = p.besidesSlot n := by
  unfold Part.powerFault
  split
  · exact Part.besidesSlot_enterRemoving _ _ _
  · exact Part.besidesSlot_enterFenced _ _ _ _

theorem Part.besidesSlot_fenceKeepingPower (n : Slot) (why : FenceReason) (p : Part) :
    (p.fenceKeepingPower n why).besidesSlot n = p.besidesSlot n := by
  unfold Part.fenceKeepingPower
  split
  · rfl
  · exact Part.besidesSlot_enterFenced _ _ _ _

theorem Part.besidesSlot_loseHeartbeat (n : Slot) (why : FenceReason) (p : Part) :
    (p.loseHeartbeat n why).besidesSlot n = p.besidesSlot n := by
  unfold Part.loseHeartbeat
  dsimp only
  split
  · rw [Part.besidesSlot_fenceKeepingPower, Part.besidesSlot_modPort]
  · rw [Part.besidesSlot_modPort]

theorem Part.besidesSlot_violation (n : Slot) (p : Part) : (p.violation n).besidesSlot n = p.besidesSlot n := by
  unfold Part.violation
  dsimp only
  split
  · rw [Part.besidesSlot_fenceKeepingPower, Part.besidesSlot_of_alarms n (Part.besidesAlarms_raiseEvent _ _),
      Part.besidesSlot_modPort]
  · rw [Part.besidesSlot_of_alarms n (Part.besidesAlarms_raiseEvent _ _), Part.besidesSlot_modPort]

theorem Part.besidesSlot_takeRelease (n : Slot) (p : Part) : (p.takeRelease n).besidesSlot n = p.besidesSlot n := by
  unfold Part.takeRelease
  dsimp only
  repeat' split
  · rw [Part.besidesSlot_setState, Part.besidesSlot_modPort]
  · rw [Part.besidesSlot_enterTraining, Part.besidesSlot_modPort]
  · rw [Part.besidesSlot_enterPowering, Part.besidesSlot_modPort]
  · rw [Part.besidesSlot_enterStandby, Part.besidesSlot_modPort]

theorem isEgress_egressRing (n : Slot) (c : Cls) : isEgress (egressRing n c) = true := by
  simp only [isEgress, egressRing, beq_iff_eq]
  omega

theorem isEgress_ingressRing (n : Slot) (c : Cls) : isEgress (ingressRing n c) = false := by
  simp only [isEgress, ingressRing, beq_eq_false_iff_ne]
  omega

@[simp] theorem ringSlot_egressRing (n : Slot) (c : Cls) : ringSlot (egressRing n c) = n := by
  apply Fin.ext
  simp only [ringSlot, egressRing]
  omega

@[simp] theorem ringSlot_ingressRing (n : Slot) (c : Cls) : ringSlot (ingressRing n c) = n := by
  apply Fin.ext
  simp only [ringSlot, ingressRing]
  omega

@[simp] theorem ringClass_egressRing (n : Slot) (c : Cls) : ringClass (egressRing n c) = c := by
  apply Fin.ext
  simp only [ringClass, egressRing]
  omega

@[simp] theorem ringClass_ingressRing (n : Slot) (c : Cls) : ringClass (ingressRing n c) = c := by
  apply Fin.ext
  simp only [ringClass, ingressRing]
  omega

/-- Settlement stays within an event of its slot (R66). -/
theorem Part.besidesSlot_settleSlot (n : Slot) (p : Part) : (p.settleSlot n).besidesSlot n = p.besidesSlot n := by
  unfold Part.settleSlot
  dsimp only
  rw [Part.besidesSlot_modPort]
  refine (forEach_keeps (Part.besidesSlot n) 4 _ (fun c q => ?_) _).trans
    (forEach_keeps (Part.besidesSlot n) 4 _ (fun c q => ?_) p)
  · split
    · refine Part.besidesSlot_of_exchange n ?_
      rw [Part.besidesExchange_writeIndex]
      exact Part.besidesExchange_modRing _ _ _ (by simp [Ring.besidesTake, isEgress_egressRing])
    · rfl
  · exact Part.besidesSlot_of_exchange n (Part.besidesExchange_dropHead _ _ _)

theorem Part.besidesSlot_startHeartbeat (n : Slot) (p : Part) :
    (p.startHeartbeat n).besidesSlot n = p.besidesSlot n := Part.besidesSlot_modPort _ _ _

theorem Part.besidesSlot_armStrobe (n : Slot) (p : Part) : (p.armStrobe n).besidesSlot n = p.besidesSlot n :=
  Part.besidesSlot_modPort _ _ _

theorem Part.besidesSlot_admitWaived (n : Slot) (p : Part) : (p.admitWaived n).besidesSlot n = p.besidesSlot n := by
  unfold Part.admitWaived
  rw [Part.besidesSlot_modPort, Part.besidesSlot_setState]

theorem Part.besidesSlot_presenceIsFound (n : Slot) (p : Part) :
    (p.presenceIsFound n).besidesSlot n = p.besidesSlot n := by
  unfold Part.presenceIsFound
  dsimp only
  repeat' split
  · rw [Part.besidesSlot_enterPowering, Part.besidesSlot_modPort]
  · rw [Part.besidesSlot_enterStandby, Part.besidesSlot_modPort]
  · rw [Part.besidesSlot_modPort]

theorem Part.besidesSlot_presenceIsLost (n : Slot) (p : Part) :
    (p.presenceIsLost n).besidesSlot n = p.besidesSlot n := by
  unfold Part.presenceIsLost
  dsimp only
  split <;> first
    | rw [Part.besidesSlot_enterEmpty, Part.besidesSlot_modPort]
    | rw [Part.besidesSlot_enterRemoving, Part.besidesSlot_modPort]
    | rw [Part.besidesSlot_modPort]

theorem Part.besidesSlot_leaveRemoving (n : Slot) (p : Part) :
    (p.leaveRemoving n).besidesSlot n = p.besidesSlot n := by
  unfold Part.leaveRemoving
  dsimp only
  repeat' split
  · rw [Part.besidesSlot_enterEmpty, Part.besidesSlot_modPort, Part.besidesSlot_settleSlot]
  · rw [Part.besidesSlot_enterPowering, Part.besidesSlot_modPort, Part.besidesSlot_settleSlot]
  · rw [Part.besidesSlot_enterStandby, Part.besidesSlot_modPort, Part.besidesSlot_settleSlot]

/-! ### The clock's part in a slot event (R129, R133) -/

/-- A selection found afresh leaves cabinet time, the trained flag, Facc and the pending SECONDS value alone (R133,
R136). -/
theorem Clock.besidesSelection_select (k : Clock) (plan : ClockPlan) (now : Nat) :
    (k.select plan now).besidesSelection = k.besidesSelection := by
  unfold Clock.select
  dsimp only
  split
  · rfl
  · split
    · rfl
    · split
      · unfold Clock.loseReference
        dsimp only
        split <;> rfl
      · unfold Clock.loseReference
        dsimp only
        split <;> rfl
      all_goals rfl

theorem Part.besidesSlot_reviewReferences (n : Slot) (p : Part) :
    p.reviewReferences.besidesSlot n = p.besidesSlot n := by
  unfold Part.reviewReferences
  dsimp only
  refine Part.besidesSlot_clock n _ p ?_
  rw [Clock.besidesSelection_select]
  repeat' split
  all_goals rfl

/-- What the other blocks do at the instant of a slot event stays within an event of any slot (R65). -/
theorem Part.besidesSlot_settleSlots (n : Slot) (old : Engine) (p : Part) :
    (p.settleSlots old).besidesSlot n = p.besidesSlot n := by
  unfold Part.settleSlots
  rw [Part.besidesSlot_of_alarms n (Part.besidesAlarms_report _ _),
    Part.besidesSlot_of_exchange n (Part.besidesExchange_settleExchange _ _), Part.besidesSlot_reviewReferences]

/-- A slot event leaves alone what its own operation leaves alone (R65). -/
theorem Part.besidesSlot_slotEvent {n : Slot} {f : Part → Part} {p : Part}
    (h : (f p).besidesSlot n = p.besidesSlot n) : (Part.slotEvent f p).besidesSlot n = p.besidesSlot n := by
  unfold Part.slotEvent
  rw [Part.besidesSlot_settleSlots, h]

/-! ### Ring resets and admission (R63, R98, R99) -/

theorem Part.besidesAdmission_modRing {n : Slot} {r : RingNo} (h : ringSlot r = n) (f : Ring → Ring) (p : Part) :
    (p.modRing r f).besidesAdmission n = p.besidesAdmission n := by
  have rings : mapTable (Ring.besidesReset n) (mapTable Ring.besidesTake (modify p.rings r f)) =
      mapTable (Ring.besidesReset n) (mapTable Ring.besidesTake p.rings) := by
    apply table_ext
    intro j
    by_cases e : r = j
    · subst e
      simp [Ring.besidesReset, h]
    · simp [getElem_modify_ne p.rings r f j.val j.isLt fun x => e (Fin.ext x)]
  simp only [Part.besidesAdmission, Part.besidesSlot, Part.besidesExchange, Part.besidesAlarms, Part.modRing]
  rw [rings]

theorem Watched.besidesIndices_set (n : Slot) (c : Cls) (v : Word) (w : Watched) :
    (w.set (.egressProducer n c) v).besidesIndices n = w.besidesIndices n
      ∧ (w.set (.ingressConsumer n c) v).besidesIndices n = w.besidesIndices n := by
  have h : (wordIndex n c).val / 4 = n.val := by
    simp only [wordIndex]
    omega
  constructor <;> simp only [Watched.set, Watched.besidesIndices] <;> rw [mapTable_modify] <;> simp [h]

theorem Part.besidesAdmission_setWatched {n : Slot} {r : RingNo} (h : ringSlot r = n) (v : Word) (p : Part) :
    (p.setWatched (cardOwnedWord r) v).besidesAdmission n = p.besidesAdmission n := by
  have w : (p.watched.set (cardOwnedWord r) v).besidesIndices n = p.watched.besidesIndices n := by
    unfold cardOwnedWord
    rw [h]
    split
    · exact (Watched.besidesIndices_set n _ v _).1
    · exact (Watched.besidesIndices_set n _ v _).2
  simp only [Part.besidesAdmission, Part.besidesSlot, Part.besidesExchange, Part.besidesAlarms, Part.setWatched]
  rw [w]

/-- The reset of a ring of slot `n` stays within an admission of it (R98). -/
theorem Part.besidesAdmission_resetRing {n : Slot} {r : RingNo} (h : ringSlot r = n) (why : Discard) (p : Part) :
    (p.resetRing why r).besidesAdmission n = p.besidesAdmission n := by
  unfold Part.resetRing
  dsimp only
  have ex : ∀ {p q : Part}, q.besidesExchange = p.besidesExchange → q.besidesAdmission n = p.besidesAdmission n :=
    fun h => Part.besidesAdmission_of_slot n (Part.besidesSlot_of_exchange n h)
  rw [ex (Part.besidesExchange_writeIndex _ _ _), Part.besidesAdmission_setWatched h, Part.besidesAdmission_modRing h,
    ex (Part.besidesExchange_setTake _ _ _), ex (Part.besidesExchange_dropHead _ _ _)]

theorem Part.besidesExchange_voidCopy (p : Part) : p.voidCopy.besidesExchange = p.besidesExchange := by
  unfold Part.voidCopy
  dsimp only
  repeat' split
  all_goals rfl

theorem Part.besidesExchange_voidInto (n : Slot) (p : Part) : (p.voidInto n).besidesExchange = p.besidesExchange := by
  unfold Part.voidInto
  split
  · split
    · split
      · rename_i h e
        rw [Part.besidesExchange_keepDests (Part.egress_of_headRecord e), Part.besidesExchange_voidCopy]
      · rfl
    · rfl
  · rfl

theorem Part.besidesExchange_voidFrom (n : Slot) (p : Part) : (p.voidFrom n).besidesExchange = p.besidesExchange := by
  unfold Part.voidFrom
  split
  · split
    · exact Part.besidesExchange_voidCopy _
    · rfl
  · rfl

theorem Part.besidesAdmission_resetSlotRings (n : Slot) (p : Part) :
    (p.resetSlotRings n).besidesAdmission n = p.besidesAdmission n := by
  unfold Part.resetSlotRings
  dsimp only
  refine (forEach_keeps (Part.besidesAdmission n) 8 _ (fun k q => ?_) _).trans ?_
  · split
    · refine Part.besidesAdmission_resetRing (Fin.ext ?_) _ _
      simp only [ringSlot]
      omega
    · rfl
  · refine Part.besidesAdmission_of_slot n (Part.besidesSlot_of_exchange n ?_)
    rw [Part.besidesExchange_voidFrom, Part.besidesExchange_voidInto]

/-- The end of an admit delay stays within an admission of its slot (R63). -/
theorem Part.besidesAdmission_admitSlot (n : Slot) (p : Part) : (p.admitSlot n).besidesAdmission n = p.besidesAdmission n := by
  unfold Part.admitSlot
  dsimp only
  have sl : ∀ {p q : Part}, q.besidesSlot n = p.besidesSlot n → q.besidesAdmission n = p.besidesAdmission n :=
    fun h => Part.besidesAdmission_of_slot n h
  rw [sl (Part.besidesSlot_modPort _ _ _), sl (Part.besidesSlot_armStrobe _ _), sl (Part.besidesSlot_startHeartbeat _ _),
    sl (Part.besidesSlot_setState _ _ _), Part.besidesAdmission_resetSlotRings]

theorem Part.besidesAdmission_enterAdmitting (n : Slot) (p : Part) :
    (p.enterAdmitting n).besidesAdmission n = p.besidesAdmission n := by
  unfold Part.enterAdmitting
  dsimp only
  have sl : ∀ {p q : Part}, q.besidesSlot n = p.besidesSlot n → q.besidesAdmission n = p.besidesAdmission n :=
    fun h => Part.besidesAdmission_of_slot n h
  split
  · rw [Part.besidesAdmission_admitSlot, sl (Part.besidesSlot_modPort _ _ _), sl (Part.besidesSlot_setState _ _ _)]
  · rw [sl (Part.besidesSlot_modPort _ _ _), sl (Part.besidesSlot_setState _ _ _)]

end Sys2Proof.Machine
end

