-- ==== Sys2Proof/Tests/Slice0.lean ====
section
/-! SUPPORT. Sys2Proof/Tests/Slice0.lean: the author's tests. First the smoke test of WellFormed; then the manual's worked
examples, one step or one computation each, with the expected values the manual prints; then, for every statement of
Certificates/Slice0/Obligations.lean that has hypotheses, a state and operands that meet them (`met_<statement>`), at
boundary values of their ranges. -/
namespace Sys2Proof.Tests
open Sys2Proof Sys2Proof.Machine

-- One theorem at a time: these are many small kernel evaluations, and each would otherwise wait in a thread of its own.
set_option Elab.async false

/-! ### WellFormed: each check refuses an ill-formed term -/

theorem test_wf_read_length : Instr.wellFormed (.read 0 0 0 (2 ^ 32)) = false := by decide +kernel
theorem test_wf_read_longest : Instr.wellFormed (.read 0 0 0 (2 ^ 32 - 1)) = true := by decide +kernel
theorem test_wf_write_empty : Instr.wellFormed (.write 0 0 0 []) = false := by decide +kernel
theorem test_wf_write_65 : Instr.wellFormed (.write 0 0 0 (List.replicate 65 0)) = false := by decide +kernel
theorem test_wf_write_64 : Instr.wellFormed (.write 0 0 0 (List.replicate 64 0)) = true := by decide +kernel
theorem test_wf_event_hold : Instr.wellFormed (.eventHoldExpiry 3) = false := by decide +kernel
theorem test_wf_event_hold_ring_fault : Instr.wellFormed (.eventHoldExpiry 4) = true := by decide +kernel

/-! ### Helpers -/

/-- The next state of an outcome. -/
def upshot (o : Host.Outcome State Fault Refusal) : Option State :=
  match o with
  | .next t => some t
  | .fault _ => none
  | .refused _ => none

/-- The state after reset with its part changed. -/
def fresh (f : Part → Part) : State := State.reset.modPart f

/-- Slot `n` holds a powered card with a trained link and is in state `st`. -/
def put (n : Slot) (st : SlotState) (p : Part) : Part :=
  p.modPort n fun x =>
    { x with state := st, presence := true, presentLevel := true, pwrgd := true, link := true, credits := 8 }

/-- Service-clock time `t`, in µs. -/
def at_ (t : Nat) (p : Part) : Part := { p with osc := 125 * t }

/-- A present ring of `count` entries. -/
def ringOf (base count : Nat) : RingPlan := { base := base, count := count, high := 12, low := 4, attention := true }

/-- A plan with class 1 rings for slots 2 and 4, a class 1 ingress ring for slot 9, a class 1 egress ring for slot 1, one window for slot 4, a log of 16
records, a WINDOW gate 2 and a PULSE gate 5, a strobe for slot 9, and reference A. -/
def trial : Plan :=
  { Plan.bootstrap with
    generation := 12
    waiver := false
    slots := tabulate fun n => { SlotPlan.bootstrap n with
      enabled := true
      key := 0x13579BDF
      violationLimit := if n = 4 then 3 else 0
      fenceOnHeartbeat := n == 7
      admitDelay := 100
      expectedKind := if n = 7 then 33 else 0
      minRevision := if n = 7 then 2 else 0
      strobeKind := if n = 9 then some .frame else none
      strobeDelay := 1203
      windows := tabulate fun w =>
        if n = 4 ∧ w = 0 then { base := 0x2000000, size := 0x10000, read := true, write := true }
        else if n = 4 ∧ w = 1 then { base := 0x3000000, size := 0x1000, read := true, write := false }
        else Window.absent }
    rings := tabulate fun r =>
      if r = egressRing 2 1 then ringOf 0x1000000 16
      else if r = ingressRing 4 1 then ringOf 0x1002000 64
      else if r = ingressRing 9 1 then ringOf 0x1004000 64
      else if r = egressRing 4 1 then ringOf 0x1006000 64
      else if r = egressRing 1 1 then ringOf 0x1008000 16
      else if r = ingressRing 2 1 then ringOf 0x100A000 64
      else RingPlan.absent
    classes := tabulate fun _ => { holdLimit := 500, policy := .hold, batchLimit := 1 }
    gates := tabulate fun g =>
      if g = 2 then { source := some .subframe, openDelay := 200, mode := .window, windowLength := 300, traceable := true }
      else if g = 5 then { source := some .half, openDelay := 900, mode := .pulse, windowLength := 1, traceable := false }
      else { source := none, openDelay := 0, mode := .pulse, windowLength := 1, traceable := false }
    clock := { ClockPlan.bootstrap with
      refA := { RefPlan.bootstrap with enabled := true, cableDelay := 150, qualifyCount := 3 } }
    alarm := { AlarmPlan.bootstrap with
      points := tabulate fun i =>
        { severity := if i.val = 84 then .minor else .major, mask := false, force := false,
          raiseTime := if i.val = 84 then 2000 else 0, clearTime := if i.val = 84 then 5000 else 0 }
      polarity := tabulate fun _ => .opened
      logBase := 0x1010000
      logCapacity := 16 } }

/-- The part under the trial plan, with its log. -/
def tried (p : Part) : Part :=
  { p with
    plan := trial
    status := { p.status with log := { p.status.log with base := 0x1010000, capacity := 16 } } }

/-! ### The manual's worked examples -/

/-- Chapter 7, "An update in TRACKING". -/
def tracking (facc : Int) (ns : Nat) : State :=
  fresh fun p => { tried p with
    osc := 125000000
    clock := { p.clock with
      ns := ns, state := .tracking, selected := some .a, trained := true, facc := facc, c := facc
      increment := incrementOf facc
      refA := { state := .qualified, previous := some 0, run := 3, misses := 0, deadline := some 125012500 } } }

theorem test_update_in_tracking :
    (upshot (exec (.referencePulse .a) (tracking 2560 999999700))).map
        (fun t => (t.part.clock.lastError, t.part.clock.facc, t.part.clock.p, t.part.clock.c, t.part.clock.increment))
      = some (-450, 4360, 28800, 33160, 34359742819) := by decide +kernel

theorem test_update_at_the_clamps :
    (upshot (exec (.referencePulse .a) (tracking (-5110000) 5150))).map
        (fun t => (t.part.clock.facc, t.part.clock.p, t.part.clock.c, t.part.clock.increment))
      = some (-5120000, -256000, -5376000, 34359738368 - 721555) := by decide +kernel

/-- Chapter 1, "a sequence of grants": the waiting work, with the arbiter as it stands before a grant. -/
def waiting (a : Arbiter) (writer : Bool) : Part :=
  let q : Request := { tag := 0, addr := 0, body := .read 4 }
  let queued (n : Slot) (p : Part) : Part := p.modPort n fun x => { x with queue := [q] }
  { queued 1 (queued 5 (queued 9 Part.reset)) with
    arbiter := a
    engine := { Engine.reset with waiting := some .copyRead }
    loader := { Loader.reset 0 with readWaiting := true }
    status := { Status.reset with waiting := if writer then some .block else none } }

theorem test_grant_1 : (waiting { lastGroup := .internal, lastSlot := 2 } false).arbitrate = .card 5 := by decide +kernel
theorem test_grant_2 : (waiting { lastGroup := .card, lastSlot := 5 } false).arbitrate = .engine := by decide +kernel
theorem test_grant_4 : (waiting { lastGroup := .card, lastSlot := 9 } true).arbitrate = .writer := by decide +kernel
theorem test_grant_5 : (waiting { lastGroup := .internal, lastSlot := 9 } false).arbitrate = .card 1 := by decide +kernel

/-- Chapter 1, "a partial write after a reset-pin reset". -/
def partialWrite : State :=
  { fresh fun p => (put 0 .admitted p).modPort 0 fun x =>
      { x with queue := [{ tag := 9, addr := 0x1000C, body := .write [0x34, 0x12] }], tags := [9], credits := 7 } with
    memory := [(0x1000F, 0x65)] }

theorem test_partial_write :
    (upshot (exec .accessGrant partialWrite)).map
        (fun t => (t.memory.read 0x1000C 4, t.part.watched.seconds, t.part.clock.pendingSeconds, t.part.ports[0].tags))
      = some ([0x34, 0x12, 0x00, 0x65], 0x1234, some 0x1234, []) := by decide +kernel

/-- Chapter 2, "a slot spends its violation allowance": the request is judged for slot 4. -/
def judged (addr : Word) (body : RequestBody) : Option Reason :=
  arrivalCheck { trial with memorySize := 0x10000000 } ((put 4 .admitted Part.reset).ports[4]) 4
    { tag := 1, addr := addr, body := body }

theorem test_window_own_egress : judged 0x1006080 (.write (List.replicate 64 1)) = none := by decide +kernel
theorem test_window_own_ingress_write : judged 0x1002040 (.write (List.replicate 16 1)) = some .window := by decide +kernel
theorem test_window_other_ring : judged 0x1004000 (.read 32) = some .window := by decide +kernel
theorem test_window_read_right : judged 0x3000100 (.read 32) = none := by decide +kernel
theorem test_window_beyond_memory : judged 0x10000000 (.read 4) = some .window := by decide +kernel
theorem test_owned_word : judged 0x30424 (.write [1]) = some .owned := by decide +kernel
theorem test_boundary : judged 0x2000070 (.write (List.replicate 32 1)) = some .boundary := by decide +kernel

theorem test_violation_limit_fences :
    (upshot (exec (.read 4 1 0x10000000 4)
        (fresh fun p => (put 4 .admitted (tried p)).modPort 4 fun x => { x with violations := 2 }))).map
        (fun t => (t.part.ports[4].state, t.part.ports[4].fenceReason, t.part.ports[4].violations,
          t.part.ports[4].responses))
      = some (.fenced, .violations, 3, [.refusal 1 .window]) := by decide +kernel

/-- Chapter 5, "a ring from post to fault": slot 2 posts, slots 4 and 9 hold class 1 ingress rings, slot 7 none, and slot 5 is
FENCED. The header read of slot 2's ring is in flight with header `bytes`. -/
def posted (bytes : List Byte) (producer consumer : BitVec 16) : State :=
  fresh fun p =>
    let q := put 2 .admitted (put 4 .admitted (put 9 .admitted (put 7 .admitted (put 5 .fenced (tried p)))))
    { q.modRing (egressRing 2 1) fun _ =>
        { producer := producer, consumer := consumer, high := false, take := .reading } with
      flights := [{ purpose := .header (egressRing 2 1), data := bytes }] }

/-- A header: dest, tag, entries, gate, length and sequence (Table 5-3). -/
def header (dest entries : Byte) (length : Nat) : List Byte :=
  [dest, 0x7A, entries, 0xFF] ++ leBytes 2 length ++ [2, 1] ++ zeros 8

theorem test_take_unicast :
    (upshot (exec (.headerReadComplete false) (posted (header 4 3 300) 3 0))).map
        (fun t => ((t.part.headRecord (egressRing 2 1)).map Head.dests, t.part.ports[2].counters.owed))
      = some (some [4], 1) := by decide +kernel
theorem test_take_broadcast :
    (upshot (exec (.headerReadComplete false) (posted (header 255 1 100) 4 3))).map
        (fun t => ((t.part.headRecord (egressRing 2 1)).map Head.dests, t.part.ports[2].counters.owed))
      = some (some [4, 9], 2) := by decide +kernel
theorem test_take_malformed :
    (upshot (exec (.headerReadComplete false) (posted (header 2 1 50) 5 4))).map
        (fun t => (t.part.rings[egressRing 2 1].consumer, t.part.rings[egressRing 2 1].take,
          t.part.ports[2].counters.malformed, t.part.alarm.points[16].state))
      = some (5, .idle, 1, .raised) := by decide +kernel
theorem test_producer_ring_fault :
    (upshot (exec (.egressProducer 2 1 40) (posted [] 4 0))).map
        (fun t => (t.part.rings[egressRing 2 1].producer, t.part.ports[2].ringFaults))
      = some (4, 1) := by decide +kernel
theorem test_producer_posts :
    (upshot (exec (.egressProducer 2 1 16) (posted [] 4 0))).map (fun t => t.part.rings[egressRing 2 1].producer)
      = some 16 := by decide +kernel

/-- Chapter 11, "finding the places of one ring". -/
theorem test_ring_19 : ringSlot 19 = 2 ∧ ringClass 19 = 1 ∧ isEgress 19 = false := by decide +kernel
theorem test_ring_19_consumer_word : watchedAt 0x30214 = some (.ingressConsumer 2 1) := by decide +kernel
theorem test_ring_19_producer_word : partOwnedAddr 19 = 0x30234 := by decide +kernel
theorem test_slot_2_record : slotRecordBase 2 = 0x20200 := by decide +kernel

/-- The copy of that example, whose block 0 has been read. -/
def copying : State :=
  fresh fun p =>
    let h : Head :=
      { header := { dest := 2, tag := 0x7A, entries := 3, gate := 255, length := 300, sequence := 0x102 }
        taken := { seconds := 70001, ns := 12345678, epoch := 3 }
        dests := [2], blockedSince := none, blockReason := .none, gatePassed := false }
    { ((put 1 .admitted (put 2 .admitted (tried p))).modCounters 1 fun c => { c with owed := 1 }).modRing
        (egressRing 1 1) fun _ =>
        { producer := 3, consumer := 0, high := false, take := .head h } with
      engine := { Engine.reset with
        copy := some { ring := egressRing 1 1, dest := 2, destPos := 0, block := 0, void := false,
                       headPresent := true, due := .nothing }
        batch := some { ring := egressRing 1 1, count := 0 } }
      flights := [{ purpose := .copy, data := List.replicate 64 0x55 }] }

theorem test_stamped_header :
    (upshot (exec (.copyReadComplete false) copying)).map (fun t => t.part.engine.waiting) =
      some (some (.copyWrite ([0x02, 0x7A, 0x03, 0xFF, 0x2C, 0x01, 0x02, 0x01, 0x01, 0x03, 0x71, 0x11, 0x4E, 0x61, 0xBC,
        0x00] ++ List.replicate 48 0x55))) := by decide +kernel

/-- Chapter 3: the PROG period's two adjustments count as one clamp. -/
theorem test_prog_7000 : clampProg 7000 = (6250, 1) := by decide +kernel
theorem test_prog_300000 : clampProg 300000 = (250000, 1) := by decide +kernel
theorem test_prog_1000 : clampProg 1000 = (1000, 0) := by decide +kernel

/-- Chapter 4, "supervision of one card". -/
def supervised (expected : Word) (last : Option Word) (start : Nat) : State :=
  fresh fun p => (put 6 .admitted (at_ 2350000 (tried p))).modPort 6 fun x =>
    { x with heartbeat :=
      { supervising := true, expected := expected, lastValid := last, windowStart := start, lost := false } }

theorem test_heartbeat_valid :
    (upshot (exec (.heartbeat 6 0x13579BDF) (supervised 0x13579BDF none 0))).map
        (fun t => (t.part.ports[6].heartbeat.expected, t.part.ports[6].heartbeat.windowStart))
      = some (0xECA86420, 2350000) := by decide +kernel
theorem test_heartbeat_invalid :
    (upshot (exec (.heartbeat 6 1) (supervised 0x13579BDF (some 0xECA86420) 1350000))).map
        (fun t => (t.part.ports[6].heartbeat.lost, t.part.alarm.points[38].state, t.part.ports[6].state))
      = some (true, .raised, .admitted) := by decide +kernel

/-- Chapter 4, "a timing card inserted": the check reads at 413 ms and 431 ms. -/
def checked (kind revision : Byte) : State :=
  fresh fun p => { (put 7 .quarantine (at_ 431000 (tried p))).modPort 7 fun x =>
      { x with check := some { start := 430000, inFlight := true } } with
    flights := [{ purpose := .check 7 true, data := [kind, 0, revision, 0] ++ List.replicate 8 0x31 }] }

theorem test_check_kind :
    (upshot (exec (.admissionCheckReadComplete false) (checked 0 0))).map
        (fun t => (t.part.ports[7].state, t.part.ports[7].admitResult))
      = some (.quarantine, .kind) := by decide +kernel
theorem test_check_passes :
    (upshot (exec (.admissionCheckReadComplete false) (checked 33 3))).map
        (fun t => (t.part.ports[7].state, t.part.ports[7].admitResult, t.part.ports[7].stateTimer,
          t.part.ports[7].identity.map fun x => (x.kind, x.revision)))
      = some (.admitting, .passed, some 431000, some (33, 3)) := by decide +kernel

/-- Chapter 8, "a forward step, a backward step and a SECONDS change": the pulse with e = −3,700,000. -/
def stepping : State :=
  fresh fun p =>
    let q := tried p
    let last (ns : Nat) : TickGen := { last := { seconds := 17, ns := ns, epoch := 4 }, skipped := 0 }
    { q with
      osc := 125000000
      plan := { q.plan with clock := { q.plan.clock with progPeriod := 250 } }
      gens := #v[last 0, last 990000000, last 998000000, last 998500000, last 998500000]
      clock := { p.clock with
        seconds := 17, ns := 998600000, epoch := 4, state := .acquiring, selected := some .a
        refA := { state := .qualified, previous := some 0, run := 3, misses := 0, deadline := some 125012500 } } }

theorem test_forward_step :
    phaseError 996300150 150 = -3700000
      ∧ (Part.stepTicks { stepping.part with clock := stepping.part.clock.step (-3700000) }).gens.toList.map
          (fun g => (g.last.seconds, g.last.ns, g.last.epoch, g.skipped))
        = [(18, 0, 5, 0), (18, 0, 5, 0), (18, 2000000, 5, 3), (18, 2000000, 5, 6), (18, 2250000, 5, 14)] := by decide +kernel

/-- Chapter 8, "a WINDOW gate and a PULSE gate": time 1,200, gate 2's delay expires in ACQUIRING; time 500, its window ends. -/
def gated (state : GateState) (clock : ClockState) (now : Nat) : State :=
  fresh fun p => { at_ now (tried p) with
    clock := { p.clock with state := clock }
    gates := modify p.gates 2 fun g => { g with state := state, delayStart := 1000, windowStart := 200, opens := 1 } }

theorem test_gate_suppressed :
    (upshot (exec (.gateOpenDelayExpiry 2) (gated .armed .acquiring 1200))).map
        (fun t => (t.part.gates[2].state, t.part.gates[2].opens, t.part.gates[2].suppressed))
      = some (.closed, 1, 1) := by decide +kernel
theorem test_gate_window_ends :
    (upshot (exec (.gateWindowExpiry 2) (gated .opened .tracking 500))).map (fun t => t.part.gates[2].state)
      = some .closed := by decide +kernel

/-- Chapter 8, "a strobe across a step and a fence": 1,203 ns are 150 periods. -/
theorem test_strobe_pending :
    (upshot (exec (.tick .frame) (fresh fun p => { (tried p).modPort 9 fun x => { x with strobe :=
        { armed := true, pending := none, driven := none } } with osc := 500, clock := { p.clock with ns := 10000000 } }))).map
        (fun t => t.part.ports[9].strobe.pending)
      = some (some 650) := by decide +kernel

/-- Chapter 9, "a door contact". -/
theorem test_door_opens :
    (upshot (exec (.envChange 3 .opened) (fresh fun p => { at_ 1000000 (tried p) with
        env := Vector.replicate 8 .closed }))).map
        (fun t => (t.part.alarm.points[84].state, t.part.alarm.points[84].start))
      = some (.rising, some 1000000) := by decide +kernel

/-- Point 84 in state `st` with its timer running from `start`, at time `now`. -/
def door (st : PointState) (start now : Nat) : State :=
  fresh fun p => { at_ now (tried p) with
    alarm := { p.alarm with points := modify p.alarm.points 84 fun x =>
      { x with raw := st == .rising, state := st, start := some start } } }

theorem test_door_raised :
    (upshot (exec (.raiseTimerExpiry 84) (door .rising 1000000 3000000))).map
        (fun t => (t.part.alarm.points[84].state, t.part.alarm.points[84].raiseCount, t.part.relay .minor,
          t.part.status.logQueue.map fun r => (r.point.val, r.raised)))
      = some (.raised, 1, true, [(84, true)]) := by decide +kernel
theorem test_door_cleared :
    (upshot (exec (.clearTimerExpiry 84) (door .falling 10000000 15000000))).map
        (fun t => (t.part.alarm.points[84].state, t.part.relay .minor))
      = some (.clear, false) := by decide +kernel

/-- Chapter 10, "a log of sixteen records": the LOG CONSUMER values 20 and 17 at producer 17 and consumer copy 10. -/
def logged : State :=
  fresh fun p =>
    let q := tried p
    { q with status := { q.status with log := { q.status.log with producer := 17, consumer := 10 } } }

theorem test_log_consumer_20 :
    (upshot (exec (.logConsumer 20) logged)).map (fun t => (t.part.status.log.consumer, t.part.watched.logConsumer))
      = some (10, 20) := by decide +kernel
theorem test_log_consumer_17 :
    (upshot (exec (.logConsumer 17) logged)).map (fun t => t.part.status.log.consumer) = some 17 := by decide +kernel

/-- Table 10 and R14: the first thing the part does by itself after reset is to begin the reset record. -/
theorem test_first_idle_step :
    (upshot (step State.reset)).map (fun t => t.part.status.progress.map Progress.record) = some (some 0) := by decide +kernel

/-- The command at the front of the queue runs first, and the rest waits. -/
theorem test_queue :
    (upshot (step { State.reset with pending := [.apply 5, .cutoff 1] })).map
        (fun t => (t.part.loader.phase, t.part.alarm.cutoff, t.pending))
      = some (.reading, false, [.cutoff 1]) := by decide +kernel

/-- Slots 1 and 10 hold class 0 heads broadcast to slots 5 and 3, and slot 0's WRITE fences slots 3, 4 and 5. -/
def fencing : State :=
  fresh fun p =>
    let h (d : Slot) : Take := .head
      { header := { dest := 255, tag := 1, entries := 1, gate := 255, length := 100, sequence := 1 }
        taken := { seconds := 0, ns := 0, epoch := 0 }, dests := [d], blockedSince := none, blockReason := .none
        gatePassed := false }
    let q := put 0 .admitted (put 1 .admitted (put 3 .admitted (put 5 .admitted (put 10 .admitted p))))
    let q := (q.modRing (egressRing 10 0) fun x => { x with producer := 1, take := h 3 }).modRing (egressRing 1 0) fun x =>
      { x with producer := 1, take := h 5 }
    q.modPort 0 fun x => { x with
      queue := [{ tag := 9, addr := 0x1004C, body := .write [1, 0, 0, 0, 0, 0, 0, 0, 1, 0, 0, 0] }], tags := [9], credits := 7 }

/-- R103: what joins the index write queue at one instant joins in ascending ring order, whatever words one WRITE covers. -/
theorem test_joins_of_one_write :
    (upshot (exec .accessGrant fencing)).map (fun t => (t.part.ports[3].state, t.part.ports[5].state,
        t.part.engine.indexQueue.map IndexWrite.ring)) = some (.fenced, .fenced, [egressRing 1 0, egressRing 10 0]) := by
  decide +kernel

/-- R12: a card that is removed is sent none of the responses made for it before. -/
theorem test_removal_drops_responses :
    (upshot (exec (.linkLost 11) (fresh fun p => (put 11 .admitted p).modPort 11 fun x =>
        { x with unsent := [.readData 3 [1]], tags := [3] }))).map
        (fun t => (t.part.ports[11].unsent, t.part.ports[11].responses, t.part.ports[11].tags)) = some ([], [], []) := by
  decide +kernel

/-! ### The hypotheses of the statements are met -/

theorem met_EveryCommandAnswersNext : Instr.resetEnd ≠ .accessGrant := by decide

/-- The part while a power-on reset lasts. -/
def held : State := fresh fun p => { p with control := { p.control with active := some .powerOn, supplyLow := true } }

theorem met_CommandsWait_reset : held.part.running = false := by decide +kernel
theorem met_CommandsWait_due :
    let p := State.reset.part
    p.settlementDue 11 = false ∧ p.presenceDue 11 true = false ∧ p.presenceDue 11 false = false
      ∧ p.powerGoodDue 11 = false ∧ p.trainingDue 11 = false ∧ p.admitDue 11 = false ∧ p.removingDue 11 = false
      ∧ p.heartbeatDue 11 = false ∧ p.activationDue = false ∧ p.choiceDue = false ∧ p.holdDue (egressRing 11 3) = false
      ∧ p.missDue .b = false ∧ p.holdoverDue = false ∧ p.turnoverDue = false ∧ p.tickDue .prog = false
      ∧ p.gateDelayDue 7 = false ∧ p.gateWindowDue 7 = false ∧ p.strobeBeginDue 11 = false ∧ p.strobeEndDue 11 = false
      ∧ p.raiseDue 88 = false ∧ p.clearDue 88 = false ∧ p.eventHoldDue 79 = false ∧ p.dipDue = false
      ∧ held.part.recordDue = true
      ∧ (Part.recordDue { p with status := { p.status with dirty := Vector.replicate 17 false } }) = false := by
  decide +kernel

theorem bootstrap_laidOut : Plan.bootstrap.laidOut := by
  refine ⟨?_, ?_, ?_⟩ <;> unfold Plan.holdsArea Apart <;> decide +kernel
theorem trial_laidOut : trial.laidOut := by
  refine ⟨?_, ?_, ?_⟩ <;> unfold Plan.holdsArea Apart <;> decide +kernel
/-- The trial plan is staged and everything is at rest. -/
def staged : State := fresh fun p => { p with loader := { p.loader with phase := .waiting, staged := some trial } }

/-- A request of tag 1. -/
def ask (addr : Word) (body : RequestBody) : Request := { tag := 1, addr := addr, body := body }

/-- Slot 4 in state `st` under the trial plan, with `credits` and tag table `tags`. -/
def card4 (st : SlotState) (credits : Nat) (tags : List Tag) : State :=
  fresh fun p => (put 4 st (tried p)).modPort 4 fun x => { x with credits := credits, tags := tags }

/-! Invariants, each in a state in which the next step changes what it speaks of -/

/-- `s` with one command waiting. -/
def about (c : Instr) (s : State) : State := { s with pending := [c] }

theorem met_StepKeepsMemoryCanonical :
    State.canonical (about .accessGrant partialWrite) ∧ ∃ t, step (about .accessGrant partialWrite) = .next t :=
  ⟨by unfold State.canonical; decide +kernel, _, rfl⟩
/-- Slot 11 is ADMITTED with a READ queued, another in flight, and a response made and not yet sent. -/
def answering : State :=
  fresh fun p => { ((put 11 .admitted (tried p)).modPort 11 fun x =>
      { x with
        queue := [{ tag := 1, addr := 0x1000, body := .read 4 }], tags := [1, 2, 3], credits := 7
        unsent := [.refusal 3 .memory] }) with
    flights := [{ purpose := .card 11 2 false false, data := zeros 4 }] }

/-- The part's ports but slot 11's have no link, no request, no response and no check. -/
theorem idle_ports (n : Slot) (h : n ≠ 11) :
    let x := answering.part.ports[n]
    x.state = .empty ∧ x.link = false ∧ x.unsent = [] ∧ x.queue = [] ∧ x.tags = [] ∧ x.credits = 0 ∧ x.check = none := by
  revert n
  decide +kernel

theorem met_StepKeepsRequestSideSound :
    Part.portsSound (about (.linkLost 11) answering).part ∧ ∃ t, step (about (.linkLost 11) answering) = .next t := by
  refine ⟨fun n => ?_, _, rfl⟩
  show Port.flowSound answering.part.ports[n] ∧ answering.part.tagsSound n ∧ answering.part.answersSound n
    ∧ answering.part.checkSound n
  have f : answering.part.flights = [{ purpose := .card 11 2 false false, data := zeros 4 }] := by decide +kernel
  by_cases h : n = 11
  · subst h
    refine ⟨by unfold Port.flowSound; decide +kernel, by unfold Part.tagsSound; decide +kernel,
      ⟨by decide +kernel, by decide +kernel, fun e => absurd e (by decide +kernel)⟩,
      by decide +kernel, by decide +kernel⟩
  · obtain ⟨hs, hl, hu, hq, ht, hc, hk⟩ := idle_ports n h
    simp only [Fin.getElem_fin] at hs hl hu hq ht hc hk
    refine ⟨by simp [Port.flowSound, hl, hq, hc], ?_, ?_, ?_⟩
    · simp [Part.tagsSound, Part.openTags, hu, hq, ht, f, Ne.symm h]
    · refine ⟨by simp [hs, SlotState.linked], by simp [hl], fun _ => ⟨hu, by simp [hq], ?_⟩⟩
      intro x hx t a b hp
      rw [f] at hx
      simp at hx
      subst hx
      simp at hp
      exact absurd hp.1.symm h
    · simp [Part.checkSound, hk, f]

theorem met_StepKeepsPlansLaidOut :
    Part.plansLaidOut (about .activation staged).part ∧ ∃ t, step (about .activation staged) = .next t := by
  refine ⟨⟨bootstrap_laidOut, fun plan h => ?_⟩, _, rfl⟩
  injection h with h
  subst h
  exact trial_laidOut
theorem met_StepKeepsServiceToAdmittedSlots :
    Part.serviceSound (about (.fence 6) (supervised 1 none 0)).part
      ∧ ∃ t, step (about (.fence 6) (supervised 1 none 0)) = .next t :=
  ⟨by unfold Part.serviceSound; decide +kernel, _, rfl⟩
theorem met_StepNeverFencesSlotZero :
    Part.zeroUnfenced (about (.linkLost 0) partialWrite).part ∧ ∃ t, step (about (.linkLost 0) partialWrite) = .next t :=
  ⟨by unfold Part.zeroUnfenced; decide +kernel, _, rfl⟩
theorem met_StepKeepsClockSound :
    Clock.sound (about (.referencePulse .a) (tracking 2560 999999700)).part.clock
      ∧ ∃ t, step (about (.referencePulse .a) (tracking 2560 999999700)) = .next t := by
  refine ⟨⟨by decide +kernel, by decide +kernel, ?_, by decide +kernel⟩, _, rfl⟩
  intro r h
  cases r
  · rfl
  · exact absurd h (by decide +kernel)
theorem met_StepKeepsAlarmPointsSound :
    Part.alarmsSound (about (.raiseTimerExpiry 84) (door .rising 1000000 3000000)).part
      ∧ Part.alarmsFollow (about (.raiseTimerExpiry 84) (door .rising 1000000 3000000)).part
      ∧ ∃ t, step (about (.raiseTimerExpiry 84) (door .rising 1000000 3000000)) = .next t :=
  ⟨by unfold Part.alarmsSound AlarmPoint.sound; decide +kernel, by unfold Part.alarmsFollow; decide +kernel, _, rfl⟩
theorem met_StepKeepsConditionsReported :
    Part.alarmsReported (about (.envChange 3 .closed) State.reset).part
      ∧ ∃ t, step (about (.envChange 3 .closed) State.reset) = .next t :=
  ⟨by unfold Part.alarmsReported; decide +kernel, _, rfl⟩

/-- Whether every head of a part satisfies `f`. -/
def everyHead (f : Head → Bool) (p : Part) : Bool :=
  (List.finRange 96).all fun r => match p.headRecord r with
    | some h => f h
    | none => true

/-- Whether every ring of a part with a head satisfies `f` with it. -/
def everyRing (f : RingNo → Head → Bool) (p : Part) : Bool :=
  (List.finRange 96).all fun r => match p.headRecord r with
    | some h => f r h
    | none => true

theorem everyRing_says {f : RingNo → Head → Bool} {p : Part} (e : everyRing f p = true) (r : RingNo) (h : Head)
    (hr : p.headRecord r = some h) : f r h = true := by
  have := List.all_eq_true.mp e r (List.mem_finRange r)
  rw [hr] at this
  exact this

theorem everyHead_says {f : Head → Bool} {p : Part} (e : everyHead f p = true) (r : RingNo) (h : Head)
    (hr : p.headRecord r = some h) : f h = true := by
  have := List.all_eq_true.mp e r (List.mem_finRange r)
  rw [hr] at this
  exact this

theorem met_StepKeepsCopiesAccountedFor :
    Part.exchangeSound (about (.copyReadComplete false) copying).part
      ∧ ∃ t, step (about (.copyReadComplete false) copying) = .next t := by
  refine ⟨⟨by unfold Part.conserved; decide +kernel, by decide +kernel, ?_, ?_, ?_⟩, _, rfl⟩
  · intro r h hr
    have := everyHead_says (f := fun x => decide x.dests.Nodup) (by decide +kernel) r h hr
    simpa using this
  · intro c hc
    injection hc with hc
    subst hc
    exact ⟨rfl, _, rfl, by decide⟩
  · exact ⟨by decide +kernel, by decide +kernel⟩

theorem met_StepKeepsRingsWithinTheirCounts :
    Part.exchangeSound (about (.copyReadComplete false) copying).part
      ∧ Part.ringsSound (about (.copyReadComplete false) copying).part := by
  refine ⟨met_StepKeepsCopiesAccountedFor.1, by decide +kernel, ?_, ?_, by decide +kernel, by decide +kernel, rfl⟩
  · intro r h hr
    have := everyRing_says (f := fun r h => decide (1 ≤ h.header.entries ∧ h.header.entries ≤ copying.part.rings[r].occupancy))
      (by decide +kernel) r h hr
    exact of_decide_eq_true this
  · intro c h hc _ hh
    injection hc with hc
    subst hc
    have e : (copying.part.headRecord (egressRing 1 1)).map (fun h => h.header.entries) = some 3 := by decide +kernel
    have hh' : copying.part.headRecord (egressRing 1 1) = some h := hh
    rw [hh'] at e
    injection e with e
    have e : h.header.entries = 3 := e
    refine ⟨by decide +kernel, ?_⟩
    show h.header.entries ≤ copying.part.freeEntries (ingressRing 2 1)
    rw [e]
    decide +kernel

/-! Requests -/

/-- A card of an ADMITTED slot has a request of one byte judged wherever it lies: in every part of the control region, and in
rings, windows, the log and beyond memory. -/
theorem met_RequestsAreDecidedTestByTest (a : Word) :
    Port.judges (card4 .admitted 8 []).part.ports[(4 : Slot)] (ask a (.write [1]))
      ∧ (card4 .admitted 8 []).part.ports[(4 : Slot)].state = .admitted ∧ trial.laidOut
      ∧ trial.inRing (ingressRing 4 1) 0x1003FFF ∧ trial.inRing (egressRing 4 1) 0x1006000 := by
  refine ⟨⟨by decide +kernel, by decide +kernel, ?_, ?_⟩, by decide +kernel, trial_laidOut, ?_⟩
  · exact (by decide +kernel : (1 : Tag) ∉ (card4 .admitted 8 []).part.ports[(4 : Slot)].tags)
  · simp [Request.formed, ask, Request.inOneBlock, Request.length, Request.last]
  · unfold Plan.inRing; decide +kernel

theorem met_Arriving_no_link : State.reset.part.running = true ∧ State.reset.part.ports[4].link = false := by decide +kernel
theorem met_Arriving_no_credit :
    (card4 .admitted 0 []).part.running = true ∧ (card4 .admitted 0 []).part.ports[4].credits = 0 := by decide +kernel
theorem met_Arriving_accepted :
    let s := card4 .admitted 1 []
    s.part.running = true ∧ s.part.ports[4].link = true ∧ s.part.ports[4].credits ≠ 0
      ∧ arrivalCheck s.part.plan s.part.ports[4] 4 (ask 0x200FFC0 (.read 64)) = none := by decide +kernel
theorem met_Arriving_tag_busy :
    let s := card4 .admitted 8 [1]
    s.part.running = true ∧ s.part.ports[4].link = true ∧ s.part.ports[4].credits ≠ 0
      ∧ arrivalCheck s.part.plan s.part.ports[4] 4 (ask 0x2000000 (.read 4)) = some .tagBusy
      ∧ Reason.isViolation .tagBusy = false := by decide +kernel
theorem met_Arriving_fenced (st : SlotState) (h : st = .fenced ∨ st = .removing) :
    let s := card4 st 8 []
    s.part.running = true ∧ s.part.ports[4].link = true ∧ s.part.ports[4].credits ≠ 0 ∧ s.part.ports[4].state = st
      ∧ arrivalCheck s.part.plan s.part.ports[4] 4 (ask 0x2000000 (.read 4)) = some .fenced
      ∧ Reason.isViolation .fenced = false := by
  rcases h with rfl | rfl <;> decide +kernel
theorem met_Violation :
    let s := fresh fun p => (put 4 .quarantine (tried p)).modPort 4 fun x => { x with violations := 2, credits := 1 }
    s.part.running = true ∧ s.part.ports[4].link = true ∧ s.part.ports[4].credits ≠ 0
      ∧ arrivalCheck s.part.plan s.part.ports[4] 4 (ask 0x2000000 (.read 4)) = some .quarantine
      ∧ Reason.isViolation .quarantine = true
      ∧ s.part.plan.slots[4].violationLimit = min 255 (s.part.ports[4].violations + 1) := by decide +kernel
theorem met_Violation_slot_0 :
    let s := fresh fun p => (put 0 .admitted p).modPort 0 fun x => { x with violations := 255 }
    s.part.running = true ∧ s.part.ports[0].link = true ∧ s.part.ports[0].credits ≠ 0
      ∧ arrivalCheck s.part.plan s.part.ports[0] 0 (ask 0x31040 (.read 4)) = some .control
      ∧ Reason.isViolation .control = true := by decide +kernel
theorem met_RightsBeforeAdmission (st : SlotState) (h : st = .quarantine ∨ st = .admitting ∨ st = .admitted) :
    Port.judges (card4 st 8 []).part.ports[4] (ask 0x3113C (.write [1, 0, 0, 0]))
      ∧ Port.judges (card4 st 8 []).part.ports[4] (ask 0x20340 (.read 64))
      ∧ (card4 st 8 []).part.ports[4].state = st := by
  unfold Port.judges
  rcases h with rfl | rfl | rfl <;> decide +kernel

/-- A WRITE of slot 4 to its ring index block at 30400h: the words below the part-owned eight, those eight, the heartbeat
word and beyond it. -/
theorem met_PartOwnedWordsAreNotWritten (a : Word)
    (h : a = 0x3041F ∨ a = 0x30420 ∨ a = 0x3043F ∨ a = 0x30440 ∨ a = 0x30444) :
    Port.judges (card4 .admitted 8 []).part.ports[(4 : Slot)] (ask a (.write [1]))
      ∧ (card4 .admitted 8 []).part.ports[(4 : Slot)].state = .admitted
      ∧ 0x30400 ≤ (ask a (.write [1])).first ∧ (ask a (.write [1])).first < 0x30500 := by
  unfold Port.judges
  rcases h with rfl | rfl | rfl | rfl | rfl <;> decide +kernel
theorem met_PartOwnedWords_refused :
    let s := card4 .admitted 1 []
    s.part.running = true ∧ s.part.ports[(4 : Slot)].link = true ∧ s.part.ports[(4 : Slot)].credits ≠ 0
      ∧ arrivalCheck s.part.plan s.part.ports[(4 : Slot)] 4 (ask 0x3043F (.write [1])) = some .owned := by decide +kernel
theorem met_LogAreaIsReadBySlotZeroAlone (a : Word) (h : a = 0x1010000 ∨ a = 0x10101FC) :
    trial.laidOut ∧ trial.alarm.logCapacity ≠ 0
      ∧ Port.judges (card4 .admitted 8 []).part.ports[(4 : Slot)] (ask a (.read 4))
      ∧ Port.judges (put 0 .admitted Part.reset).ports[(0 : Slot)] (ask a (.read 4))
      ∧ trial.alarm.logBase ≤ (ask a (.read 4)).last ∧ (ask a (.read 4)).first < trial.alarm.logBase + 32 * 16 := by
  refine ⟨trial_laidOut, ?_⟩
  unfold Port.judges
  rcases h with rfl | rfl <;> decide +kernel

/-- The trial plan with a log of `k` records at address `base`. -/
def trialLog (base k : Nat) : Plan := { trial with alarm := { trial.alarm with logBase := base, logCapacity := k } }

/-- A log of 17 records ends in the middle of a 64-byte block, one at 40020h begins there: READs of whole blocks that lie in it
in part. -/
theorem met_LogArea_in_part :
    (trialLog 0x40000 17).laidOut ∧ (trialLog 0x40020 17).laidOut
      ∧ Port.judges (put 0 .admitted Part.reset).ports[(0 : Slot)] (ask 0x40200 (.read 64))
      ∧ Port.judges (put 0 .admitted Part.reset).ports[(0 : Slot)] (ask 0x40000 (.read 64))
      ∧ 0x40000 ≤ (ask 0x40200 (.read 64)).last ∧ (ask 0x40200 (.read 64)).first < 0x40000 + 32 * 17
      ∧ 0x40020 ≤ (ask 0x40000 (.read 64)).last ∧ (ask 0x40000 (.read 64)).first < 0x40020 + 32 * 17 := by
  refine ⟨?_, ?_, ?_⟩
  · refine ⟨?_, ?_, ?_⟩ <;> unfold Plan.holdsArea Apart <;> decide +kernel
  · refine ⟨?_, ?_, ?_⟩ <;> unfold Plan.holdsArea Apart <;> decide +kernel
  · unfold Port.judges; decide +kernel
theorem test_log_in_part :
    arrivalCheck (trialLog 0x40000 17) (put 0 .admitted Part.reset).ports[0] 0 (ask 0x40200 (.read 64)) = some .window
      ∧ arrivalCheck (trialLog 0x40000 17) (put 0 .admitted Part.reset).ports[0] 0 (ask 0x40200 (.read 32)) = none := by
  decide +kernel
theorem met_AcceptedWriteKeepsToItsControlWords (a : Word)
    (h : a = 0x30400 ∨ a = 0x3041F ∨ a = 0x30440 ∨ a = 0x30443 ∨ a = 0x31100 ∨ a = 0x3113F ∨ a = 0x2000000) :
    arrivalCheck trial (card4 .admitted 8 []).part.ports[(4 : Slot)] 4 (ask a (.write [1])) = none
      ∧ (ask a (.write [1])).covers a.toNat := by
  unfold Request.covers
  rcases h with rfl | rfl | rfl | rfl | rfl | rfl | rfl <;> decide +kernel
theorem met_AcceptedWrite_slot_0 :
    arrivalCheck trial (put 0 .admitted Part.reset).ports[0] 0 (ask 0x100FF (.write [1])) = none := by decide +kernel
theorem met_AcceptedRequestStaysOffOthersRings :
    trial.laidOut
      ∧ arrivalCheck trial (card4 .admitted 8 []).part.ports[4] 4 (ask 0x1006000 (.write [1])) = none
      ∧ (ask 0x1006000 (.write [1])).covers 0x1006000 ∧ trial.inRing (egressRing 4 1) 0x1006000
      ∧ arrivalCheck trial (put 0 .admitted Part.reset).ports[0] 0 (ask 0x10101C0 (.read 64)) = none
      ∧ (ask 0x10101C0 (.read 64)).covers 0x10101FF :=
  ⟨trial_laidOut, by unfold Request.covers Plan.inRing; decide +kernel⟩

/-- An image of generation 5 with nothing in it, in 64 MiB of memory. -/
def image5 : PlanImage := ([5, 0] ++ zeros 62) :: List.replicate 64 (zeros 64)

theorem met_CheckedPlanIsLaidOut : structuralFault image5 5 = none := by decide +kernel

/-- The same image with a log of 15 records, brought to 16, at the end of memory. -/
def image5Log : PlanImage := image5.set 64 ([0, 0, 0, 0] ++ leBytes 4 (0x3FFFE00 / 32) ++ [15, 0] ++ zeros 54)

theorem met_CheckedPlan_log :
    structuralFault image5Log 5 = none ∧ (readPlan image5Log).1.alarm.logCapacity = 16 := by decide +kernel

theorem met_GrantedWrite_merge : (3 : Nat) < 4 ∧ mergeWord 0x11223344 0x100 0x102 [0xAA, 0xBB] = 0xBBAA3344 := by
  decide +kernel

/-! The memory port -/

theorem met_ArbiterAlternatesAndRotates :
    (waiting { lastGroup := .card, lastSlot := 5 } true).internalWaits = true
      ∧ (Part.internalWaits { Part.reset with loader := { Loader.reset 0 with readWaiting := true } }) = true
      ∧ ∀ n : Slot, Part.reset.ports[n].waits = false := by decide +kernel

theorem met_no_check {x : Port} (h : x.check = none) : ∀ k, x.check = some k → k.inFlight = true := by simp [h]

/-- Slot 11 waits with READs of 4 bytes and of 64. -/
def reading : State :=
  fresh fun p => (put 11 .admitted p).modPort 11 fun x =>
    { x with queue := [ask 0x1000 (.read 64), { ask 0x1000 (.read 4) with tag := 31 }], tags := [1, 31], credits := 6 }

theorem met_GrantedReadsAreInFlight_nothing :
    State.reset.part.running = true ∧ State.reset.part.arbitrate = .nothing := by decide +kernel
theorem met_GrantedReadsAreInFlight :
    reading.part.running = true ∧ reading.part.arbitrate = .card 11
      ∧ (∀ k, reading.part.ports[(11 : Slot)].check = some k → k.inFlight = true)
      ∧ reading.part.ports[(11 : Slot)].queue =
          { tag := 1, addr := 0x1000, body := .read 64 } :: [{ ask 0x1000 (.read 4) with tag := 31 }] :=
  ⟨by decide +kernel, by decide +kernel, met_no_check (by decide +kernel), by decide +kernel⟩
theorem met_GrantedWriteIsStoredAndObserved :
    partialWrite.part.running = true ∧ partialWrite.part.arbitrate = .card 0
      ∧ (∀ k, partialWrite.part.ports[(0 : Slot)].check = some k → k.inFlight = true)
      ∧ partialWrite.part.ports[(0 : Slot)].queue = { tag := 9, addr := 0x1000C, body := .write [0x34, 0x12] } :: []
      ∧ partialWrite.canonical :=
  ⟨by decide +kernel, by decide +kernel, met_no_check (by decide +kernel), by decide +kernel,
    by unfold State.canonical; decide +kernel⟩
theorem met_GrantedReadsAreInFlight_check :
    let s := fresh fun p => (put 11 .quarantine p).modPort 11 fun x => { x with check := some { start := 0, inFlight := false } }
    s.part.running = true ∧ s.part.arbitrate = .card 11
      ∧ s.part.ports[11].check = some { start := 0, inFlight := false } := by decide +kernel
theorem met_GrantedReadsAreInFlight_plan :
    let s := fresh fun p => { p with loader := { p.loader with readWaiting := true, phase := .reading, block := 64 } }
    s.part.running = true ∧ s.part.arbitrate = .loader := by decide +kernel

/-- The record of the door's raising. -/
def doorRecord : LogRecord :=
  { sequence := 15, point := 84, raised := true, severity := .minor, forced := false
    time := { seconds := 0, ns := 0, epoch := 0 } }

/-- The status writer with log record 31 places on and the last block of the reset record to write. -/
def writing (w : WriterAccess) : State :=
  fresh fun p =>
    let q := tried p
    { q with status := { q.status with
        log := { q.status.log with producer := 31, consumer := 20 }, waiting := some w
        logQueue := if w = .log then [doorRecord] else []
        progress := some { record := 0, blocks := [zeros 64], next := 0 } } }

theorem met_GrantedStatusWrites_log :
    (writing .log).part.running = true ∧ (writing .log).part.arbitrate = .writer
      ∧ (writing .log).part.status.waiting = some .log ∧ (writing .log).part.status.logQueue = doorRecord :: [] := by
  decide +kernel
theorem met_GrantedStatusWrites_block :
    (writing .block).part.running = true ∧ (writing .block).part.arbitrate = .writer
      ∧ (writing .block).part.status.waiting = some .block
      ∧ (writing .block).part.status.progress = some { record := 0, blocks := [zeros 64], next := 0 } := by decide +kernel

/-- The copy of chapter 11 with access `a` issued and block `b`. -/
def issued (a : EngineAccess) (b : Nat) : State :=
  { copying with part := { copying.part with
      flights := []
      engine := { copying.part.engine with
        waiting := some a
        copy := some { ring := egressRing 1 1, dest := 2, destPos := 0, block := b, void := false,
                       headPresent := true, due := .nothing } } } }

theorem met_GrantedEngineAccesses_index :
    (issued (.index { ring := 95, value := 65535 }) 0).part.running = true
      ∧ (issued (.index { ring := 95, value := 65535 }) 0).part.arbitrate = .engine
      ∧ (issued (.index { ring := 95, value := 65535 }) 0).part.engine.waiting
          = some (.index { ring := 95, value := 65535 }) := by decide +kernel
theorem met_GrantedEngineAccesses_header :
    (issued (.header 33) 0).part.running = true ∧ (issued (.header 33) 0).part.arbitrate = .engine
      ∧ (issued (.header 33) 0).part.engine.waiting = some (.header 33) := by decide +kernel
theorem met_GrantedEngineAccesses_read :
    (issued .copyRead 5).part.running = true ∧ (issued .copyRead 5).part.arbitrate = .engine
      ∧ (issued .copyRead 5).part.engine.waiting = some .copyRead ∧ (issued .copyRead 5).part.engine.copy.isSome = true := by
  decide +kernel
theorem met_GrantedEngineAccesses_write (b : Nat) (h : b = 4 ∨ b = 5) :
    (issued (.copyWrite (zeros 64)) b).part.running = true ∧ (issued (.copyWrite (zeros 64)) b).part.arbitrate = .engine
      ∧ (issued (.copyWrite (zeros 64)) b).part.engine.waiting = some (.copyWrite (zeros 64))
      ∧ ((issued (.copyWrite (zeros 64)) b).part.engine.copy.map fun c => (c.ring, c.void, c.block))
          = some (egressRing 1 1, false, b)
      ∧ ((issued (.copyWrite (zeros 64)) b).part.headRecord (egressRing 1 1)).isSome = true := by
  rcases h with rfl | rfl <;> decide +kernel
/-- A part with no copy in progress and none of its accesses out keeps its copies accounted for if its balance, its take list
and its destination sets do. -/
theorem sound_without_copy {p : Part} (balance : p.conserved)
    (list : (p.engine.takeList.all fun r => p.rings[r].take == .listed) = true)
    (sets : everyHead (fun x => decide x.dests.Nodup) p = true) (copy : p.engine.copy = none) (out : p.copyAccesses = 0) :
    p.exchangeSound := by
  refine ⟨balance, fun r hr => by simpa using List.all_eq_true.mp list r hr, fun r h hr => ?_, fun c hc => ?_, ?_⟩
  · simpa using everyHead_says sets r h hr
  · rw [copy] at hc; cases hc
  · rw [copy]; exact out

theorem met_GrantedProducerWordDelivers_sound : (issued .copyProducer 5).part.exchangeSound := by
  refine ⟨by unfold Part.conserved; decide +kernel, by decide +kernel, ?_, ?_, ?_⟩
  · intro r h hr
    have := everyHead_says (f := fun x => decide x.dests.Nodup) (by decide +kernel) r h hr
    simpa using this
  · intro c hc
    injection hc with hc
    subst hc
    exact ⟨rfl, _, rfl, by decide⟩
  · exact ⟨by decide +kernel, by decide +kernel⟩
theorem met_GrantedProducerWordDelivers :
    (issued .copyProducer 5).part.running = true ∧ (issued .copyProducer 5).part.arbitrate = .engine
      ∧ (issued .copyProducer 5).part.engine.waiting = some .copyProducer
      ∧ (issued .copyProducer 5).part.engine.copy.isSome = true
      ∧ ((issued .copyProducer 5).part.headRecord (egressRing 1 1)).isSome = true := by decide +kernel
theorem met_CardReadCompletionAnswers (st : SlotState) (fenced dropped : Bool) :
    let s := fresh fun p => { put 11 st p with
      flights := [{ purpose := .card 11 1 fenced dropped, data := zeros 64 }] }
    s.part.running = true
      ∧ s.part.flights = { purpose := .card 11 1 fenced dropped, data := zeros 64 } :: [] ∧ s.part.ports[(11 : Slot)].state = st := by
  cases st <;> cases fenced <;> cases dropped <;> decide +kernel

/-- Nothing is due, and slots 3 and 8 have responses to send. -/
def quietly : State :=
  fresh fun p => { (p.modPort 3 fun x => { x with unsent := [.refusal 1 .fenced] }).modPort 8 fun x =>
      { x with unsent := [.readData 31 (zeros 64), .refusal 1 .memory] } with
    status := { p.status with dirty := Vector.replicate 17 false } }

theorem met_CardReadCompletionAnswers_sent : quietly.pending = [] ∧ quietly.part.dueStep = none := by decide +kernel

/-! Commands of the watched words -/

theorem met_ControllerWordsTakeEffect_apply (phase : Phase) :
    let s := fresh fun p => { p with loader := { p.loader with phase := phase } }
    s.part.running = true ∧ s.part.loader.phase = phase := by cases phase <;> decide +kernel
theorem met_ControllerWordsTakeEffect : logged.part.running = true := by decide +kernel
theorem met_SlotCommandsAreTaken_fence_ignored :
    (fresh (put 1 .training)).part.running = true ∧ (fresh (put 1 .training)).part.ports[1].state.linked = false
      ∧ (fresh (put 0 .admitted)).part.running = true := by decide +kernel
theorem met_SlotCommandsAreTaken_fence (st : SlotState) (h : st = .quarantine ∨ st = .admitting ∨ st = .admitted) :
    (fresh (put 11 st)).part.running = true ∧ (fresh (put 11 st)).part.ports[(11 : Slot)].state.linked = true
      ∧ (11 : Slot) ≠ 0 := by
  rcases h with rfl | rfl | rfl <;> decide +kernel

/-- Slot 4 FENCED or in STANDBY. -/
def stopped (st : SlotState) (owed removed enabled : Bool) : State :=
  fresh fun p =>
    let q := (put 4 st (tried p)).modPort 4 fun x => { x with settlementOwed := owed, powerRemoved := removed }
    { q with plan := { q.plan with slots := modify q.plan.slots 4 fun x => { x with enabled := enabled } } }

theorem met_SlotCommandsAreTaken_release_held :
    (stopped .fenced true false true).part.running = true
      ∧ (stopped .fenced true false true).part.ports[(4 : Slot)].state = .fenced
      ∧ (stopped .fenced true false true).part.ports[(4 : Slot)].settlementOwed = true := by decide +kernel
theorem met_SlotCommandsAreTaken_release_ignored :
    (stopped .standby false false false).part.ports[(4 : Slot)].state = .standby
      ∧ (stopped .standby false false false).part.plan.slots[(4 : Slot)].enabled = false
      ∧ (stopped .admitted false false true).part.ports[(4 : Slot)].state ≠ .fenced
      ∧ (stopped .admitted false false true).part.ports[(4 : Slot)].state ≠ .standby := by decide +kernel
theorem met_SlotCommandsAreTaken_release (removed enabled : Bool) :
    (stopped .fenced false removed enabled).part.running = true
      ∧ (stopped .fenced false removed enabled).part.ports[(4 : Slot)].state = .fenced
      ∧ (stopped .fenced false removed enabled).part.ports[(4 : Slot)].settlementOwed = false
      ∧ (stopped .standby false removed true).part.ports[(4 : Slot)].state = .standby
      ∧ (stopped .standby false removed true).part.plan.slots[(4 : Slot)].enabled = true := by
  cases removed <;> cases enabled <;> decide +kernel
theorem met_CardWordsAreJudged_heartbeat_ignored :
    State.reset.part.ports[(6 : Slot)].heartbeat.supervising = false
      ∧ (supervised 0xECA86420 (some 0x13579BDF) 400000).part.ports[(6 : Slot)].heartbeat.lastValid = some 0x13579BDF
      ∧ (supervised 0xECA86420 (some 0x13579BDF) 400000).part.ports[(6 : Slot)].heartbeat.expected ≠ 0x13579BDF := by
  decide +kernel
theorem met_CardWordsAreJudged_heartbeat :
    (supervised 0xECA86420 (some 0x13579BDF) 400000).part.running = true
      ∧ (supervised 0xECA86420 (some 0x13579BDF) 400000).part.ports[(6 : Slot)].heartbeat.supervising = true
      ∧ (supervised 0xECA86420 (some 0x13579BDF) 400000).part.ports[(6 : Slot)].heartbeat.expected = 0xECA86420
      ∧ (supervised 0xECA86420 (some 0x13579BDF) 400000).part.ports[(6 : Slot)].heartbeat.lastValid ≠ some 1 := by
  decide +kernel
theorem met_CardWordsAreJudged_admit :
    (fresh (put 11 .quarantine)).part.running = true ∧ (fresh (put 11 .quarantine)).part.ports[(11 : Slot)].check = none := by
  decide +kernel

/-- Slot 2's class 1 egress ring of 16 entries with producer copy 4 and consumer copy 65535, in take state `take`. -/
def posting (take : Take) : State :=
  fresh fun p => (put 2 .admitted (tried p)).modRing (egressRing 2 1) fun _ =>
    { producer := 4, consumer := 65535, high := false, take := take }

/-- Posted entries of that ring for a producer value. -/
def postedBy (v : Word) (take : Take) : Nat :=
  (((v.setWidth 16 : BitVec 16) - (posting take).part.rings[egressRing 2 1].consumer)).toNat

theorem met_CardIndexWordsAreJudged_producer_absent :
    (posting .idle).part.running = true ∧ (posting .idle).part.plan.rings[egressRing 2 0].count = 0 := by decide +kernel
theorem met_CardIndexWordsAreJudged_producer :
    (posting .idle).part.plan.rings[egressRing 2 1].count = 16 ∧ postedBy 15 .idle = 16
      ∧ postedBy 0 .reading = 1 ∧ postedBy 65535 .waiting = 0 ∧ (posting .idle).part.ports[(2 : Slot)].state = .admitted
      ∧ (posting .idle).part.rings[egressRing 2 1].take = .idle
      ∧ (posting .listed).part.rings[egressRing 2 1].take = .listed := by decide +kernel
theorem met_CardIndexWordsAreJudged_producer_fault :
    postedBy 16 .idle = 17 ∧ postedBy 65535 .reading = 0
      ∧ (posting .reading).part.rings[egressRing 2 1].take = .reading := by decide +kernel

/-- Slot 4's class 1 ingress ring of 64 entries with 13 of them occupied, across the wrap of the indices. -/
def filled : State :=
  fresh fun p => (put 4 .admitted (tried p)).modRing (ingressRing 4 1) fun _ =>
    { producer := 5, consumer := 65528, high := true, take := .idle }

theorem met_CardIndexWordsAreJudged_consumer :
    filled.part.running = true ∧ filled.part.plan.rings[ingressRing 4 0].count = 0
      ∧ filled.part.plan.rings[ingressRing 4 1].count ≠ 0
      ∧ (filled.part.rings[ingressRing 4 1].producer - 65528).toNat = 13
      ∧ (filled.part.rings[ingressRing 4 1].producer - 5).toNat = 0
      ∧ (filled.part.rings[ingressRing 4 1].producer - 65527).toNat = 14
      ∧ (filled.part.rings[ingressRing 4 1].producer - filled.part.rings[ingressRing 4 1].consumer).toNat = 13 := by
  decide +kernel

/-! The plan -/

/-- The loader reads block `block` of an image of generation 5 for an operation of generation `g`. -/
def loading (block : Nat) (g : Option Nat) : State :=
  fresh fun p => { p with
    flights := [{ purpose := .plan, data := zeros 64 }]
    loader := { p.loader with phase := .reading, block := block, generation := g, image := image5.take block } }

theorem met_PlanReadAdvances_next :
    (loading 63 (some 5)).part.running = true ∧ (loading 63 (some 5)).part.loader.block + 1 < 65
      ∧ (loading 63 (some 5)).part.flights = { purpose := .plan, data := zeros 64 } :: [] := by decide +kernel
theorem met_PlanReadAdvances_rejected :
    65 ≤ (loading 64 (some 6)).part.loader.block + 1
      ∧ structuralFault ((loading 64 (some 6)).part.loader.image ++ [zeros 64]) 6 = some (.header, 0)
      ∧ (loading 0 none).part.loader.block = 0 := by decide +kernel
theorem met_PlanReadAdvances_failed : (true = true ∨ 65 ≤ (loading 7 (some 5)).part.loader.block + 1) ∧ (loading 7 (some 5)).part.running = true
    ∧ (loading 7 (some 5)).part.flights = { purpose := .plan, data := zeros 64 } :: [] := by decide +kernel
theorem met_PlanReadAdvances_accepted :
    65 ≤ (loading 64 (some 5)).part.loader.block + 1
      ∧ structuralFault ((loading 64 (some 5)).part.loader.image ++ [zeros 64]) 5 = none := by decide +kernel

/-- R103: an activation is due at this instant, so the rings it resets may still join with what has joined already. -/
theorem test_activation_keeps_the_instant_open :
    (staged.part.endInstant { takes := [], writes := [80] }).engine.before = some { takes := [], writes := [80] } := by
  decide +kernel

theorem met_ActivationReplacesThePlan :
    staged.part.running = true ∧ staged.part.activationDue = true ∧ staged.part.loader.staged = some trial
      ∧ staged.part.plan.rings[egressRing 2 1].count ≠ trial.rings[egressRing 2 1].count
      ∧ staged.part.plan.alarm.logCapacity ≠ trial.alarm.logCapacity := by decide +kernel

/-- No timer of a port runs but heartbeat supervision, and its window is not over. -/
theorem untimed_of {x : Port} {plan : SlotPlan} {now : Nat} (h₁ : x.presenceTimer = none) (h₂ : x.stateTimer = none)
    (h₃ : x.heartbeat.supervising = true → x.heartbeat.lost = false →
      now < x.heartbeat.windowStart + plan.heartbeatPeriod * 1000) : x.untimed plan now := by
  refine ⟨fun t h => ?_, fun t h => ?_, h₃⟩
  · rw [h₁] at h; cases h
  · rw [h₂] at h; cases h

/-- A port that has just entered TRAINING. -/
theorem untimed_training {x : Port} {plan : SlotPlan} {now t : Nat} (h₁ : x.presenceTimer = none) (h₂ : x.stateTimer = some t)
    (h₃ : x.state = .training) (h₄ : now < t + plan.trainingLimit * 1000) (h₅ : x.heartbeat.supervising = false) :
    x.untimed plan now := by
  refine ⟨fun u h => ?_, fun u h => ?_, fun h => ?_⟩
  · rw [h₁] at h; cases h
  · rw [h₂] at h; cases h; exact ⟨by simp [h₃], fun _ => h₄, by simp [h₃]⟩
  · rw [h₅] at h; cases h

/-- The trial plan with slot 3 disabled, slot 6 with a new key, PROG every 250 µs and a log at 1018000h. -/
def revised : Plan :=
  { trial with
    slots := (modify trial.slots 3 fun x => { x with enabled := false }) |> fun v => modify v 6 fun x => { x with key := 7 }
    clock := { trial.clock with progPeriod := 250 }
    alarm := { trial.alarm with logBase := 0x1018000 } }

/-- Under the trial plan, the revised one staged: slot 0 waived, slots 3 and 7 ADMITTED, slot 7's card of another kind, slot 4
in QUARANTINE with a check, slot 6 supervised, slot 8 in STANDBY; READs of slots 3 and 7 and slot 4's check in flight; and a log
record offered at this instant. -/
def revising : State :=
  fresh fun p =>
    let q := put 0 .admitted (put 3 .admitted (put 4 .quarantine (put 6 .admitted (put 7 .admitted (put 8 .standby (tried p))))))
    let q := (q.modPort 0 fun x => { x with waived := true }).modPort 4 fun x =>
      { x with check := some { start := 0, inFlight := true } }
    let q := (q.modPort 6 fun x => { x with heartbeat :=
        { supervising := true, expected := 9, lastValid := none, windowStart := 0, lost := false } }).modPort 7 fun x =>
      { x with identity := some { kind := 1, revision := 5, serial := zeros 8 } }
    { q with
      loader := { p.loader with phase := .waiting, staged := some revised }
      flights := [{ purpose := .card 3 5 false false, data := zeros 4 }, { purpose := .card 7 6 false false, data := zeros 4 },
        { purpose := .check 4 true, data := zeros 12 }]
      status := { q.status with logQueue := [doorRecord], offered := 1, waiting := some .log } }

theorem met_ActivationReplacesThePlan_slots :
    revising.part.running = true ∧ revising.part.activationDue = true ∧ revising.part.loader.staged = some revised
      ∧ (∀ n : Slot, Port.untimed
          (Port.replanned revising.part.ports[n] n revising.part.plan.slots[n] revised.slots[n] revising.part.now)
          revised.slots[n] revising.part.now)
      ∧ ((List.finRange 12).map fun n => (Port.replanned revising.part.ports[n] n revising.part.plan.slots[n]
            revised.slots[n] revising.part.now).state)
          = [.admitted, .empty, .empty, .removing, .quarantine, .empty, .admitted, .fenced, .training, .empty, .empty, .empty] := by
  refine ⟨by decide +kernel, by decide +kernel, by decide +kernel, fun n => ?_, by decide +kernel⟩
  by_cases h : n = 8
  · subst h
    have e :
        let x := Port.replanned revising.part.ports[(8 : Slot)] 8 revising.part.plan.slots[(8 : Slot)]
          revised.slots[(8 : Slot)] revising.part.now
        x.presenceTimer = none ∧ x.stateTimer = some 0 ∧ x.state = .training
          ∧ revising.part.now < 0 + revised.slots[(8 : Slot)].trainingLimit * 1000
          ∧ x.heartbeat.supervising = false := by decide +kernel
    exact untimed_training e.1 e.2.1 e.2.2.1 e.2.2.2.1 e.2.2.2.2
  · have e : ∀ n : Slot, n ≠ 8 →
        let x := Port.replanned revising.part.ports[n] n revising.part.plan.slots[n] revised.slots[n] revising.part.now
        x.presenceTimer = none ∧ x.stateTimer = none
          ∧ (x.heartbeat.supervising = true → x.heartbeat.lost = false →
              revising.part.now < x.heartbeat.windowStart + revised.slots[n].heartbeatPeriod * 1000) := by decide +kernel
    exact untimed_of (e n h).1 (e n h).2.1 (e n h).2.2
theorem met_ActivationReplacesThePlan_clauses :
    revising.part.plan.alarm.logBase ≠ revised.alarm.logBase ∧ revising.part.status.logQueue = doorRecord :: []
      ∧ revised.alarm.logCapacity ≠ 0 ∧ revising.part.plan.clock.progPeriod ≠ revised.clock.progPeriod
      ∧ revising.part.ports[(4 : Slot)].check.isSome = true ∧ revising.part.ports[(0 : Slot)].waived = true
      ∧ revising.part.plan.slots[(6 : Slot)].key ≠ revised.slots[(6 : Slot)].key := by decide +kernel

/-- R188: at an activation to another log ring the record offered at that instant is offered to the new one. -/
theorem test_activation_offers_again :
    let st := revising.part.status.takeLog trial.alarm revised.alarm
    (st.log.base, st.logQueue.map LogRecord.sequence, st.log.nextSequence, st.waiting) = (0x1018000, [0], 1, some .log) := by
  decide +kernel

/-- R177: at an activation the event holds that end with the SECOND tick of that instant end under the old event hold, and the
tick is over. -/
theorem test_activation_ends_the_second_tick :
    let p := Part.endSecondTick (fresh fun p => { at_ 10000000 p with
      secondTick := true
      alarm := { p.alarm with points := modify p.alarm.points 79 fun x => { x with raw := true, lastEvent := some 0 } } }).part
    (p.secondTick, p.alarm.points[79].raw) = (false, false) := by decide +kernel

/-- The image of generation 5 with byte `k` of block `b` set to `v`. -/
def image5With (b : Nat) (bytes : List Byte) : PlanImage := image5.set b bytes

/-- A ring of 16 entries at 40000h for ring 0, and another over it for ring 1. -/
def twoRings : List Byte := leBytes 4 0x800 ++ [16, 0] ++ zeros 10 ++ leBytes 4 0x80F ++ [16, 0] ++ zeros 42

/-- Each structural check has images that it alone fails, and the range checks act at both ends of a range. -/
theorem met_PlanImageIsCheckedAndClamped :
    structuralFault image5 6 = some (.header, 0)
      ∧ structuralFault (image5With 0 ([5, 0, 5] ++ zeros 61)) 5 = some (.header, 1)
      ∧ structuralFault (image5With 25 twoRings) 5 = some (.ring, 1)
      ∧ structuralFault (image5With 24 (zeros 16 ++ leBytes 4 0x3F ++ leBytes 4 1 ++ zeros 40)) 5 = some (.slot, 69)
      ∧ structuralFault (image5With 51 ([1, 12] ++ zeros 62)) 5 = some (.clock, 0)
      ∧ structuralFault (image5With 51 ([1, 11] ++ zeros 7 ++ [254] ++ zeros 54)) 5 = some (.clock, 1)
      ∧ structuralFault (image5With 64 ([0, 0, 0, 0] ++ leBytes 4 (0x3FFFE20 / 32) ++ [15, 0] ++ zeros 54)) 5
          = some (.alarm, 0)
      ∧ structuralFault image5 5 = none := by decide +kernel
theorem test_heartbeat_period_clamps :
    ((readPlan (image5With 1 (zeros 12 ++ [9, 0] ++ zeros 50))).1.slots[0].heartbeatPeriod,
      (readPlan (image5With 1 (zeros 12 ++ leBytes 2 10001 ++ zeros 50))).1.slots[0].heartbeatPeriod) = (10, 10000) := by
  decide +kernel

/-! Rings and the engine -/

/-- The headers of the clauses: complete and incomplete, malformed, broadcast, and to a slot without the ring. -/
theorem met_HeaderReadIsActedOn (x : List Byte × BitVec 16)
    (h : x = (header 4 3 300, 3) ∨ x = (header 4 3 300, 2) ∨ x = (header 2 1 50, 5) ∨ x = (header 255 1 112, 1)
      ∨ x = (header 5 1 50, 1)) :
    (posted x.1 x.2 0).part.running = true ∧ (posted x.1 x.2 0).part.exchangeSound ∧ isEgress (egressRing 2 1) = true
      ∧ (posted x.1 x.2 0).part.flights = { purpose := .header (egressRing 2 1), data := x.1 } :: []
      ∧ (posted x.1 x.2 0).part.rings[egressRing 2 1].take = .reading := by
  refine ⟨rfl, ?_, rfl, rfl, rfl⟩
  rcases h with rfl | rfl | rfl | rfl | rfl <;>
    exact sound_without_copy (by unfold Part.conserved; decide +kernel) (by decide +kernel) (by decide +kernel) rfl
      (by decide +kernel)
theorem met_HeaderReadIsActedOn_occupancy :
    (readHeader (header 4 3 300)).entries = 3 ∧ (readHeader (header 255 1 112)).entries = 1
      ∧ ((3 : BitVec 16) - 0).toNat = 3 ∧ ((2 : BitVec 16) - 0).toNat = 2 := by decide +kernel
theorem met_HeaderReadIsActedOn_nobody :
    (readHeader (header 5 1 50)).dest = 5 ∧ trial.rings[ingressRing 5 1].count < 1
      ∧ ((List.finRange 12).filter fun d : Slot => d.val == 5) = [5] := by decide +kernel

/-- A header read of ring 0 is in flight, and the ring's take state has become `take`. -/
def overtaken (take : Take) : State :=
  fresh fun p => { p.setTake 0 take with flights := [{ purpose := .header 0, data := zeros 16 }] }

theorem met_HeaderReadIsActedOn_not_reading (take : Take) (h : take = .idle ∨ take = .waiting ∨ take = .listed) :
    (overtaken take).part.running = true ∧ (overtaken take).part.exchangeSound
      ∧ (overtaken take).part.flights = { purpose := .header 0, data := zeros 16 } :: []
      ∧ (overtaken take).part.rings[(0 : RingNo)].take = take := by
  rcases h with rfl | rfl | rfl <;>
    exact ⟨rfl, sound_without_copy (by unfold Part.conserved; decide +kernel) (by decide +kernel) (by decide +kernel) rfl
      (by decide +kernel), rfl, by decide +kernel⟩

/-- Slot 1's frame to slot `d` at the head of its class 1 ring, blocked since 0, at time `now`. -/
def ready (d : Slot) (now : Nat) : State :=
  fresh fun p =>
    let h : Head :=
      { header := { dest := d.val, tag := 1, entries := 1, gate := 255, length := 100, sequence := 1 }
        taken := { seconds := 0, ns := 0, epoch := 0 }, dests := [d], blockedSince := some 0, blockReason := .space
        gatePassed := false }
    (put 1 .admitted (put 4 .admitted (at_ now (tried p)))).modRing (egressRing 1 1) fun _ =>
      { producer := 1, consumer := 0, high := false, take := .head h }

theorem met_HeaderReadIsActedOn_head_kept :
    let s : State := (ready 4 0).modPart fun p => { p.modCounters 1 (fun c => { c with owed := 1 }) with
      flights := [{ purpose := .header (egressRing 1 1), data := zeros 16 }] }
    s.part.running = true ∧ s.part.exchangeSound
      ∧ s.part.flights = { purpose := .header (egressRing 1 1), data := zeros 16 } :: []
      ∧ ((s.part.headRecord (egressRing 1 1)).map fun h => h.dests.map fun d => s.part.keepsDown (egressRing 1 1) h d)
          = some [true] :=
  ⟨rfl, sound_without_copy (by unfold Part.conserved; decide +kernel) (by decide +kernel) (by decide +kernel) rfl
    (by decide +kernel), rfl, by decide +kernel⟩
/-- Slots 1 and 2 hold heads past their hold limit that name the OPEN PULSE gate 5, and ring 80's word has been requested at this
instant. -/
def oneOpening : State :=
  fresh fun p =>
    let h : Head :=
      { header := { dest := 4, tag := 1, entries := 1, gate := 5, length := 100, sequence := 1 }
        taken := { seconds := 0, ns := 0, epoch := 0 }, dests := [4], blockedSince := some 0, blockReason := .none
        gatePassed := false }
    let x : Ring := { producer := 1, consumer := 0, high := false, take := .head h }
    let q := put 1 .admitted (put 2 .admitted (put 4 .admitted (at_ 5000 (tried p))))
    (((q.modRing (egressRing 1 1) fun _ => x).modRing (egressRing 2 1) fun _ => x).modGate 5 fun g =>
      { g with state := .opened }).modEngine fun e =>
        { e with indexQueue := [{ ring := 80, value := 3 }], before := some { takes := [], writes := [] } }

/-- R103, R109, R115, R158: the choice closes the gate, the head it passes over expires at the same instant, and its ring's write
joins before that of ring 80; nothing is issued in between. -/
theorem test_choice_keeps_the_instant_open :
    ((upshot (exec .serviceChoice oneOpening)).map fun t => (t.part.engine.waiting, t.part.holdDue (egressRing 2 1)))
        = some (none, true)
      ∧ (((upshot (exec .serviceChoice oneOpening)).bind fun t => upshot (exec (.holdExpired 2 1) t)).map fun t =>
          (t.part.engine.waiting, t.part.engine.indexQueue.map IndexWrite.ring))
        = some (some (.index { ring := egressRing 2 1, value := 1 }), [80]) := by decide +kernel
/-- R120: with every gate CLOSED, as an activation leaves them, a choice is due and the queued write is issued before it. -/
theorem test_release_issues_before_the_choice :
    let p := (ready 4 0).part.modEngine fun e => { e with indexQueue := [{ ring := 80, value := 3 }] }
    p.choiceDue = true ∧ (p.endInstant { takes := [], writes := [] }).engine.waiting = some (.index { ring := 80, value := 3 }) := by
  decide +kernel
theorem met_ServiceChoice : (ready 4 0).part.running = true ∧ (ready 4 0).part.choiceDue = true := by decide +kernel
theorem met_CopyReadBecomesAWrite :
    copying.part.running = true ∧ copying.part.engine.copy.isSome = true
      ∧ copying.part.flights = { purpose := .copy, data := List.replicate 64 0x55 } :: []
      ∧ ((copying.part.headRecord (egressRing 1 1)).map Head.dests) = some [2] := by decide +kernel
theorem met_CopyReadBecomesAWrite_void :
    let s : State := { copying with part := { copying.part with engine := { copying.part.engine with
      copy := some { ring := egressRing 1 1, dest := 2, destPos := 0, block := 1, void := true, headPresent := false,
                     due := .nothing } } } }
    s.part.running = true ∧ s.part.engine.copy.map Copy.void = some true
      ∧ s.part.flights = { purpose := .copy, data := List.replicate 64 0x55 } :: [] := by decide +kernel
theorem met_HoldLimitDiscardsTheHead :
    (ready 5 500).part.running = true ∧ (ready 5 500).part.holdDue (egressRing 1 1) = true
      ∧ (ready 5 499).part.holdDue (egressRing 1 1) = false
      ∧ ((ready 5 500).part.headRecord (egressRing 1 1)).map Head.dests = some [5] := by decide +kernel

/-! Slots -/

theorem met_Settlement (release removed : Bool) :
    let s := fresh fun p => (put 4 .fenced (tried p)).modPort 4 fun x =>
      { x with settlementOwed := true, releaseHeld := release, powerRemoved := removed }
    s.part.running = true ∧ s.part.settlementDue 4 = true := by
  cases release <;> cases removed <;> decide +kernel
theorem met_RemovingEnd :
    let s (now : Nat) := fresh fun p => (put 0 .removing (at_ now (tried p))).modPort 0 fun x =>
      { x with settlementOwed := true, powerCycle := true, stateTimer := some 0 }
    (s 500000).part.running = true ∧ (s 500000).part.removingDue 0 = true ∧ (s 499999).part.removingDue 0 = false := by
  decide +kernel
theorem met_LinkEventsMoveTheSlot (n : Slot) (st : SlotState) (h : n = 0 ∨ n = 11) :
    (fresh (put n st)).part.running = true ∧ (fresh (put n st)).part.ports[n].state = st := by
  rcases h with rfl | rfl <;> cases st <;> decide +kernel

/-- Slot 11 whose presence timer runs from 0, in state `st`. -/
def bouncing (st : SlotState) (level : Bool) (now : Nat) : State :=
  fresh fun p => (at_ now p).modPort 11 fun x =>
    { x with state := st, presentLevel := level, presence := !level, presenceTimer := some 0 }

theorem met_PresenceIsDebouncedAndActedOn (st : SlotState) (level : Bool) :
    (bouncing st level 10000).part.running = true ∧ (bouncing st level 10000).part.presenceDue 11 level = true
      ∧ (bouncing st level 9999).part.presenceDue 11 level = false := by
  cases st <;> cases level <;> decide +kernel
theorem met_PowerGoodLevelIsActedOn (n : Slot) (st : SlotState) (removed : Bool) (h : n = 0 ∨ n = 11) :
    let s := fresh fun p => (put n st p).modPort n fun x => { x with powerRemoved := removed }
    s.part.running = true ∧ s.part.ports[n].state = st ∧ s.part.ports[n].powerRemoved = removed := by
  rcases h with rfl | rfl <;> cases st <;> cases removed <;> decide +kernel

/-- Slot `n` in state `st` whose timers run from 0. -/
def timed (n : Slot) (st : SlotState) (now : Nat) : State :=
  fresh fun p => (put n st (at_ now (tried p))).modPort n fun x => { x with stateTimer := some 0 }

theorem met_SlotLimitsExpire_power (n : Slot) (h : n = 0 ∨ n = 11) :
    (timed n .powering 500000).part.running = true ∧ (timed n .powering 500000).part.powerGoodDue n = true
      ∧ (timed n .powering 499999).part.powerGoodDue n = false := by
  rcases h with rfl | rfl <;> decide +kernel
theorem met_SlotLimitsExpire_training (n : Slot) (h : n = 0 ∨ n = 11) :
    (timed n .training 1000000).part.running = true ∧ (timed n .training 1000000).part.trainingDue n = true
      ∧ (timed n .training 999999).part.trainingDue n = false := by
  rcases h with rfl | rfl <;> decide +kernel
theorem met_SlotLimitsExpire_heartbeat (n : Slot) (h : n = 6 ∨ n = 7) :
    let s (now : Nat) := fresh fun p => (put n .admitted (at_ now (tried p))).modPort n fun x =>
      { x with heartbeat := { supervising := true, expected := 1, lastValid := none, windowStart := 0, lost := false } }
    (s 10000000).part.running = true ∧ (s 10000000).part.heartbeatDue n = true ∧ (s 9999999).part.heartbeatDue n = false := by
  rcases h with rfl | rfl <;> decide +kernel
theorem met_AdmissionResetsTheSlotsRings :
    (timed 4 .admitting 100000).part.running = true ∧ (timed 4 .admitting 100000).part.admitDue 4 = true
      ∧ (timed 4 .admitting 99999).part.admitDue 4 = false
      ∧ (timed 4 .admitting 100000).part.plan.rings[ingressRing 4 1].count ≠ 0
      ∧ (timed 4 .admitting 100000).part.plan.rings[ingressRing 4 0].count = 0 := by decide +kernel
theorem met_AdmissionCheckIsJudged :
    (checked 33 2).part.running = true ∧ (checked 33 2).part.ports[(7 : Slot)].state = .quarantine
      ∧ (checked 33 2).part.flights.map Flight.purpose = [.check 7 true] := by decide +kernel
theorem met_AdmissionCheckIsJudged_discarded :
    let s := fresh fun p => { p with flights := [{ purpose := .check 7 false, data := zeros 12 }] }
    s.part.running = true ∧ s.part.flights = { purpose := .check 7 false, data := zeros 12 } :: [] := by decide +kernel

/-! Cabinet time -/

theorem met_ReferencePulse_unusable :
    State.reset.part.running = true ∧ State.reset.part.usable .a = false := by decide +kernel

/-- In TRACKING or ACQUIRING with a pulse on time whose phase error is `e`, in ns, 0 or more: the reference stays QUALIFIED
and selected. -/
def pulsed (st : ClockState) (e : Nat) : State :=
  { tracking 0 0 with part := { (tracking 0 0).part with clock := { (tracking 0 0).part.clock with
      state := st, ns := 150 + e } } }

theorem met_ReferencePulse (st : ClockState) (e : Nat)
    (h : (st = .tracking ∧ (e = 10000 ∨ e = 10001)) ∨ (st = .acquiring ∧ (e = 20000 ∨ e = 20001))) :
    (pulsed st e).part.running = true ∧ (pulsed st e).part.usable .a = true ∧ (pulsed st e).part.clock.ns < 1000000000
      ∧ ((pulsed st e).part.plan.clock.ref .a).cableDelay ≤ 1000000000 ∧ (pulsed st e).part.clock.state = st
      ∧ phaseError (pulsed st e).part.clock.ns ((pulsed st e).part.plan.clock.ref .a).cableDelay = e
      ∧ ((pulsed st e).part.clock.ref .a).pulse ((pulsed st e).part.plan.clock.ref .a) 125000000
          = { state := .qualified, previous := some 125000000, run := 3, misses := 0, deadline := some 250012500 }
      ∧ (pulsed st e).part.clock.selected = some .a := by
  rcases h with ⟨rfl, rfl | rfl⟩ | ⟨rfl, rfl | rfl⟩ <;> decide +kernel
theorem met_ReferencePulse_forward :
    (pulsed .acquiring 999979999).part.usable .a = true ∧ (pulsed .acquiring 999979999).part.clock.ns < 1000000000
      ∧ phaseError (pulsed .acquiring 999979999).part.clock.ns 150 = -20001
      ∧ (pulsed .acquiring 999979999).part.clock.selected = some .a := by decide +kernel
theorem met_ReferencePulse_qualifying :
    let s := fresh tried
    s.part.running = true ∧ s.part.usable .a = true ∧ s.part.clock.ns < 1000000000
      ∧ (s.part.clock.ref .a).state = .quiet := by decide +kernel

/-- The last good pulse was 1 s and the tolerance ago, with `misses` misses since. -/
def missing (misses : Nat) : State :=
  { tracking 0 0 with part := { (tracking 0 0).part with
      osc := 125012500
      clock := { (tracking 0 0).part.clock with
        refA := { state := .qualified, previous := some 0, run := 3, misses := misses, deadline := some 125012500 } } } }

theorem met_Miss (misses : Nat) (h : misses = 0 ∨ misses = 1) :
    (missing misses).part.running = true ∧ (missing misses).part.missDue .a = true
      ∧ (missing misses).part.clock.selected = some .a ∧ (missing misses).part.clock.state = .tracking := by
  rcases h with rfl | rfl <;> decide +kernel
/-- At the miss limit of the selected reference A the selection goes to B where that is QUALIFIED. -/
theorem met_Miss_other_reference :
    let k := (missing 1).part.clock
    let plan := { (missing 1).part.plan.clock with refB := { (missing 1).part.plan.clock.refB with enabled := true } }
    plan.refA.missLimit ≤ 2
      ∧ (({ k with refB := { Reference.quiet with state := .qualified } }.setRef .a Reference.quiet).select plan 0).selected
          = some .b := by decide +kernel
/-- The selection when reference A goes and B is QUALIFIED or not, and with the revertive flag. -/
def choosing (a b : RefState) (was : Option RefId) : Clock :=
  { Clock.reset with
    state := .tracking, selected := was, refA := { Reference.quiet with state := a }
    refB := { Reference.quiet with state := b } }

theorem met_MissesAndHoldover_selection :
    let plan (v : Bool) : ClockPlan := { ClockPlan.bootstrap with first := .a, revertive := v }
    ((choosing .qualified .qualified (some .b)).select (plan false) 5).selected = some .b
      ∧ ((choosing .qualified .qualified (some .b)).select (plan true) 5).selected = some .a
      ∧ ((choosing .quiet .qualified (some .a)).select (plan false) 5).selected = some .b
      ∧ ((choosing .quiet .qualifying (some .a)).select (plan false) 5).selected = none
      ∧ ((choosing .quiet .qualifying (some .a)).select (plan false) 5).state = .holdover := by decide +kernel
theorem met_HoldoverLimit :
    let s (now : Nat) := fresh fun p => { at_ now p with clock := { p.clock with
      state := .holdover, trained := true, holdoverStart := some 0 } }
    (s 86400000000).part.running = true ∧ (s 86400000000).part.holdoverDue = true
      ∧ (s 86399999999).part.holdoverDue = false := by decide +kernel

/-- The period before a second turnover, at `ns` nanoseconds. -/
def turning (ns : Nat) (v : Option Word) : State :=
  fresh fun p => { p with clock := { p.clock with ns := ns, pendingSeconds := v } }

theorem met_SecondTurnover (v : Option Word) (h : v = none ∨ v = some 1000) :
    (turning 999999992 v).part.turnoverDue = true ∧ (turning 999999991 v).part.turnoverDue = false := by
  rcases h with rfl | rfl <;> decide +kernel

/-- A second turnover while the engine holds back the write of ring 95's word and the header read of ring 8. -/
def holding (writes : List IndexWrite) : State :=
  (turning 999999992 none).modPart fun p => (p.setTake 8 .listed).modEngine fun e =>
    { e with indexQueue := writes, before := some { takes := [], writes := [] } }

theorem met_SecondTurnover_held_back :
    (holding []).part.turnoverDue = true ∧ (holding []).part.running = true ∧ (holding []).part.engine.waiting = none
      ∧ (holding []).part.hold = false ∧ (holding []).part.noHeaderRead = true
      ∧ (holding []).part.engine.takeList = 8 :: [] ∧ (holding []).part.engine.indexQueue = [] := by decide +kernel
/-- R89, R110: what the engine held back at the instant before is issued when the period passes. -/
theorem test_turnover_ends_the_instant :
    (upshot (exec .secondTurnover (holding [{ ring := 95, value := 7 }]))).map (fun t =>
        (t.part.engine.waiting, t.part.engine.indexQueue, t.part.engine.before))
      = some (some (.index { ring := 95, value := 7 }), [], none) := by decide +kernel

/-! Ticks, alarms, records and resets -/

theorem met_Tick (k : TickKind) :
    let s := fresh fun p => { p with clock := { p.clock with seconds := 1 } }
    s.part.running = true ∧ s.part.tickDue k = true := by cases k <;> decide +kernel
theorem met_GatesAndStrobes :
    (gated .armed .tracking 1200).part.running = true ∧ (gated .armed .tracking 1200).part.gateDelayDue 2 = true
      ∧ (gated .armed .tracking 1199).part.gateDelayDue 2 = false
      ∧ (gated .opened .tracking 500).part.gateWindowDue 2 = true ∧ (gated .opened .tracking 499).part.gateWindowDue 2 = false := by
  decide +kernel
theorem met_Strobes :
    let s (osc : Nat) := fresh fun p => { p.modPort 9 fun x => { x with strobe :=
      { armed := true, pending := some 150, driven := some 25 } } with osc := osc }
    (s 150).part.running = true ∧ (s 150).part.strobeBeginDue 9 = true ∧ (s 149).part.strobeBeginDue 9 = false
      ∧ (s 150).part.strobeEndDue 9 = true ∧ (s 149).part.strobeEndDue 9 = false := by decide +kernel
theorem met_ConditionsAreIntegrated_level (level : Contact) :
    let s := fresh fun p => { tried p with env := Vector.replicate 8 .closed }
    s.part.running = true
      ∧ ((level == s.part.plan.alarm.polarity[(3 : Fin 8)]) = s.part.alarm.points[envPoint 3].raw ↔ level = .closed) := by
  cases level <;> decide +kernel
theorem met_ConditionsAreIntegrated_hold :
    let s (now : Nat) := fresh fun p => { at_ now p with
      secondTick := true
      alarm := { p.alarm with points := modify p.alarm.points 79 fun x => { x with raw := true, lastEvent := some 0 } } }
    (s 10000000).part.running = true ∧ (s 10000000).part.eventHoldDue 79 = true
      ∧ (s 9999999).part.eventHoldDue 79 = false := by decide +kernel
theorem met_TransitionsAreCountedAndLogged :
    (door .rising 1000000 3000000).part.running = true ∧ (door .rising 1000000 3000000).part.raiseDue 84 = true
      ∧ (door .rising 1000000 2999999).part.raiseDue 84 = false
      ∧ (door .falling 10000000 15000000).part.running = true ∧ (door .falling 10000000 15000000).part.clearDue 84 = true
      ∧ (door .falling 10000000 14999999).part.clearDue 84 = false := by decide +kernel
/-- An identity with a serial number of `k` bytes is shown for slot 3. -/
def shown (k : Nat) : State :=
  fresh fun p => { p.modPort 3 (fun x => { x with
      identity := some { kind := 1, revision := 1, serial := zeros k }, identityShown := true }) with
    status := { p.status with dirty := (Vector.replicate 17 false).set 6 true } }

/-- Whether every identity of a part has a serial number of 8 bytes at most. -/
def shortIdentities (p : Part) : Bool :=
  (List.finRange 12).all fun n => match p.ports[n].identity with
    | some i => decide (i.serial.length ≤ 8)
    | none => true

theorem identitiesSound_of {p : Part} (e : shortIdentities p = true) : p.identitiesSound := by
  intro n i hi
  have := List.all_eq_true.mp e n (List.mem_finRange n)
  rw [hi] at this
  exact of_decide_eq_true this

theorem met_StepKeepsRequestSideSound_identities :
    Part.identitiesSound (about (.admissionCheckReadComplete false) (checked 33 2)).part
      ∧ ∃ t, step (about (.admissionCheckReadComplete false) (checked 33 2)) = .next t :=
  ⟨identitiesSound_of (by decide +kernel), _, rfl⟩
theorem met_RecordsHoldTheirFields : (shown 8).part.identitiesSound ∧ shortIdentities (shown 9).part = false :=
  ⟨identitiesSound_of (by decide +kernel), by decide +kernel⟩
theorem met_StatusRecordIsCapturedWhole :
    State.reset.part.running = true ∧ State.reset.part.recordDue = true
      ∧ (shown 8).part.running = true ∧ (shown 8).part.recordDue = true ∧ (shown 8).part.identitiesSound :=
  ⟨by decide +kernel, by decide +kernel, by decide +kernel, by decide +kernel, met_RecordsHoldTheirFields.1⟩
theorem met_ResetsPutTheBlocksBack :
    let s (k : Nat) := fresh fun p => { p with control := { p.control with supplyLow := true, dip := some k } }
    (s 250000).part.dipDue = true ∧ (s 249999).part.dipDue = false ∧ held.part.running = false
      ∧ State.reset.part.running = true := by decide +kernel
theorem met_OutputLinesFollowTheState :
    (∃ t, exec .resetPinAssert (fresh (put 4 .admitted)) = .next t) ∧ (fresh (put 4 .admitted)).part.running = true
      ∧ (fresh (put 4 .admitted)).part.pwren 4 = true ∧ (fresh (put 4 .admitted)).part.ports[(4 : Slot)].presence = true
      ∧ (fresh (put 4 .admitted)).part.ports[(4 : Slot)].pwrgd = true := ⟨⟨_, rfl⟩, by decide +kernel⟩
theorem met_ResetEndStartsThePart (kind : ResetKind) :
    let s := fresh fun p => { p with control := { p.control with active := some kind, pinLow := true } }
    s.part.control.active = some kind ∧ s.part.control.supplyLow = false := by cases kind <;> decide +kernel
theorem met_ResetEnd_dip_outlasted :
    let s (dip : Option Nat) := fresh fun p => { p with control := { p.control with
      active := some .powerOn, pinLow := true, supplyLow := true, dip := dip } }
    ¬ ((s (some 9)).part.control.supplyLow = true ∧ (s (some 9)).part.control.dip = none)
      ∧ ((s none).part.control.supplyLow = true ∧ (s none).part.control.dip = none) := by decide +kernel

/-- R192, R193: RESETN holds a reset whose supply has returned; a dip of less than 2 ms does not prolong it, and its timer begins
anew at the release. -/
theorem test_dip_while_resetn_holds :
    (upshot (exec .resetEnd (fresh fun p => { p with control := { p.control with
        active := some .powerOn, pinLow := true, supplyLow := true, dip := some 9 } }))).map
        (fun t => (t.part.control.active, t.part.control.cause, t.part.control.dip))
      = some (none, .powerOn, some 0) := by decide +kernel
theorem test_dip_begins_while_resetn_holds :
    (upshot (exec .supplyFall (fresh fun p => { p with control := { p.control with
        active := some .powerOn, pinLow := true } }))).map (fun t => t.part.control.dip) = some (some 0) := by decide +kernel

/-- Table 11-18 and R198: PRESENTn and RESETN are active low, PWREN and the relays high. -/
theorem test_pin_levels :
    Part.reset.outputLevel (.attn 3) = .high ∧ Part.reset.outputLevel (.pwren 3) = .low
      ∧ Part.reset.outputLevel (.strobe 3) = .low ∧ Part.reset.outputLevel .relayMinor = .low
      ∧ Part.reset.inputLevel (.present 3) = .high ∧ Part.reset.inputLevel (.pwrgd 3) = .low
      ∧ Part.reset.inputLevel .resetN = .high := by decide +kernel

theorem met_ResetEnd_power_on :
    (∀ n : Slot, State.reset.part.ports[n].presentLevel = false ∧ State.reset.part.ports[n].pwrgd = false)
      ∧ (∀ i : Fin 8, State.reset.part.env[i] = .opened) ∧ State.reset.part.control.pinLow = false := by decide +kernel

end Sys2Proof.Tests
end

section
/-! PROOFS. What a request of a slot may touch (R5, R8, R22–R26): the arrival checks of a request that reaches tests 4 to 6,
the part of exchange memory it lies in, and what an image that passes the structural checks says of the areas of its plan. -/
namespace Sys2Proof.Machine

/-! ### Tables -/

@[simp] theorem anyFin_eq_true_iff {n : Nat} {p : Fin n → Bool} : anyFin n p = true ↔ ∃ i, p i = true := by
  simp [anyFin]

@[simp] theorem anyFin_eq_false_iff {n : Nat} {p : Fin n → Bool} : anyFin n p = false ↔ ∀ i, p i = false := by
  simp [anyFin]

@[simp] theorem firstFin_eq_none_iff {n : Nat} {p : Fin n → Bool} : firstFin n p = none ↔ ∀ i, p i = false := by
  simp [firstFin]

/-! ### Where a request lies -/

theorem Request.first_le_last (q : Request) : q.first ≤ q.last := Nat.le_add_right _ _

@[simp] theorem Request.within_eq_true_iff {q : Request} {base size : Nat} :
    q.within base size = true ↔ base ≤ q.first ∧ q.last < base + size := by
  simp [Request.within]

/-- A request that is well formed begins and ends in one aligned 64-byte block (R1). -/
theorem Request.block_eq_of_formed {q : Request} (h : q.formed = true) : q.first / 64 = q.last / 64 := by
  have block : q.inOneBlock = true := by
    unfold Request.formed at h
    split at h <;> simp_all only [Bool.and_eq_true]
  have ends : 1 ≤ q.length ∧ q.first / 64 = q.last / 64 := by simpa [Request.inOneBlock] using block
  exact ends.2

/-- A request that begins below a bound of whole 64-byte blocks ends below it (R1). -/
theorem Request.last_lt_of_first_lt {q : Request} (h : q.formed = true) {bound : Nat} (aligned : bound % 64 = 0)
    (below : q.first < bound) : q.last < bound := by
  have := q.block_eq_of_formed h
  omega

/-- A request that meets an area does not lie wholly in one apart from it. -/
theorem Request.not_within_of_apart {q : Request} {base size base' size' : Nat} (apart : Apart base size base' size')
    (reaches : base ≤ q.last) (begins : q.first < base + size) :
    ¬ q.within base' size' = true := by
  rw [Request.within_eq_true_iff]
  unfold Apart at apart
  omega

/-! ### The arrival checks of a request that reaches tests 4 to 6 (R5) -/

/-- Test 4 of R5: before admission a request that is not to the admit area or a READ of the slot record is refused. -/
theorem arrivalCheck_of_judges_before {plan : Plan} {x : Port} {n : Slot} {q : Request} (h : x.judges q)
    (before : x.state = .quarantine ∨ x.state = .admitting) :
    arrivalCheck plan x n q =
      if beforeAdmission n q = true then
        if q.first < Config.controlEnd then controlRule n q else windowRule plan n q
      else some .quarantine := by
  obtain ⟨-, -, free, formed⟩ := h
  rcases before with e | e <;> cases b : beforeAdmission n q <;> simp [arrivalCheck, e, free, formed, b]

/-- Tests 5 and 6 of R5: a request of an ADMITTED slot is judged by where it begins. -/
theorem arrivalCheck_of_judges_admitted {plan : Plan} {x : Port} {n : Slot} {q : Request} (h : x.judges q)
    (admitted : x.state = .admitted) :
    arrivalCheck plan x n q = if q.first < Config.controlEnd then controlRule n q else windowRule plan n q := by
  obtain ⟨-, -, free, formed⟩ := h
  simp [arrivalCheck, admitted, free, formed]

/-! ### The control region (Table 1-2, R7, R8) -/

theorem regionOf_status {a : Nat} (low : 0x20000 ≤ a) (high : a < 0x30000) : regionOf a = .status := by
  unfold regionOf Config.controlEnd
  repeat rw [if_neg (by omega)]
  rw [if_pos high]

theorem regionOf_ringBlock {n : Slot} {a : Nat} (low : ringBlockBase n ≤ a) (high : a < ringBlockBase n + 0x100) :
    regionOf a = .ringBlock n := by
  unfold ringBlockBase at low high
  unfold regionOf Config.controlEnd
  repeat rw [if_neg (by omega)]
  rw [dif_pos (by omega)]
  congr 1
  apply Fin.ext
  show (a - 0x30000) / 0x100 = n.val
  omega

theorem regionOf_admitArea {n : Slot} {a : Nat} (low : admitBase n ≤ a) (high : a < admitBase n + 0x40) :
    regionOf a = .admitArea n := by
  unfold admitBase at low high
  unfold regionOf Config.controlEnd
  repeat rw [if_neg (by omega)]
  rw [dif_neg (by omega), if_neg (by omega), dif_pos (by omega)]
  congr 1
  apply Fin.ext
  show (a - 0x31000) / 0x40 = n.val
  omega

/-- R8: a slot's own admit area is open to it. -/
theorem controlRule_of_admitArea {n : Slot} {q : Request} (h : regionOf q.first = .admitArea n) :
    controlRule n q = none := by
  simp [controlRule, h]

/-- R7: the status area is open to READs. -/
theorem controlRule_of_status {n : Slot} {q : Request} (h : regionOf q.first = .status) (read : q.isRead = true) :
    controlRule n q = none := by
  simp [controlRule, h, read]

/-- R8, R25: a slot's own ring index block is open to READs, and to WRITEs that keep to its words and off the part-owned
eight. -/
theorem controlRule_of_ringBlock {n : Slot} {q : Request} (h : regionOf q.first = .ringBlock n)
    (low : ringBlockBase n ≤ q.first) :
    controlRule n q =
      if q.isRead = true then none
      else if ringBlockBase n + 0x44 ≤ q.last then some .control
      else if q.first < ringBlockBase n + 0x40 ∧ ringBlockBase n + 0x20 ≤ q.last then some .owned
      else none := by
  have := q.first_le_last
  have beyond : 0x44 ≤ q.last - ringBlockBase n ↔ ringBlockBase n + 0x44 ≤ q.last := by omega
  have clear : q.last - ringBlockBase n < 0x20 ∨ 0x40 ≤ q.first - ringBlockBase n ↔
      ¬ (q.first < ringBlockBase n + 0x40 ∧ ringBlockBase n + 0x20 ≤ q.last) := by omega
  simp only [controlRule, h, bne_self_eq_false, Bool.false_eq_true, if_false, Bool.or_eq_true, decide_eq_true_eq,
    beyond, clear, ite_not]

/-- A request wholly in the admit area of its slot is accepted by the rules of the control region (R8). -/
theorem controlRule_within_admitArea {n : Slot} {q : Request} (h : q.within (admitBase n) 0x40 = true) :
    q.first < Config.controlEnd ∧ controlRule n q = none := by
  rw [Request.within_eq_true_iff] at h
  obtain ⟨low, high⟩ := h
  have := q.first_le_last
  refine ⟨?_, controlRule_of_admitArea (regionOf_admitArea low (by omega))⟩
  unfold Config.controlEnd
  unfold admitBase at high
  omega

/-- A READ wholly in its slot's record is accepted by the rules of the control region (R7). -/
theorem controlRule_within_slotRecord {n : Slot} {q : Request} (read : q.isRead = true)
    (h : q.within (slotRecordBase n) 0x80 = true) : q.first < Config.controlEnd ∧ controlRule n q = none := by
  rw [Request.within_eq_true_iff] at h
  obtain ⟨low, high⟩ := h
  have := q.first_le_last
  unfold slotRecordBase at low high
  refine ⟨?_, controlRule_of_status (regionOf_status (by omega) (by omega)) read⟩
  unfold Config.controlEnd
  omega

/-- What test 4 of R5 passes, test 5 passes (R26). -/
theorem controlRule_of_beforeAdmission {n : Slot} {q : Request} (h : beforeAdmission n q = true) :
    q.first < Config.controlEnd ∧ controlRule n q = none := by
  rcases Bool.or_eq_true _ _ ▸ h with area | record
  · exact controlRule_within_admitArea area
  · obtain ⟨read, inside⟩ := Bool.and_eq_true _ _ ▸ record
    exact controlRule_within_slotRecord read inside

/-- Settles O18: test 4 passes exactly the two areas, and what it passes the rules of the control region pass. -/
theorem rightsBeforeAdmission : Obligations.RightsBeforeAdmission := by
  unfold Obligations.RightsBeforeAdmission
  intro plan x n q judged inAdmitArea
  refine ⟨fun before => ?_, rfl, fun admitted inside => ?_⟩
  · have passes : beforeAdmission n q = true ↔ inAdmitArea ∨
        (q.isRead = true ∧ 0x20100 + 0x80 * n.val ≤ q.first ∧ q.last < 0x20100 + 0x80 * n.val + 128) := by
      simp only [beforeAdmission, Bool.or_eq_true, Bool.and_eq_true, Request.within_eq_true_iff]
      rfl
    rw [arrivalCheck_of_judges_before judged before]
    simp only [← passes]
    split
    · next passed =>
      obtain ⟨low, rule⟩ := controlRule_of_beforeAdmission passed
      rw [if_pos low, rule]
    · rfl
  · obtain ⟨low, rule⟩ := controlRule_within_admitArea (Request.within_eq_true_iff.mpr inside)
    rw [arrivalCheck_of_judges_admitted judged admitted, if_pos low, rule]

/-! ### A request that is refused (R6) -/

/-- A READ or WRITE arrives at a part that runs (R5, R6). -/
theorem exec_command (q : Request) (n : Slot) (s : State) :
    exec (q.command n) s = .next (s.modPart (Part.whileRunning (Part.arrive n q))) := by
  obtain ⟨tag, addr, body⟩ := q
  cases body <;> rfl

theorem Part.arrive_of_refused {p : Part} {n : Slot} {q : Request} {why : Reason} (link : p.ports[n].link = true)
    (credit : p.ports[n].credits ≠ 0) (refused : arrivalCheck p.plan p.ports[n] n q = some why) :
    p.arrive n q = p.refuse n q why := by
  have carries : (p.ports[n].link && p.ports[n].credits != 0) = true := by
    rw [link, Bool.true_and]
    exact bne_iff_ne.mpr credit
  unfold Part.arrive
  rw [if_pos carries, refused]

/-- A refusal stays within an event of its slot (R6). -/
theorem Part.besidesSlot_refuse (n : Slot) (q : Request) (why : Reason) (p : Part) :
    (p.refuse n q why).besidesSlot n = p.besidesSlot n := by
  unfold Part.refuse
  dsimp only
  split <;> split <;>
    simp only [Part.besidesSlot_settleSlots, Part.besidesSlot_violation, Part.besidesSlot_modPort]

/-- An event of a slot changes no watched-word copy but through an observation (R18). -/
theorem Part.watched_of_besidesSlot {n : Slot} {p p' : Part} (h : p'.besidesSlot n = p.besidesSlot n) :
    p'.watched = p.watched :=
  (congrArg Part.watched h :)

/-- A request that is refused at arrival reaches neither memory nor an owner (R6, R18). -/
theorem exec_command_of_refused {s : State} {n : Slot} {q : Request} {why : Reason} (running : s.part.running = true)
    (link : s.part.ports[n].link = true) (credit : s.part.ports[n].credits ≠ 0)
    (refused : arrivalCheck s.part.plan s.part.ports[n] n q = some why) :
    ∃ t, exec (q.command n) s = .next t ∧ t.memory = s.memory ∧ t.part.watched = s.part.watched := by
  refine ⟨_, exec_command q n s, rfl, ?_⟩
  rw [State.modPart_part, Part.whileRunning_of_running running, Part.arrive_of_refused link credit refused]
  exact Part.watched_of_besidesSlot (Part.besidesSlot_refuse n q why s.part)

/-- Settles O19: the rule of the ring index block for what such a request covers, and a refusal's frame. -/
theorem partOwnedWordsAreNotWritten : Obligations.PartOwnedWordsAreNotWritten := by
  unfold Obligations.PartOwnedWordsAreNotWritten
  refine ⟨?_, rfl, fun _ _ _ running link credit refused => exec_command_of_refused running link credit refused⟩
  intro plan x n q base judged admitted low high
  have inControl : q.first < Config.controlEnd := by
    unfold Config.controlEnd
    omega
  rw [arrivalCheck_of_judges_admitted judged admitted, if_pos inControl,
    controlRule_of_ringBlock (regionOf_ringBlock low high) low]
  rfl

/-! ### Rings, windows and the log area (R22–R24) -/

theorem Plan.ringAt_eq_none_iff {plan : Plan} {a : Nat} : plan.ringAt a = none ↔ ∀ r, ¬ plan.inRing r a := by
  simp [Plan.ringAt, Plan.inRing]

theorem Plan.windowGrants_eq_true_iff {plan : Plan} {n : Slot} {q : Request} :
    plan.windowGrants n q = true ↔ ∃ w : Fin 6, plan.slots[n].windows[w].size ≠ 0
      ∧ q.within plan.slots[n].windows[w].base plan.slots[n].windows[w].size = true
      ∧ (if q.isRead = true then plan.slots[n].windows[w].read else plan.slots[n].windows[w].write) = true := by
  simp [Plan.windowGrants, and_assoc]

theorem Plan.inLog_eq_true_iff {plan : Plan} {q : Request} :
    plan.inLog q = true ↔ plan.alarm.logCapacity ≠ 0
      ∧ q.within plan.alarm.logBase (32 * plan.alarm.logCapacity) = true := by
  simp [Plan.inLog]

/-- A request that begins in a ring lies in it whole: ring areas are laid out in whole 64-byte blocks (R1, R22). -/
theorem Plan.within_of_inRing {plan : Plan} (laid : plan.laidOut) {q : Request} (formed : q.formed = true) {r : RingNo}
    (h : plan.inRing r q.first) : q.within plan.rings[r].base plan.rings[r].areaSize = true := by
  obtain ⟨present, low, high⟩ := h
  obtain ⟨rings, -, -⟩ := laid
  obtain ⟨aligned, -, -⟩ := rings r present
  refine Request.within_eq_true_iff.mpr ⟨low, Request.last_lt_of_first_lt formed ?_ high⟩
  unfold RingPlan.areaSize
  omega

/-- A request meets the log area of a plan that has one. -/
def Plan.meetsLog (plan : Plan) (q : Request) : Prop :=
  plan.alarm.logCapacity ≠ 0 ∧ plan.alarm.logBase ≤ q.last
    ∧ q.first < plan.alarm.logBase + 32 * plan.alarm.logCapacity

/-- Under a plan that is laid out, a request that meets the log area begins in exchange memory beyond the control region
(R23). -/
theorem Plan.first_of_meetsLog {plan : Plan} (laid : plan.laidOut) {q : Request} (formed : q.formed = true)
    (meets : plan.meetsLog q) : Config.controlEnd ≤ q.first ∧ q.first < plan.memorySize := by
  obtain ⟨log, reaches, begins⟩ := meets
  obtain ⟨-, -, logArea⟩ := laid
  obtain ⟨-, ⟨low, high⟩, -⟩ := logArea log
  refine ⟨Nat.le_of_not_lt fun below => ?_, by omega⟩
  have := Request.last_lt_of_first_lt formed (by decide) below
  omega

/-- Under a plan that is laid out, a request that meets the log area begins in no ring (R22, R23). -/
theorem Plan.ringAt_eq_none_of_meetsLog {plan : Plan} (laid : plan.laidOut) {q : Request} (formed : q.formed = true)
    (meets : plan.meetsLog q) : plan.ringAt q.first = none := by
  rw [Plan.ringAt_eq_none_iff]
  intro r inside
  have whole := Plan.within_of_inRing laid formed inside
  obtain ⟨log, reaches, begins⟩ := meets
  obtain ⟨present, -, -⟩ := inside
  obtain ⟨-, -, logArea⟩ := laid
  obtain ⟨-, -, apart⟩ := logArea log
  exact absurd whole (Request.not_within_of_apart (apart r present) reaches begins)

/-- Under a plan that is laid out, no window covers a request that meets the log area (R23, R33). -/
theorem Plan.windowGrants_eq_false_of_meetsLog {plan : Plan} (laid : plan.laidOut) (n : Slot) {q : Request}
    (meets : plan.meetsLog q) : plan.windowGrants n q = false := by
  obtain ⟨log, reaches, begins⟩ := meets
  obtain ⟨-, windows, -⟩ := laid
  rw [Bool.eq_false_iff, Ne, Plan.windowGrants_eq_true_iff]
  rintro ⟨w, size, covered, -⟩
  obtain ⟨-, -, -, -, apart⟩ := windows n w size
  exact Request.not_within_of_apart (apart log).symm reaches begins covered

/-- R24 for a request that meets the log area: slot 0's READs that lie in it whole pass, and nothing else does. -/
theorem windowRule_of_meetsLog {plan : Plan} (laid : plan.laidOut) (n : Slot) {q : Request} (formed : q.formed = true)
    (meets : plan.meetsLog q) :
    windowRule plan n q =
      if n = 0 ∧ q.isRead = true ∧ q.within plan.alarm.logBase (32 * plan.alarm.logCapacity) = true then none
      else some .window := by
  have ⟨_, inMemory⟩ := Plan.first_of_meetsLog laid formed meets
  have noRing := Plan.ringAt_eq_none_of_meetsLog laid formed meets
  have noWindow := Plan.windowGrants_eq_false_of_meetsLog laid n meets
  have slot : n.val = 0 ↔ n = 0 := Fin.val_eq_zero_iff
  unfold windowRule
  rw [if_neg (Nat.not_le.mpr inMemory), noRing, noWindow]
  cases whole : q.within plan.alarm.logBase (32 * plan.alarm.logCapacity)
  · simp [Plan.inLog, whole]
  · have ⟨log, _⟩ := meets
    have inLog : plan.inLog q = true := Plan.inLog_eq_true_iff.mpr ⟨log, whole⟩
    simp [inLog, slot]

/-- An ADMITTED slot's request that meets the log area is judged by R24 (R5, R23). -/
theorem arrivalCheck_of_meetsLog {plan : Plan} (laid : plan.laidOut) {x : Port} (n : Slot) {q : Request}
    (judged : x.judges q) (admitted : x.state = .admitted) (meets : plan.meetsLog q) :
    arrivalCheck plan x n q =
      if n = 0 ∧ q.isRead = true ∧ q.within plan.alarm.logBase (32 * plan.alarm.logCapacity) = true then none
      else some .window := by
  have ⟨_, _, _, formed⟩ := judged
  have ⟨beyond, _⟩ := Plan.first_of_meetsLog laid formed meets
  rw [arrivalCheck_of_judges_admitted judged admitted, if_neg (Nat.not_lt.mpr beyond),
    windowRule_of_meetsLog laid n formed meets]

/-! ### The structural checks of an image and the plan it gives (R43, Table 3-8) -/

/-- What the range checks make of a log capacity: none, or 16 to 1,024 records (R40). -/
theorem clampCapacity_bounds {v : Nat} (h : (clampCapacity v).1 ≠ 0) :
    16 ≤ (clampCapacity v).1 ∧ (clampCapacity v).1 ≤ 1024 := by
  unfold clampCapacity clampRange at h ⊢
  split at h
  · exact absurd rfl h
  · repeat' split
    all_goals dsimp only; omega

theorem overlap_eq_false_iff {base₁ size₁ base₂ size₂ : Nat} :
    overlap base₁ size₁ base₂ size₂ = false ↔ Apart base₁ size₁ base₂ size₂ := by
  simp only [overlap, Apart, Bool.and_eq_false_iff, decide_eq_false_iff_not]
  omega

/-- An image that passes the structural checks passes each of checks 2, 3, 4 and 6 (Table 3-8). -/
theorem structuralFault_eq_none {img : PlanImage} {g : Nat} (h : structuralFault img g = none) :
    ∃ memory, memorySizeOf (imageField img 0 2 1) = some memory
      ∧ (∀ r, ringFails img memory r = false)
      ∧ (∀ k, windowFails img memory (readWindow (slotEntry img (windowNo k).1) (windowNo k).2) = false)
      ∧ logFails img memory = false := by
  unfold structuralFault at h
  dsimp only at h
  split at h
  · cases h
  split at h
  · cases h
  next memory size =>
  split at h
  · cases h
  next rings =>
  split at h
  · cases h
  next windows =>
  rw [firstFin_eq_none_iff] at rings windows
  refine ⟨memory, size, rings, windows, ?_⟩
  split at h
  · cases h
  split at h
  · cases h
  split at h
  · cases h
  next log => exact Bool.eq_false_iff.mpr log

theorem readPlan_memorySize {img : PlanImage} {memory : Nat} (h : memorySizeOf (imageField img 0 2 1) = some memory) :
    (readPlan img).1.memorySize = memory := by
  simp [readPlan, h]

theorem readRingPlan_base (img : PlanImage) (r : RingNo) : (readRingPlan img r).1.base = (rawRing img r).base := by
  unfold readRingPlan
  dsimp only
  split <;> rfl

theorem readRingPlan_count (img : PlanImage) (r : RingNo) : (readRingPlan img r).1.count = (rawRing img r).count := by
  unfold readRingPlan
  dsimp only
  split <;> rfl

/-- The range checks leave a ring's base as it stands in the image (R36). -/
theorem readPlan_ring_base (img : PlanImage) (r : RingNo) :
    (readPlan img).1.rings[r].base = (rawRing img r).base := by
  simp [readPlan, readRingPlan_base]

/-- The range checks leave a ring's entry count as it stands in the image (R36). -/
theorem readPlan_ring_count (img : PlanImage) (r : RingNo) :
    (readPlan img).1.rings[r].count = (rawRing img r).count := by
  simp [readPlan, readRingPlan_count]

/-- A slot's windows are those of its entry (R33, Table 11-7). -/
theorem readPlan_window (img : PlanImage) (n : Slot) (w : Fin 6) :
    (readPlan img).1.slots[n].windows[w] = readWindow (slotEntry img n) w := by
  simp [readPlan, readSlotPlan]

theorem readPlan_logCapacity (img : PlanImage) :
    (readPlan img).1.alarm.logCapacity = (clampCapacity (imageField img 64 8 2)).1 := rfl

theorem readPlan_logBase {img : PlanImage} (h : (readPlan img).1.alarm.logCapacity ≠ 0) :
    (readPlan img).1.alarm.logBase = imageField img 64 4 4 * 32 :=
  if_neg h

/-- Check 6 passes: the log area lies in exchange memory, outside the control region and apart from every ring and window
(Table 3-8). -/
theorem logFails_eq_false {img : PlanImage} {memory : Nat} (h : logFails img memory = false)
    (log : (clampCapacity (imageField img 64 8 2)).1 ≠ 0) :
    let base := imageField img 64 4 4 * 32
    let size := 32 * (clampCapacity (imageField img 64 8 2)).1
    Config.controlEnd ≤ base ∧ base + size ≤ memory
      ∧ (∀ r, (rawRing img r).count ≠ 0 → Apart base size (rawRing img r).base (128 * (rawRing img r).count))
      ∧ ∀ n w, (readWindow (slotEntry img n) w).size ≠ 0 →
          Apart base size (readWindow (slotEntry img n) w).base (readWindow (slotEntry img n) w).size := by
  intro base size
  simp only [logFails, bne_iff_ne.mpr log, Bool.true_and, Bool.or_eq_false_iff, decide_eq_false_iff_not, Nat.not_lt,
    anyFin_eq_false_iff, Bool.and_eq_false_imp, bne_iff_ne, overlap_eq_false_iff] at h
  obtain ⟨⟨⟨inMemory, beyond⟩, rings⟩, windows⟩ := h
  exact ⟨beyond, inMemory, rings, windows⟩

/-- Settles O20: a request that meets the log area is judged by R24 alone, and check 6 of Table 3-8 lays the area out. -/
theorem logAreaIsReadBySlotZeroAlone : Obligations.LogAreaIsReadBySlotZeroAlone := by
  unfold Obligations.LogAreaIsReadBySlotZeroAlone
  refine ⟨?_, ?_, rfl⟩
  · intro plan x n q laid judged admitted log reaches begins
    rw [arrivalCheck_of_meetsLog laid n judged admitted ⟨log, reaches, begins⟩]
    simp only [Request.within_eq_true_iff]
  · intro img g passes plan size log
    obtain ⟨memory, memorySize, -, -, logPasses⟩ := structuralFault_eq_none passes
    obtain ⟨low, high⟩ := clampCapacity_bounds log
    obtain ⟨beyond, inMemory, rings, windows⟩ := logFails_eq_false logPasses log
    have base : plan.alarm.logBase = imageField img 64 4 4 * 32 := readPlan_logBase log
    rw [base]
    refine ⟨low, high, ⟨beyond, ?_⟩, fun r present => ?_, fun n w hasSize => ?_⟩
    · rw [show plan.memorySize = memory from readPlan_memorySize memorySize]
      exact inMemory
    · rw [RingPlan.present, readPlan_ring_count, bne_iff_ne] at present
      rw [RingPlan.areaSize, readPlan_ring_base, readPlan_ring_count]
      exact rings r present
    · rw [readPlan_window] at hasSize ⊢
      exact windows n w hasSize

end Sys2Proof.Machine
end


section
/-! PROOFS. Runs of a relation, of any length. -/
namespace Sys2Proof.Machine

/-- `Run r a b`: a run of steps of `r` leads from `a` to `b`. -/
inductive Run {α : Type} (r : α → α → Prop) (a : α) : α → Prop
  | refl : Run r a a
  | tail {b c : α} (h : Run r a b) (step : r b c) : Run r a c

namespace Run
variable {α : Type} {r : α → α → Prop} {a b c : α}

theorem single (step : r a b) : Run r a b := .tail .refl step

theorem trans (h : Run r a b) (h' : Run r b c) : Run r a c := by
  induction h' with
  | refl => exact h
  | tail _ step ih => exact .tail ih step

theorem head (step : r a b) (h : Run r b c) : Run r a c := (single step).trans h

theorem mono {p : α → α → Prop} (sub : ∀ a b, r a b → p a b) (h : Run r a b) : Run p a b := by
  induction h with
  | refl => exact .refl
  | tail _ step ih => exact .tail ih (sub _ _ step)

end Run

/-! ### Facts about conditions and lists -/

theorem ite_iff_congr {α : Type} {b c : Prop} [Decidable b] [Decidable c] {x y u v : α} (h : b ↔ c) (pos : x = u) (neg : y = v) :
    (if b then x else y) = if c then u else v := ite_congr (propext h) (fun _ => pos) (fun _ => neg)

theorem filterMap_eq_of_forall {α β : Type} {f g : α → Option β} {l : List α} (h : ∀ a ∈ l, f a = g a) :
    l.filterMap f = l.filterMap g := by
  induction l with
  | nil => rfl
  | cons a l ih => rw [List.filterMap_cons, List.filterMap_cons, h a List.mem_cons_self, ih fun b mem => h b (List.mem_cons_of_mem _ mem)]

theorem nodup_append_singleton {α : Type} {l : List α} {a : α} (h : l.Nodup) (fresh : a ∉ l) : (l ++ [a]).Nodup := by
  refine List.nodup_append.mpr ⟨h, List.nodup_cons.mpr ⟨List.not_mem_nil, List.nodup_nil⟩, fun b mem c single => ?_⟩
  rw [List.mem_singleton.mp single]
  exact fun same => fresh (same ▸ mem)

end Sys2Proof.Machine
end


section
/-! PROOFS. What a step can do: a command other than ACCESS_GRANT changes the part alone, by one function of the part, and a step
is such a command, a grant, a response sent, or a period that passes (log entry 10). -/
namespace Sys2Proof.Machine

/-! ### Commands as functions of the part -/

/-- What command `c` makes of a part: its meaning, read off with no memory and no command around the part. -/
def Part.after (c : Instr) (p : Part) : Part :=
  match exec c { part := p, memory := [], pending := [] } with
  | .next t => t.part
  | .fault _ | .refused _ => p

/-- Every command but ACCESS_GRANT changes the part alone. -/
theorem exec_eq_after {c : Instr} (h : c ≠ .accessGrant) (s : State) : exec c s = .next (s.modPart (Part.after c)) := by
  cases c
  case accessGrant => exact absurd rfl h
  all_goals rfl

theorem exec_accessGrant_of_running {s : State} (h : s.part.running = true) : exec .accessGrant s = .next s.grant := by
  show Host.Outcome.next (if s.part.running then s.grant else s) = _
  rw [if_pos h]

/-- An event of a running part's own that waits for its condition `due` (log entry 10). -/
def Part.whenDue (due : Part → Bool) (f : Part → Part) (p : Part) : Part := p.whileRunning fun p => if due p then f p else p

theorem Part.whenDue_of_due {due : Part → Bool} {p : Part} (running : p.running = true) (h : due p = true) (f : Part → Part) :
    p.whenDue due f = f p := by
  rw [Part.whenDue, Part.whileRunning_of_running running, if_pos h]

theorem Part.whenDue_of_not_due {due : Part → Bool} {p : Part} (h : due p = false) (f : Part → Part) :
    p.whenDue due f = p := by
  rw [Part.whenDue, Part.whileRunning, if_neg (ne_true_of_eq_false h), ite_self]

theorem Part.whenDue_of_reset {p : Part} (h : p.running = false) (due : Part → Bool) (f : Part → Part) :
    p.whenDue due f = p := Part.whileRunning_of_reset h _

/-- What an event keeps of every running part it happens to, it keeps. -/
theorem Part.whenDue_keeps {P : Part → Prop} {due : Part → Bool} {f : Part → Part} {p : Part}
    (h : p.running = true → due p = true → P p → P (f p)) (hp : P p) : P (p.whenDue due f) := by
  unfold Part.whenDue Part.whileRunning
  split
  · dsimp only
    split
    · exact h ‹_› ‹_› hp
    · exact hp
  · exact hp

theorem Part.whileRunning_keeps {P : Part → Prop} {f : Part → Part} {p : Part}
    (h : p.running = true → P p → P (f p)) (hp : P p) : P (p.whileRunning f) := by
  unfold Part.whileRunning
  split
  · exact h ‹_› hp
  · exact hp

/-- The kind of reset a supply dip leads to: the stronger one where a reset is in progress (R192). -/
def ResetControl.dipKind (c : ResetControl) : ResetKind :=
  match c.active with
  | some k => k.stronger .supplyDip
  | none => .supplyDip

/-- The status writer begins its lowest dirty record (R181). -/
def Part.beginLowest (p : Part) : Part :=
  match p.lowestDirty with
  | some k => p.beginRecord k
  | none => p

/-- RESETN is released (R192). -/
def Part.releasePin (p : Part) : Part := { p with control := { p.control with pinLow := false } }

/-- The part starts if a reset is in progress that nothing holds any longer (R192). -/
def Part.startIfOver (p : Part) : Part :=
  match p.control.active with
  | some kind => if p.resetOver then p.start kind else p
  | none => p

/-! ### What each command makes of the part, in the order of the opcode table -/

@[simp] theorem Part.after_read (slot : Slot) (tag : Tag) (addr : Word) (len : Nat) (p : Part) :
    p.after (.read slot tag addr len) =
      p.whileRunning (Part.arrive slot { tag := tag, addr := addr, body := .read len }) := rfl

@[simp] theorem Part.after_write (slot : Slot) (tag : Tag) (addr : Word) (data : List Byte) (p : Part) :
    p.after (.write slot tag addr data) =
      p.whileRunning (Part.arrive slot { tag := tag, addr := addr, body := .write data }) := rfl

@[simp] theorem Part.after_apply (value : Word) (p : Part) :
    p.after (.apply value) = p.whileRunning (Part.observeApply value) := rfl

@[simp] theorem Part.after_logConsumer (value : Word) (p : Part) :
    p.after (.logConsumer value) = p.whileRunning (Part.observeLogConsumer value) := rfl

@[simp] theorem Part.after_cutoff (value : Word) (p : Part) :
    p.after (.cutoff value) = p.whileRunning (Part.observeCutoff value) := rfl

@[simp] theorem Part.after_seconds (value : Word) (p : Part) :
    p.after (.seconds value) = p.whileRunning (Part.observeSeconds value) := rfl

@[simp] theorem Part.after_fence (slot : Slot) (p : Part) :
    p.after (.fence slot) = p.whileRunning (Part.observeSlotCommand slot 1) := rfl

@[simp] theorem Part.after_release (slot : Slot) (p : Part) :
    p.after (.release slot) = p.whileRunning (Part.observeSlotCommand slot 2) := rfl

@[simp] theorem Part.after_heartbeat (slot : Slot) (value : Word) (p : Part) :
    p.after (.heartbeat slot value) = p.whileRunning (Part.observeHeartbeat slot value) := rfl

@[simp] theorem Part.after_admitWord (slot : Slot) (value : Word) (p : Part) :
    p.after (.admitWord slot value) = p.whileRunning (Part.observeAdmit slot value) := rfl

@[simp] theorem Part.after_egressProducer (slot : Slot) (cls : Cls) (value : Word) (p : Part) :
    p.after (.egressProducer slot cls value) = p.whileRunning (Part.observeProducer slot cls value) := rfl

@[simp] theorem Part.after_ingressConsumer (slot : Slot) (cls : Cls) (value : Word) (p : Part) :
    p.after (.ingressConsumer slot cls value) = p.whileRunning (Part.observeConsumer slot cls value) := rfl

@[simp] theorem Part.after_readCompletion (err : Bool) (p : Part) :
    p.after (.readCompletion err) = p.whileRunning (Part.cardReadDone err) := rfl

@[simp] theorem Part.after_admissionCheckReadComplete (err : Bool) (p : Part) :
    p.after (.admissionCheckReadComplete err) = p.whileRunning (Part.checkReadDone err) := rfl

@[simp] theorem Part.after_planReadComplete (err : Bool) (p : Part) :
    p.after (.planReadComplete err) = p.whileRunning (Part.planReadDone err) := rfl

@[simp] theorem Part.after_activation (p : Part) :
    p.after .activation = p.whenDue Part.activationDue fun p => p.activateStaged := rfl

@[simp] theorem Part.after_headerReadComplete (err : Bool) (p : Part) :
    p.after (.headerReadComplete err) = p.whileRunning (Part.headerReadDone err) := rfl

@[simp] theorem Part.after_serviceChoice (p : Part) :
    p.after .serviceChoice = p.whenDue Part.choiceDue fun p => p.choose := rfl

@[simp] theorem Part.after_copyReadComplete (err : Bool) (p : Part) :
    p.after (.copyReadComplete err) = p.whileRunning (Part.copyReadDone err) := rfl

@[simp] theorem Part.after_holdExpired (slot : Slot) (cls : Cls) (p : Part) :
    p.after (.holdExpired slot cls) =
      p.whenDue (Part.holdDue · (egressRing slot cls)) fun p =>
        (p.expireHead (egressRing slot cls)).settleExchange p.engine := rfl

@[simp] theorem Part.after_settlement (slot : Slot) (p : Part) :
    p.after (.settlement slot) = p.whenDue (Part.settlementDue · slot) (Part.slotEvent (Part.settleNow slot)) := rfl

@[simp] theorem Part.after_linkTrained (slot : Slot) (p : Part) :
    p.after (.linkTrained slot) = p.whileRunning (Part.linkTrains slot) := rfl

@[simp] theorem Part.after_linkLost (slot : Slot) (p : Part) :
    p.after (.linkLost slot) = p.whileRunning (Part.linkFails slot) := rfl

@[simp] theorem Part.after_presenceLevelChange (slot : Slot) (present : Bool) (p : Part) :
    p.after (.presenceLevelChange slot present) =
    (p.modPort slot fun x => { x with presentLevel := present }).whileRunning fun q =>
      q.modPort slot fun x => x.debounce q.now := rfl

@[simp] theorem Part.after_presenceFound (slot : Slot) (p : Part) :
    p.after (.presenceFound slot) =
      p.whenDue (Part.presenceDue · slot true) (Part.slotEvent (Part.presenceIsFound slot)) := rfl

@[simp] theorem Part.after_presenceLost (slot : Slot) (p : Part) :
    p.after (.presenceLost slot) =
      p.whenDue (Part.presenceDue · slot false) (Part.slotEvent (Part.presenceIsLost slot)) := rfl

@[simp] theorem Part.after_pwrgdAsserted (slot : Slot) (p : Part) :
    p.after (.pwrgdAsserted slot) =
    (p.modPort slot fun x => { x with pwrgd := true }).whileRunning
      fun q => if q.ports[slot].state = .powering then Part.slotEvent (Part.enterTraining slot) q else q := rfl

@[simp] theorem Part.after_pwrgdDeasserted (slot : Slot) (p : Part) :
    p.after (.pwrgdDeasserted slot) =
    (p.modPort slot fun x => { x with pwrgd := false }).whileRunning (Part.powerFails slot) := rfl

@[simp] theorem Part.after_powerGoodLimitExpiry (slot : Slot) (p : Part) :
    p.after (.powerGoodLimitExpiry slot) =
      p.whenDue (Part.powerGoodDue · slot) (Part.slotEvent (Part.powerFault slot .powerFault)) := rfl

@[simp] theorem Part.after_trainingLimitExpiry (slot : Slot) (p : Part) :
    p.after (.trainingLimitExpiry slot) =
      p.whenDue (Part.trainingDue · slot) (Part.slotEvent (Part.powerFault slot .trainTimeout)) := rfl

@[simp] theorem Part.after_admitDelayExpiry (slot : Slot) (p : Part) :
    p.after (.admitDelayExpiry slot) = p.whenDue (Part.admitDue · slot) (Part.slotEvent (Part.admitSlot slot)) := rfl

@[simp] theorem Part.after_removingEnd (slot : Slot) (p : Part) :
    p.after (.removingEnd slot) = p.whenDue (Part.removingDue · slot) (Part.slotEvent (Part.leaveRemoving slot)) := rfl

@[simp] theorem Part.after_heartbeatWindowExpiry (slot : Slot) (p : Part) :
    p.after (.heartbeatWindowExpiry slot) =
      p.whenDue (Part.heartbeatDue · slot) (Part.slotEvent (Part.loseHeartbeat slot .heartbeatLost)) := rfl

@[simp] theorem Part.after_referencePulse (ref : RefId) (p : Part) :
    p.after (.referencePulse ref) = p.whileRunning (Part.referencePulse ref) := rfl

@[simp] theorem Part.after_miss (ref : RefId) (p : Part) :
    p.after (.miss ref) = p.whenDue (Part.missDue · ref) fun p => p.takeMiss ref := rfl

@[simp] theorem Part.after_holdoverLimit (p : Part) :
    p.after .holdoverLimit =
      p.whenDue Part.holdoverDue fun p =>
        Part.report clockPoints { p with clock := { p.clock with holdoverReached := true } } := rfl

@[simp] theorem Part.after_secondTurnover (p : Part) :
    p.after .secondTurnover = if p.turnoverDue then p.turnover else p := rfl

@[simp] theorem Part.after_tick (kind : TickKind) (p : Part) :
    p.after (.tick kind) = p.whenDue (Part.tickDue · kind) fun p => (p.emitTick kind 1).settleExchange p.engine := rfl

@[simp] theorem Part.after_gateOpenDelayExpiry (gate : GateNo) (p : Part) :
    p.after (.gateOpenDelayExpiry gate) =
      p.whenDue (Part.gateDelayDue · gate) fun p =>
        (p.modGate gate fun g => g.openNow p.plan.gates[gate] p.clock.state p.now).settleExchange p.engine := rfl

@[simp] theorem Part.after_gateWindowExpiry (gate : GateNo) (p : Part) :
    p.after (.gateWindowExpiry gate) =
      p.whenDue (Part.gateWindowDue · gate) fun p =>
        (p.modGate gate fun g => { g with state := .closed }).settleExchange p.engine := rfl

@[simp] theorem Part.after_strobeBegin (slot : Slot) (p : Part) :
    p.after (.strobeBegin slot) =
      p.whenDue (Part.strobeBeginDue · slot) fun p =>
        p.modPort slot fun x => { x with strobe := { x.strobe with pending := none, driven := some p.osc } } := rfl

@[simp] theorem Part.after_strobeEnd (slot : Slot) (p : Part) :
    p.after (.strobeEnd slot) =
      p.whenDue (Part.strobeEndDue · slot) fun p =>
        p.modPort slot fun x => { x with strobe := { x.strobe with driven := none } } := rfl

@[simp] theorem Part.after_envChange (input : Fin 8) (level : Contact) (p : Part) :
    p.after (.envChange input level) =
    Part.whileRunning (Part.report [envPoint input]) { p with env := modify p.env input fun _ => level } := rfl

@[simp] theorem Part.after_raiseTimerExpiry (point : Point) (p : Part) :
    p.after (.raiseTimerExpiry point) = p.whenDue (Part.raiseDue · point) fun p => p.raisePoint point := rfl

@[simp] theorem Part.after_clearTimerExpiry (point : Point) (p : Part) :
    p.after (.clearTimerExpiry point) = p.whenDue (Part.clearDue · point) fun p => p.clearPoint point := rfl

@[simp] theorem Part.after_eventHoldExpiry (point : Point) (p : Part) :
    p.after (.eventHoldExpiry point) = p.whenDue (Part.eventHoldDue · point) fun p => p.endHold point := rfl

@[simp] theorem Part.after_statusRecordBegin (p : Part) :
    p.after .statusRecordBegin = p.whenDue Part.recordDue Part.beginLowest := rfl

@[simp] theorem Part.after_powerOnReset (p : Part) :
    p.after .powerOnReset =
    p.underReset .powerOn { p.control with supplyLow := true, dip := none } := rfl

@[simp] theorem Part.after_supplyFall (p : Part) :
    p.after .supplyFall = { p with control := p.control.supplyFalls } := rfl

@[simp] theorem Part.after_supplyReturn (p : Part) :
    p.after .supplyReturn =
    { p with control := { p.control with supplyLow := false, dip := none } } := rfl

@[simp] theorem Part.after_supplyDipReset (p : Part) :
    p.after .supplyDipReset =
    if p.dipDue then p.underReset p.control.dipKind { p.control with dip := none } else p := rfl

@[simp] theorem Part.after_resetPinAssert (p : Part) :
    p.after .resetPinAssert =
    if p.running then p.underReset .resetPin { p.control with pinLow := true }
    else { p with control := { p.control with pinLow := true } } := rfl

@[simp] theorem Part.after_resetEnd (p : Part) : p.after .resetEnd = p.releasePin.startIfOver := rfl

/-! ### A grant and the rest of the machine -/

/-- Memory after a write at most, as every grant leaves it (R13). -/
def State.Stores (s t : State) : Prop := t.memory = s.memory ∨ ∃ a l, t.memory = s.memory.write a l

theorem State.stores_grantRequest (n : Slot) (q : Request) (rest : List Request) (s : State) :
    s.Stores (s.grantRequest n q rest) := by
  unfold State.grantRequest
  cases q.body with
  | read len => exact .inl rfl
  | write data => exact .inr ⟨q.first, data, rfl⟩

theorem State.stores_grantCard (n : Slot) (s : State) : s.Stores (s.grantCard n) := by
  unfold State.grantCard
  dsimp only
  split
  · exact .inl rfl
  · split
    · exact State.stores_grantRequest _ _ _ (s.modPart _)
    · exact .inl rfl

theorem State.stores_grantWriter (s : State) : s.Stores s.grantWriter := by
  unfold State.grantWriter State.Stores
  dsimp only
  split
  · simp only [State.modPart_memory, State.store_memory]
    exact .inr ⟨_, _, rfl⟩
  · split
    · simp only [State.modPart_memory, State.store_memory]
      exact .inr ⟨_, _, rfl⟩
    · exact .inl rfl
  · exact .inl rfl

theorem State.stores_grantEngine (s : State) : s.Stores s.grantEngine := by
  unfold State.grantEngine State.Stores
  dsimp only
  split <;> simp only [State.modPart_memory, State.store_memory, State.launch_memory]
  case h_1 | h_4 | h_5 => exact .inr ⟨_, _, rfl⟩
  all_goals exact .inl trivial

/-- A grant writes bytes at consecutive addresses, or nothing (R13). -/
theorem State.stores_grant (s : State) : s.Stores s.grant := by
  unfold State.grant
  split
  · exact State.stores_grantCard _ _
  · exact State.stores_grantWriter (s.internalGranted)
  · exact State.stores_grantEngine (s.internalGranted)
  · exact .inl rfl
  · exact .inl rfl

theorem State.grantRequest_pending (n : Slot) (q : Request) (rest : List Request) (s : State) :
    (s.grantRequest n q rest).pending = s.pending := by
  unfold State.grantRequest
  cases q.body <;> rfl

theorem State.grantCard_pending (n : Slot) (s : State) : (s.grantCard n).pending = s.pending := by
  unfold State.grantCard
  dsimp only
  split
  · rfl
  · split
    · exact State.grantRequest_pending _ _ _ (s.modPart _)
    · rfl

theorem State.grantWriter_pending (s : State) : s.grantWriter.pending = s.pending := by
  unfold State.grantWriter
  dsimp only
  split
  · simp only [State.modPart_pending, State.store_pending]
  · split <;> simp only [State.modPart_pending, State.store_pending]
  · rfl

theorem State.grantEngine_pending (s : State) : s.grantEngine.pending = s.pending := by
  unfold State.grantEngine
  dsimp only
  split <;> simp only [State.modPart_pending, State.store_pending, State.launch_pending]

theorem State.grant_pending (s : State) : s.grant.pending = s.pending := by
  unfold State.grant
  split
  · exact State.grantCard_pending _ s
  · exact State.grantWriter_pending s.internalGranted
  · exact State.grantEngine_pending s.internalGranted
  · rfl
  · rfl

/-! ### Steps -/

/-- What a step can do, from the state with the queue it leaves: a command other than ACCESS_GRANT, a grant, a response sent, or
one oscillator period. -/
inductive StepKind (u : State) : State → Prop
  | command {c : Instr} : c ≠ .accessGrant → StepKind u (u.modPart (Part.after c))
  | grant : u.part.running = true → StepKind u u.grant
  | nothing : StepKind u u
  | send (n : Slot) : StepKind u (u.modPart (Part.modPort n Port.sendOldest))
  | advance : StepKind u (u.modPart Part.advance)

theorem StepKind.of_exec {c : Instr} {u t : State} (h : exec c u = .next t) : StepKind u t := by
  by_cases grant : c = .accessGrant
  · subst grant
    by_cases running : u.part.running = true
    · rw [exec_accessGrant_of_running running] at h
      cases h
      exact .grant running
    · rw [show exec .accessGrant u = .next u from congrArg _ (if_neg running)] at h
      cases h
      exact .nothing
  · rw [exec_eq_after grant] at h
    cases h
    exact .command grant

theorem step_cases {s t : State} (h : step s = .next t) :
    ∃ u : State, u.part = s.part ∧ u.memory = s.memory ∧ StepKind u t := by
  unfold step at h
  split at h
  · refine ⟨s, rfl, rfl, ?_⟩
    unfold idle at h
    split at h
    · exact .of_exec h
    · split at h
      · cases h
        exact .send _
      · split at h
        · exact .of_exec h
        · cases h
          exact .advance
  · rename_i c rest _
    exact ⟨{ s with pending := rest }, rfl, rfl, .of_exec h⟩

/-- What every command, every grant, the sending of a response and the passing of a period keep of the part, a step keeps. -/
theorem step_keeps {P : Part → Prop} (command : ∀ c p, c ≠ .accessGrant → P p → P (p.after c))
    (grant : ∀ s : State, s.part.running = true → P s.part → P s.grant.part)
    (send : ∀ n p, P p → P (p.modPort n Port.sendOldest)) (advance : ∀ p : Part, P p → P p.advance) {s t : State}
    (hs : P s.part) (h : step s = .next t) : P t.part := by
  obtain ⟨u, part, -, kind⟩ := step_cases h
  rw [← part] at hs
  cases kind with
  | command ne => exact command _ _ ne hs
  | grant running => exact grant u running hs
  | nothing => exact hs
  | send n => exact send n _ hs
  | advance => exact advance _ hs

/-! ### The machine as a whole -/

/-- Settles O1: by the definition of a step. -/
theorem stepRunsFrontCommand : Obligations.StepRunsFrontCommand := by
  unfold Obligations.StepRunsFrontCommand
  intro c s
  rfl

/-- Settles O2: a command other than ACCESS_GRANT is a function of the part, and a grant keeps the queue. -/
theorem everyCommandAnswersNext : Obligations.EveryCommandAnswersNext := by
  unfold Obligations.EveryCommandAnswersNext
  intro c s
  by_cases grant : c = .accessGrant
  · subst grant
    refine ⟨_, rfl, ?_, fun ne => absurd rfl ne⟩
    split
    · exact State.grant_pending s
    · rfl
  · exact ⟨_, exec_eq_after grant s, rfl, fun _ => rfl⟩

/-- Settles O4: only a grant changes memory, by a write, and writes keep the canonical form. -/
theorem stepKeepsMemoryCanonical : Obligations.StepKeepsMemoryCanonical := by
  unfold Obligations.StepKeepsMemoryCanonical
  intro s t canonical h
  obtain ⟨u, -, memory, kind⟩ := step_cases h
  have wf : u.memory.wf = true := by rw [memory]; exact canonical
  cases kind with
  | grant =>
    unfold State.canonical
    rcases State.stores_grant u with same | ⟨a, l, stored⟩
    · rw [same]
      exact wf
    · rw [stored]
      exact Memory.wf_write wf a l
  | command | nothing | send | advance => exact wf

theorem State.modPart_eq_self {f : Part → Part} {s : State} (h : f s.part = s.part) : s.modPart f = s := by
  unfold State.modPart
  rw [h]

/-- While a reset lasts a command that is not the pins', the supply's, a reset's or time's leaves the part alone (R192). -/
theorem Part.after_of_reset {c : Instr} {p : Part} (resetting : p.running = false)
    (affected : match c with
      | .presenceLevelChange _ _ | .pwrgdAsserted _ | .pwrgdDeasserted _ | .envChange _ _ | .secondTurnover
      | .powerOnReset | .supplyFall | .supplyReturn | .supplyDipReset | .resetPinAssert | .resetEnd | .accessGrant => False
      | _ => True) : p.after c = p := by
  cases c
  case presenceLevelChange | pwrgdAsserted | pwrgdDeasserted | envChange | secondTurnover | powerOnReset | supplyFall
    | supplyReturn | supplyDipReset | resetPinAssert | resetEnd | accessGrant => exact affected.elim
  all_goals simp [Part.whileRunning_of_reset resetting, Part.whenDue_of_reset resetting]

/-- Settles O3: during a reset `Part.whileRunning` does nothing, and a timer's event tests its condition first. -/
theorem commandsWaitForResetAndDueTime : Obligations.CommandsWaitForResetAndDueTime := by
  unfold Obligations.CommandsWaitForResetAndDueTime
  intro c s
  constructor
  · intro resetting affected
    by_cases grant : c = .accessGrant
    · subst grant
      exact congrArg Host.Outcome.next (if_neg (ne_true_of_eq_false resetting))
    · rw [exec_eq_after grant, State.modPart_eq_self]
      apply Part.after_of_reset resetting
      cases c <;> trivial
  · intro early
    have grant : c ≠ .accessGrant := by
      rintro rfl
      exact early
    rw [exec_eq_after grant, State.modPart_eq_self]
    cases c
    case secondTurnover =>
      rw [Part.after_secondTurnover, if_neg (ne_true_of_eq_false early)]
    case supplyDipReset =>
      rw [Part.after_supplyDipReset, if_neg (ne_true_of_eq_false early)]
    case settlement | presenceFound | presenceLost | powerGoodLimitExpiry | trainingLimitExpiry | admitDelayExpiry
      | removingEnd | heartbeatWindowExpiry | activation | serviceChoice | holdExpired | miss | holdoverLimit | tick
      | gateOpenDelayExpiry | gateWindowExpiry | strobeBegin | strobeEnd | raiseTimerExpiry | clearTimerExpiry
      | eventHoldExpiry | statusRecordBegin =>
      dsimp only at early
      simp [Part.whenDue_of_not_due, early]
    all_goals exact early.elim

end Sys2Proof.Machine
end


section
/-! PROOFS. What the arrival checks let through and what they refuse (R5–R8, R22–R25), and the layout of a plan that passes the
structural checks (Table 3-8). -/
namespace Sys2Proof.Machine

/-! ### The arrival checks, test by test (R5) -/

theorem Request.covers_le_last {q : Request} {a : Nat} (h : q.covers a) : q.first ≤ a ∧ a ≤ q.last := by
  obtain ⟨low, high⟩ := h
  unfold Request.last
  omega

/-- Where test 5 or 6 of R5 judges a request. -/
def placeRule (plan : Plan) (n : Slot) (q : Request) : Option Reason :=
  if q.first < Config.controlEnd then controlRule n q else windowRule plan n q

theorem ite_some_eq_none_iff {α : Type} {c : Prop} [Decidable c] {a : α} {o : Option α} :
    (if c then some a else o) = none ↔ ¬ c ∧ o = none := by
  split <;> simp_all

theorem arrivalCheck_eq_none_iff {plan : Plan} {x : Port} {n : Slot} {q : Request} :
    arrivalCheck plan x n q = none ↔
      x.judges q ∧ (x.state = .quarantine ∨ x.state = .admitting → beforeAdmission n q = true)
        ∧ placeRule plan n q = none := by
  unfold arrivalCheck Port.judges placeRule
  simp only [ite_some_eq_none_iff]
  cases hf : q.formed <;> cases hb : beforeAdmission n q <;> simp [and_assoc]

theorem arrivalCheck_of_closed {plan : Plan} {x : Port} {n : Slot} {q : Request}
    (h : ¬ (x.state ≠ .fenced ∧ x.state ≠ .removing)) : arrivalCheck plan x n q = some .fenced := by
  have closed : (x.state == .fenced || x.state == .removing) = true := by
    rw [Bool.or_eq_true, beq_iff_eq, beq_iff_eq]
    exact Decidable.or_iff_not_not_and_not.mpr h
  unfold arrivalCheck
  rw [if_pos closed]

theorem arrivalCheck_of_busy {plan : Plan} {x : Port} {n : Slot} {q : Request} (opens : x.state ≠ .fenced ∧ x.state ≠ .removing)
    (busy : q.tag ∈ x.tags) : arrivalCheck plan x n q = some .tagBusy := by
  simp [arrivalCheck, opens, busy]

theorem arrivalCheck_of_unformed {plan : Plan} {x : Port} {n : Slot} {q : Request}
    (opens : x.state ≠ .fenced ∧ x.state ≠ .removing) (free : q.tag ∉ x.tags) (form : q.formed = false) :
    arrivalCheck plan x n q = some .boundary := by
  simp [arrivalCheck, opens, free, form]

theorem Request.inOneBlock_eq_true_iff {q : Request} :
    q.inOneBlock = true ↔ 1 ≤ q.length ∧ q.first / 64 = (q.first + q.length - 1) / 64 := by
  simp only [Request.inOneBlock, Request.last, Bool.and_eq_true, decide_eq_true_eq, beq_iff_eq]
  refine and_congr_right fun some => ?_
  rw [Nat.add_sub_assoc some]

/-- The form R1 asks of a request: a READ is aligned and whole words, and any request is 1 to 64 bytes of one 64-byte block. -/
theorem Request.formed_eq_true_iff {q : Request} :
    q.formed = true ↔ (q.isRead = true → q.first % 4 = 0 ∧ q.length % 4 = 0) ∧ 1 ≤ q.length ∧ q.length ≤ 64
      ∧ q.first / 64 = (q.first + q.length - 1) / 64 := by
  have block := q.inOneBlock_eq_true_iff
  obtain ⟨tag, addr, body⟩ := q
  cases body with
  | read len =>
    simp only [Request.formed, Bool.and_eq_true, block, beq_iff_eq, decide_eq_true_eq]
    show _ ↔ (true = true → addr.toNat % 4 = 0 ∧ len % 4 = 0) ∧ 1 ≤ len ∧ len ≤ 64 ∧ _
    constructor
    · rintro ⟨⟨⟨⟨first, whole⟩, -⟩, high⟩, bytes, block⟩
      exact ⟨fun _ => ⟨first, whole⟩, bytes, high, block⟩
    · rintro ⟨read, bytes, high, block⟩
      obtain ⟨first, whole⟩ := read rfl
      exact ⟨⟨⟨⟨first, whole⟩, by omega⟩, high⟩, bytes, block⟩
  | write data =>
    simp only [Request.formed, Bool.and_eq_true, block, decide_eq_true_eq]
    show _ ↔ (false = true → _) ∧ 1 ≤ data.length ∧ data.length ≤ 64 ∧ _
    constructor
    · rintro ⟨high, bytes, block⟩
      exact ⟨nofun, bytes, high, block⟩
    · rintro ⟨-, bytes, high, block⟩
      exact ⟨high, bytes, block⟩

theorem Request.length_pos_of_formed {q : Request} (h : q.formed = true) : 1 ≤ q.length :=
  (Request.formed_eq_true_iff.mp h).2.1

/-! ### The control region (Table 1-2) -/

theorem regionOf_plan {a : Nat} (high : a < 0x10000) : regionOf a = .plan := by
  unfold regionOf Config.controlEnd
  rw [if_neg (by omega), if_pos high]

theorem regionOf_command {a : Nat} (low : 0x10000 ≤ a) (high : a < 0x10100) : regionOf a = .command := by
  unfold regionOf Config.controlEnd
  rw [if_neg (by omega), if_neg (by omega), if_pos high]

theorem regionOf_unused {a : Nat}
    (h : (0x10100 ≤ a ∧ a < 0x20000) ∨ (0x30C00 ≤ a ∧ a < 0x31000) ∨ (0x31300 ≤ a ∧ a < 0x40000)) :
    regionOf a = .unused := by
  unfold regionOf Config.controlEnd
  rw [if_neg (by omega), if_neg (by omega), if_neg (by omega)]
  rcases h with between | between | between
  · rw [if_pos (by omega)]
  · rw [if_neg (by omega), if_neg (by omega), dif_neg (by omega), if_pos (by omega)]
  · rw [if_neg (by omega), if_neg (by omega), dif_neg (by omega), if_neg (by omega), dif_neg (by omega)]

/-- The addresses of a part of exchange memory that a WRITE may reach (Table 1-2). -/
def Region.bounds : Region → Nat → Prop
  | .plan, a => a < 0x10000
  | .command, a => 0x10000 ≤ a ∧ a < 0x10100
  | .ringBlock n, a => ringBlockBase n ≤ a ∧ a < ringBlockBase n + 0x100
  | .admitArea n, a => admitBase n ≤ a ∧ a < admitBase n + 0x40
  | .outside, a => Config.controlEnd ≤ a
  | .status, _ | .unused, _ => True

theorem regionOf_bounds (a : Nat) : (regionOf a).bounds a := by
  unfold regionOf
  repeat' split
  all_goals simp only [Region.bounds, ringBlockBase, admitBase]
  all_goals omega

/-- The control-region rules for a WRITE name the parts it may begin in (R7, R8, R25). -/
theorem controlRule_eq_none_of_write {n : Slot} {q : Request} (write : q.isRead = false) (h : controlRule n q = none) :
    (n = 0 ∧ (regionOf q.first = .plan ∨ regionOf q.first = .command)) ∨ regionOf q.first = .ringBlock n
      ∨ regionOf q.first = .admitArea n ∨ regionOf q.first = .outside := by
  unfold controlRule at h
  split at h
  case h_4 part =>
    split at h
    · cases h
    · next same => exact .inr (.inl (by rw [part, Classical.not_not.mp (mt bne_iff_ne.mpr same)]))
  all_goals simp_all [Fin.val_eq_zero_iff]

/-- Settles O21: a WRITE lies in one 64-byte block, so in the part of the control region it begins in. -/
theorem acceptedWriteKeepsToItsControlWords : Obligations.AcceptedWriteKeepsToItsControlWords := by
  unfold Obligations.AcceptedWriteKeepsToItsControlWords
  intro plan x n tag addr data a q accepted covered
  obtain ⟨⟨-, -, -, formed⟩, -, rule⟩ := arrivalCheck_eq_none_iff.mp accepted
  obtain ⟨low, high⟩ := Request.covers_le_last covered
  have write : ¬ q.isRead = true := Bool.false_ne_true
  have within : ∀ bound, bound % 64 = 0 → q.first < bound → a < bound := fun bound aligned below =>
    Nat.lt_of_le_of_lt high (Request.last_lt_of_first_lt formed aligned below)
  unfold placeRule at rule
  split at rule
  case isFalse beyond => exact .inl (Nat.le_trans (Nat.le_of_not_lt beyond) low)
  case isTrue =>
    have bounds := regionOf_bounds q.first
    rcases controlRule_eq_none_of_write rfl rule with ⟨zero, part | part⟩ | part | part | part <;>
      rw [part] at bounds
    · exact .inr (.inl ⟨zero, within _ (by decide) (Nat.lt_trans bounds (by decide))⟩)
    · exact .inr (.inl ⟨zero, within _ (by decide) bounds.2⟩)
    · rw [controlRule_of_ringBlock part bounds.1, if_neg write] at rule
      refine .inr (.inr (.inl ?_))
      rw [ite_some_eq_none_iff, ite_some_eq_none_iff] at rule
      obtain ⟨inWords, offOwned, -⟩ := rule
      have begins : ringBlockBase n ≤ q.first := bounds.1
      omega
    · refine .inr (.inr (.inr ⟨Nat.le_trans bounds.1 low, within _ ?_ bounds.2⟩))
      unfold admitBase
      omega
    · exact .inl (Nat.le_trans bounds low)

/-! ### Isolation beyond the control region (R22–R24) -/

theorem Plan.controlEnd_le_of_inRing {plan : Plan} (laid : plan.laidOut) {r : RingNo} {a : Nat} (h : plan.inRing r a) :
    Config.controlEnd ≤ a := by
  obtain ⟨present, low, -⟩ := h
  obtain ⟨rings, -, -⟩ := laid
  obtain ⟨-, ⟨beyond, -⟩, -⟩ := rings r present
  exact Nat.le_trans beyond low

/-- An address lies in one ring at most (R22). -/
theorem Plan.inRing_unique {plan : Plan} (laid : plan.laidOut) {r q : RingNo} {a : Nat} (hr : plan.inRing r a)
    (hq : plan.inRing q a) : r = q := by
  refine Classical.byContradiction fun ne => ?_
  obtain ⟨rings, -, -⟩ := laid
  obtain ⟨present, low, high⟩ := hr
  obtain ⟨present', low', high'⟩ := hq
  obtain ⟨-, -, apart⟩ := rings r present
  have := apart q (Ne.symm ne) present'
  unfold Apart at this
  omega

theorem Plan.ringAt_of_inRing {plan : Plan} (laid : plan.laidOut) {r : RingNo} {a : Nat} (h : plan.inRing r a) :
    plan.ringAt a = some r := by
  cases e : plan.ringAt a with
  | none => exact absurd h (Plan.ringAt_eq_none_iff.mp e r)
  | some q =>
    have found := List.find?_some e
    simp only [Bool.and_eq_true, decide_eq_true_eq] at found
    obtain ⟨⟨present, low⟩, high⟩ := found
    rw [Plan.inRing_unique laid ⟨present, low, high⟩ h]

/-- R24 for a request that begins in a ring: the ring's own slot, for WRITEs if it is an egress ring. -/
theorem windowRule_of_inRing {plan : Plan} (laid : plan.laidOut) (n : Slot) {q : Request} {r : RingNo}
    (h : plan.inRing r q.first) :
    windowRule plan n q = if ringSlot r = n ∧ (q.isRead = true ∨ isEgress r = true) then none else some .window := by
  have inMemory : ¬ plan.memorySize ≤ q.first := by
    obtain ⟨present, -, high⟩ := h
    obtain ⟨rings, -, -⟩ := laid
    obtain ⟨-, ⟨-, fits⟩, -⟩ := rings r present
    omega
  unfold windowRule
  rw [if_neg inMemory, Plan.ringAt_of_inRing laid h]
  simp

/-- R24 for a request that begins in exchange memory and in no ring. -/
theorem windowRule_of_no_ring {plan : Plan} (n : Slot) {q : Request} (inMemory : q.first < plan.memorySize)
    (noRing : ∀ r, ¬ plan.inRing r q.first) (noLog : plan.inLog q = false) :
    windowRule plan n q = if plan.windowGrants n q = true then none else some .window := by
  unfold windowRule
  rw [if_neg (Nat.not_le.mpr inMemory), Plan.ringAt_eq_none_iff.mpr noRing]
  simp [noLog]

/-- A request that a window covers meets no ring (R33). -/
theorem Plan.not_inRing_of_windowGrants {plan : Plan} (laid : plan.laidOut) {n : Slot} {q : Request} {a : Nat} {r : RingNo}
    (granted : plan.windowGrants n q = true) (low : q.first ≤ a) (high : a ≤ q.last) : ¬ plan.inRing r a := by
  rintro ⟨present, first, last⟩
  obtain ⟨w, size, covered, -⟩ := Plan.windowGrants_eq_true_iff.mp granted
  obtain ⟨-, windows, -⟩ := laid
  obtain ⟨-, -, -, apart, -⟩ := windows n w size
  have := apart r present
  rw [Request.within_eq_true_iff] at covered
  unfold Apart at this
  omega

/-- A request that meets the log area lies off every ring where it does so (R23). -/
theorem Plan.not_inRing_of_within_log {plan : Plan} (laid : plan.laidOut) {a : Nat} {r : RingNo}
    (low : plan.alarm.logBase ≤ a) (high : a < plan.alarm.logBase + 32 * plan.alarm.logCapacity) : ¬ plan.inRing r a := by
  rintro ⟨present, first, last⟩
  obtain ⟨-, -, log⟩ := laid
  obtain ⟨-, -, apart⟩ := log (by omega)
  have := apart r present
  unfold Apart at this
  omega

/-- What the window rules accept keeps to the rings of its slot (R22, R24). -/
theorem windowRule_keeps_to_rings {plan : Plan} (laid : plan.laidOut) {n : Slot} {q : Request} {a : Nat} {r : RingNo}
    (formed : q.formed = true) (h : windowRule plan n q = none) (low : q.first ≤ a) (high : a ≤ q.last)
    (inside : plan.inRing r a) : ringSlot r = n ∧ (q.isRead = true ∨ isEgress r = true) := by
  by_cases ring : ∃ r', plan.inRing r' q.first
  · obtain ⟨r', begins⟩ := ring
    have whole := Request.within_eq_true_iff.mp (Plan.within_of_inRing laid formed begins)
    have same : r' = r := Plan.inRing_unique laid ⟨begins.1, by omega, by omega⟩ inside
    subst same
    rw [windowRule_of_inRing laid n begins] at h
    refine Classical.byContradiction fun refused => ?_
    rw [if_neg refused] at h
    cases h
  · rw [not_exists] at ring
    unfold windowRule at h
    split at h
    · cases h
    rw [Plan.ringAt_eq_none_iff.mpr ring] at h
    dsimp only at h
    split at h
    case isTrue inLog =>
      obtain ⟨-, covered⟩ := Plan.inLog_eq_true_iff.mp inLog
      rw [Request.within_eq_true_iff] at covered
      exact absurd inside (Plan.not_inRing_of_within_log laid (by omega) (by omega))
    case isFalse =>
      split at h
      case isTrue granted => exact absurd inside (Plan.not_inRing_of_windowGrants laid granted low high)
      case isFalse => cases h

/-- Settles O22: in the control region there is no ring and no log, and beyond it the window rules keep to the slot's rings and
leave the log to slot 0's READs. -/
theorem acceptedRequestStaysOffOthersRings : Obligations.AcceptedRequestStaysOffOthersRings := by
  unfold Obligations.AcceptedRequestStaysOffOthersRings
  intro plan x n q a laid accepted covered
  obtain ⟨⟨-, -, -, formed⟩, -, rule⟩ := arrivalCheck_eq_none_iff.mp accepted
  obtain ⟨low, high⟩ := Request.covers_le_last covered
  unfold placeRule at rule
  split at rule
  case isTrue below =>
    have control : a < Config.controlEnd := Nat.lt_of_le_of_lt high (Request.last_lt_of_first_lt formed (by decide) below)
    constructor
    · intro r inside
      exact absurd (Plan.controlEnd_le_of_inRing laid inside) (Nat.not_le.mpr control)
    · rintro ⟨base, bound⟩
      obtain ⟨-, -, log⟩ := laid
      obtain ⟨-, ⟨beyond, -⟩, -⟩ := log (by omega)
      omega
  case isFalse =>
    refine ⟨fun r => windowRule_keeps_to_rings laid formed rule low high, ?_⟩
    rintro ⟨base, bound⟩
    rw [windowRule_of_meetsLog laid n formed ⟨by omega, by omega, by omega⟩] at rule
    refine Classical.byContradiction fun refused => ?_
    rw [if_neg fun h => refused ⟨h.1, h.2.1⟩] at rule
    cases rule

/-! ### The plan of an image that passes the structural checks (R43) -/

theorem Apart.symm_iff {base size base' size' : Nat} : Apart base size base' size' ↔ Apart base' size' base size := or_comm

/-- Check 3 passes at a ring: the ring lies in exchange memory, outside the control region and apart from the rings before it. -/
theorem ringFails_eq_false {img : PlanImage} {memory : Nat} {r : RingNo} (h : ringFails img memory r = false)
    (present : (rawRing img r).count ≠ 0) :
    (rawRing img r).base + 128 * (rawRing img r).count ≤ memory ∧ Config.controlEnd ≤ (rawRing img r).base
      ∧ ∀ q : RingNo, q.val < r.val → (rawRing img q).count ≠ 0 →
          Apart (rawRing img r).base (128 * (rawRing img r).count) (rawRing img q).base (128 * (rawRing img q).count) := by
  simp only [ringFails, bne_iff_ne.mpr present, Bool.true_and, Bool.or_eq_false_iff, decide_eq_false_iff_not, Nat.not_lt,
    anyFin_eq_false_iff, Bool.and_eq_false_imp, Bool.and_eq_true, decide_eq_true_eq, bne_iff_ne, overlap_eq_false_iff,
    and_imp] at h
  obtain ⟨⟨⟨-, inMemory⟩, beyond⟩, rings⟩ := h
  exact ⟨inMemory, beyond, rings⟩

/-- Check 4 passes at a window: the window lies in exchange memory, outside the control region and apart from every ring. -/
theorem windowFails_eq_false {img : PlanImage} {memory : Nat} {x : Window} (h : windowFails img memory x = false)
    (size : x.size ≠ 0) :
    x.base + x.size ≤ memory ∧ Config.controlEnd ≤ x.base
      ∧ ∀ q : RingNo, (rawRing img q).count ≠ 0 →
          Apart x.base x.size (rawRing img q).base (128 * (rawRing img q).count) := by
  simp only [windowFails, bne_iff_ne.mpr size, Bool.true_and, Bool.or_eq_false_iff, decide_eq_false_iff_not, Nat.not_lt,
    anyFin_eq_false_iff, Bool.and_eq_false_imp, bne_iff_ne, overlap_eq_false_iff] at h
  obtain ⟨⟨inMemory, beyond⟩, rings⟩ := h
  exact ⟨inMemory, beyond, rings⟩

/-- Every window has its number in check 4. -/
theorem windowNo_surjective (n : Slot) (w : Fin 6) : ∃ k, windowNo k = (n, w) := by
  refine ⟨⟨n.val * 6 + w.val, by omega⟩, Prod.ext (Fin.ext ?_) (Fin.ext ?_)⟩
  · show (n.val * 6 + w.val) / 6 = n.val
    omega
  · show (n.val * 6 + w.val) % 6 = w.val
    omega

theorem bootstrap_laidOut : Plan.bootstrap.laidOut := by
  have absent : ∀ r : RingNo, Plan.bootstrap.rings[r].present = false := fun r => by
    simp [Plan.bootstrap, RingPlan.present, RingPlan.absent]
  have noRing : ∀ {P : Prop} (r : RingNo), Plan.bootstrap.rings[r].present = true → P := fun r present =>
    absurd present (ne_true_of_eq_false (absent r))
  have noLog : ∀ {P : Prop}, Plan.bootstrap.alarm.logCapacity ≠ 0 → P := fun log => absurd rfl log
  refine ⟨fun r => noRing r, fun n w size => ?_, noLog⟩
  have window : Plan.bootstrap.slots[n].windows[w] =
      { base := 0x40000, size := 0x3FC0000, read := true, write := true } := by
    simp only [Plan.bootstrap, SlotPlan.bootstrap, getElem_tabulate, Fin.getElem_fin] at size ⊢
    split at size
    · next first => rw [if_pos first]
    · exact absurd rfl size
  rw [window]
  exact ⟨by decide, by decide, ⟨by decide, by decide⟩, fun r => noRing r, noLog⟩

theorem readPlan_laidOut {img : PlanImage} {g : Nat} (passes : structuralFault img g = none) : (readPlan img).1.laidOut := by
  obtain ⟨memory, memorySize, rings, windows, log⟩ := structuralFault_eq_none passes
  have size : (readPlan img).1.memorySize = memory := readPlan_memorySize memorySize
  have present : ∀ r : RingNo, (readPlan img).1.rings[r].present = true → (rawRing img r).count ≠ 0 := fun r h => by
    rwa [RingPlan.present, readPlan_ring_count, bne_iff_ne] at h
  have logParts : ∀ capacity : (readPlan img).1.alarm.logCapacity ≠ 0, _ := fun capacity =>
    logFails_eq_false log (readPlan_logCapacity img ▸ capacity)
  refine ⟨fun r hr => ?_, fun n w hw => ?_, fun capacity => ?_⟩
  · obtain ⟨inMemory, beyond, apart⟩ := ringFails_eq_false (rings r) (present r hr)
    simp only [RingPlan.areaSize, Plan.holdsArea, readPlan_ring_base, readPlan_ring_count, size]
    refine ⟨Nat.mul_mod_left _ _, ⟨beyond, inMemory⟩, fun q ne hq => ?_⟩
    rcases Nat.lt_or_gt_of_ne (Fin.val_ne_of_ne ne) with before | after
    · exact apart q before (present q hq)
    · obtain ⟨-, -, apart'⟩ := ringFails_eq_false (rings q) (present q hq)
      exact Apart.symm_iff.mp (apart' r after (present r hr))
  · obtain ⟨k, number⟩ := windowNo_surjective n w
    have passed := windows k
    rw [number] at passed
    rw [readPlan_window] at hw ⊢
    obtain ⟨inMemory, beyond, apart⟩ := windowFails_eq_false passed hw
    simp only [RingPlan.areaSize, Plan.holdsArea, readPlan_ring_base, readPlan_ring_count, size]
    refine ⟨Nat.mul_mod_left _ _, Nat.mul_mod_left _ _, ⟨beyond, inMemory⟩, fun r hr => apart r (present r hr),
      fun capacity => ?_⟩
    obtain ⟨-, -, -, offWindows⟩ := logParts capacity
    rw [readPlan_logBase capacity]
    exact Apart.symm_iff.mp (offWindows n w hw)
  · obtain ⟨beyond, inMemory, offRings, -⟩ := logParts capacity
    rw [readPlan_logBase capacity]
    simp only [RingPlan.areaSize, Plan.holdsArea, readPlan_ring_base, readPlan_ring_count, size]
    exact ⟨Nat.mul_mod_left _ _, ⟨beyond, inMemory⟩, fun r hr => offRings r (present r hr)⟩

/-- Settles O23: checks 3, 4 and 6 of Table 3-8 are the clauses of the layout, and the bootstrap plan has one window. -/
theorem checkedPlanIsLaidOut : Obligations.CheckedPlanIsLaidOut := by
  unfold Obligations.CheckedPlanIsLaidOut
  exact ⟨bootstrap_laidOut, fun img g passes => readPlan_laidOut passes⟩

/-! ### Requests of an ADMITTED slot, place by place (R7, R8, R22, R24) -/

theorem controlRule_of_plan {n : Slot} {q : Request} (h : regionOf q.first = .plan) :
    controlRule n q = if q.isRead = true ∨ n = 0 then none else some .control := by
  simp [controlRule, h, Fin.val_eq_zero_iff]

theorem controlRule_of_command {n : Slot} {q : Request} (h : regionOf q.first = .command) :
    controlRule n q = if n = 0 then none else some .control := by
  simp [controlRule, h, Fin.val_eq_zero_iff]

theorem controlRule_of_statusArea {n : Slot} {q : Request} (h : regionOf q.first = .status) :
    controlRule n q = if q.isRead = true then none else some .control := by
  simp [controlRule, h]

theorem controlRule_of_unused {n : Slot} {q : Request} (h : regionOf q.first = .unused) :
    controlRule n q = some .control := by
  simp [controlRule, h]

/-- R8: another slot's ring index block and admission area are closed. -/
theorem controlRule_of_other {n m : Slot} (ne : m ≠ n) {q : Request}
    (h : regionOf q.first = .ringBlock m ∨ regionOf q.first = .admitArea m) : controlRule n q = some .control := by
  rcases h with part | part <;> simp [controlRule, part, ne]

/-- A window of slot `n` covers `size` bytes from `a` with the right the request needs (R21, R24). -/
theorem Plan.windowGrants_iff_covers {plan : Plan} {n : Slot} {q : Request} (bytes : 1 ≤ q.length) :
    plan.windowGrants n q = true ↔ ∃ w : Fin 6, plan.slots[n].windows[w].size ≠ 0
      ∧ plan.slots[n].windows[w].base ≤ q.first
      ∧ q.first + q.length ≤ plan.slots[n].windows[w].base + plan.slots[n].windows[w].size
      ∧ (if q.isRead = true then plan.slots[n].windows[w].read else plan.slots[n].windows[w].write) = true := by
  rw [Plan.windowGrants_eq_true_iff]
  refine exists_congr fun w => and_congr_right fun _ => ?_
  rw [Request.within_eq_true_iff, and_assoc]
  refine and_congr_right fun _ => and_congr_left fun _ => ?_
  unfold Request.last
  omega

/-- A request that ends before the log area or begins after it does not lie in the log. -/
theorem Plan.inLog_eq_false_of_apart {plan : Plan} {q : Request} (bytes : 1 ≤ q.length)
    (apart : q.first + q.length ≤ plan.alarm.logBase ∨ plan.alarm.logBase + 32 * plan.alarm.logCapacity ≤ q.first) :
    plan.inLog q = false := by
  rw [Bool.eq_false_iff, Ne, Plan.inLog_eq_true_iff, Request.within_eq_true_iff]
  unfold Request.last
  omega

/-- Settles O15: the tests of R5 in their order, then the rule of the place the request begins in. -/
theorem requestsAreDecidedTestByTest : Obligations.RequestsAreDecidedTestByTest := by
  unfold Obligations.RequestsAreDecidedTestByTest
  intro plan x n q a size formed outcome opens
  have first : q.first = a := rfl
  have form : q.formed = true ↔ formed := Request.formed_eq_true_iff
  refine ⟨arrivalCheck_of_closed, arrivalCheck_of_busy, fun open_ free bad => ?_, ?_, fun judged admitted => ?_⟩
  · exact arrivalCheck_of_unformed open_ free (Bool.eq_false_iff.mpr (mt form.mp bad))
  · rw [← form]
    unfold Port.judges
    rw [← and_assoc]
  have bytes : 1 ≤ q.length := Request.length_pos_of_formed judged.2.2.2
  have control : a < 0x40000 → outcome = controlRule n q := fun below =>
    (arrivalCheck_of_judges_admitted judged admitted).trans (if_pos below)
  have beyond : 0x40000 ≤ a → outcome = windowRule plan n q := fun beyond =>
    (arrivalCheck_of_judges_admitted judged admitted).trans (if_neg (Nat.not_lt.mpr beyond))
  refine ⟨fun high => ?_, fun low high => ?_, fun low high => ?_, fun unused => ?_, fun m ne place => ?_,
    fun laid out => ⟨fun above => ?_, fun r inside => ?_, fun inMemory noRing apart => ?_⟩⟩
  · rw [control (by omega), controlRule_of_plan (regionOf_plan high)]
  · rw [control (by omega), controlRule_of_command (regionOf_command low high)]
  · rw [control (by omega), controlRule_of_statusArea (regionOf_status low high)]
  · rw [control (by omega), controlRule_of_unused (regionOf_unused unused)]
  · rw [control (by omega), controlRule_of_other ne]
    rcases place with ⟨low, high⟩ | ⟨low, high⟩
    · exact .inl (regionOf_ringBlock low (by unfold ringBlockBase; rw [first]; omega))
    · exact .inr (regionOf_admitArea low (by unfold admitBase; rw [first]; omega))
  · rw [beyond out]
    unfold windowRule
    rw [first, if_pos above]
  · rw [beyond out, windowRule_of_inRing laid n inside]
  · rw [beyond out, windowRule_of_no_ring n inMemory noRing (Plan.inLog_eq_false_of_apart bytes apart)]
    simp only [Plan.windowGrants_iff_covers bytes]
    rfl

/-! ### A request that arrives (R2–R6) -/

/-- Without a trained link or a credit no request arrives (R4). -/
theorem Part.arrive_of_no_credit {p : Part} {n : Slot} (h : p.ports[n].link = false ∨ p.ports[n].credits = 0) (q : Request) :
    p.arrive n q = p := by
  have none : ¬ (p.ports[n].link && p.ports[n].credits != 0) = true := by
    rcases h with e | e <;> rw [e] <;> simp
  unfold Part.arrive
  rw [if_neg none]

theorem Part.arrive_of_accepted {p : Part} {n : Slot} {q : Request} (link : p.ports[n].link = true)
    (credit : p.ports[n].credits ≠ 0) (accepted : arrivalCheck p.plan p.ports[n] n q = none) : p.arrive n q = p.accept n q := by
  have carries : (p.ports[n].link && p.ports[n].credits != 0) = true := by
    rw [link, Bool.true_and]
    exact bne_iff_ne.mpr credit
  unfold Part.arrive
  rw [if_pos carries, accepted]

/-- A refusal that is no access violation changes its port alone (R6). -/
theorem Part.refuse_of_not_violation (n : Slot) (q : Request) {why : Reason} (h : why.isViolation = false) (p : Part) :
    p.refuse n q why = if p.ports[n].state = .removing ∧ Config.removingRefusalSent = false then p
      else p.modPort n (Port.sendNow (.refusal q.tag why)) := by
  unfold Part.refuse
  dsimp only
  rw [h, if_neg Bool.false_ne_true]

theorem exec_command_of_running {s : State} (running : s.part.running = true) (q : Request) (n : Slot) :
    exec (q.command n) s = .next (s.modPart (Part.arrive n q)) := by
  rw [exec_command, State.modPart, Part.whileRunning_of_running running]
  rfl

/-- A change of the part that is another one on the part at hand is that other one. -/
theorem State.modPart_congr {f g : Part → Part} {s : State} (h : f s.part = g s.part) : s.modPart f = s.modPart g := by
  unfold State.modPart
  rw [h]

/-- Settles O16: by what the arrival checks make of the request. -/
theorem arrivingRequestIsQueuedOrAnswered : Obligations.ArrivingRequestIsQueuedOrAnswered := by
  unfold Obligations.ArrivingRequestIsQueuedOrAnswered
  intro s n q running
  simp only [exec_command_of_running running]
  refine ⟨fun h => ?_, fun link credit accepted => ?_, fun why link credit refused noViolation => ?_⟩
  · rw [State.modPart_eq_self (Part.arrive_of_no_credit h q)]
  · rw [State.modPart_congr (Part.arrive_of_accepted link credit accepted)]
    rfl
  · have answered := (Part.arrive_of_refused link credit refused).trans (Part.refuse_of_not_violation n q noViolation s.part)
    split
    case isTrue removing =>
      by_cases silent : Config.removingRefusalSent = false
      · rw [if_pos ⟨removing, silent⟩] at answered
        exact .inl (congrArg _ (State.modPart_eq_self answered))
      · rw [if_neg fun h => silent h.2] at answered
        exact .inr (congrArg _ (State.modPart_congr answered))
    case isFalse other =>
      rw [if_neg fun h => other h.1] at answered
      exact congrArg _ (State.modPart_congr answered)

end Sys2Proof.Machine
end


section
/-! PROOFS. The memory port (R9, R13–R19, R182, R190): the arbiter's choice, and what a granted access of a card, the plan loader
or the status writer does. -/
namespace Sys2Proof.Machine

/-! ### The first of a range, and the first in cyclic order -/

theorem firstFin_eq_some_iff {n : Nat} {p : Fin n → Bool} {i : Fin n} :
    firstFin n p = some i ↔ p i = true ∧ ∀ j : Fin n, j.val < i.val → p j = false := by
  unfold firstFin
  rw [List.find?_eq_some_iff_getElem]
  refine and_congr_right fun _ => ⟨?_, fun before => ?_⟩
  · rintro ⟨k, bound, found, before⟩ j below
    rw [List.getElem_finRange] at found
    subst found
    simpa using before j.val below
  · refine ⟨i.val, by simp, by simp, fun j below => ?_⟩
    simpa using before ⟨j, by omega⟩ below

/-- How far slot `n` stands behind the slot after `last` in ascending cyclic order (R14, R107). -/
def cyclicRank (last n : Slot) : Fin 12 := ⟨(n.val + 11 - last.val) % 12, Nat.mod_lt _ (by decide)⟩

theorem cyclicAfter_cyclicRank (last n : Slot) : cyclicAfter last (cyclicRank last n) = n := by
  apply Fin.ext
  show (last.val + 1 + (n.val + 11 - last.val) % 12) % 12 = n.val
  omega

theorem cyclicRank_cyclicAfter (last : Slot) (k : Fin 12) : cyclicRank last (cyclicAfter last k) = k := by
  apply Fin.ext
  show ((last.val + 1 + k.val) % 12 + 11 - last.val) % 12 = k.val
  omega

theorem firstAfter_eq_some_iff {last n : Slot} {w : Slot → Bool} :
    firstAfter last w = some n ↔
      w n = true ∧ ∀ k : Slot, w k = true →
        (n.val + 11 - last.val) % 12 ≤ (k.val + 11 - last.val) % 12 := by
  unfold firstAfter
  rw [Option.map_eq_some_iff]
  constructor
  · rintro ⟨i, found, rfl⟩
    obtain ⟨here, before⟩ := firstFin_eq_some_iff.mp found
    refine ⟨here, fun k waits => Nat.le_of_not_lt fun lt => ?_⟩
    have rank := cyclicRank_cyclicAfter last i
    have := before (cyclicRank last k) (rank ▸ lt)
    rw [cyclicAfter_cyclicRank] at this
    exact absurd waits (ne_true_of_eq_false this)
  · rintro ⟨here, first⟩
    refine ⟨cyclicRank last n, firstFin_eq_some_iff.mpr ⟨?_, fun j below => ?_⟩, cyclicAfter_cyclicRank last n⟩
    · rw [cyclicAfter_cyclicRank]
      exact here
    · rw [Bool.eq_false_iff]
      intro waits
      have := first _ waits
      have rank : (cyclicRank last (cyclicAfter last j)).val = j.val := congrArg Fin.val (cyclicRank_cyclicAfter last j)
      unfold cyclicRank at rank below
      dsimp only at rank below
      omega

theorem firstAfter_eq_none_iff {last : Slot} {w : Slot → Bool} : firstAfter last w = none ↔ ∀ k, w k = false := by
  unfold firstAfter
  rw [Option.map_eq_none_iff, firstFin_eq_none_iff]
  refine ⟨fun h k => ?_, fun h k => h _⟩
  rw [← cyclicAfter_cyclicRank last k]
  exact h _

/-! ### The arbiter (R14) -/

theorem Part.internalGrant_eq_nothing_iff {p : Part} : p.internalGrant = .nothing ↔ p.internalWaits = false := by
  unfold Part.internalGrant Part.internalWaits
  cases p.status.waiting.isSome <;> cases p.engine.waiting.isSome <;> cases p.loader.readWaiting <;> simp

theorem Part.internalGrant_ne_card (p : Part) (n : Slot) : p.internalGrant ≠ .card n := by
  unfold Part.internalGrant
  repeat' split
  all_goals nofun

theorem Part.internalGrant_of_waits {p : Part} (h : p.internalWaits = true) :
    p.internalGrant = if p.status.waiting.isSome then .writer else if p.engine.waiting.isSome then .engine else .loader := by
  unfold Part.internalGrant
  unfold Part.internalWaits at h
  cases hs : p.status.waiting.isSome <;> cases he : p.engine.waiting.isSome <;> simp_all

/-- The arbiter serves the first waiting slot unless an internal access waits whose group is due (R14). -/
theorem Part.arbitrate_eq_card_iff {p : Part} {n : Slot} :
    p.arbitrate = .card n ↔ firstAfter p.arbiter.lastSlot (fun k => p.ports[k].waits) = some n
      ∧ (p.internalWaits = false ∨ p.arbiter.lastGroup = .internal) := by
  unfold Part.arbitrate
  split
  case h_1 m found =>
    rw [found]
    have group : p.arbiter.lastGroup = .internal ↔ ¬ p.arbiter.lastGroup = .card := by
      cases p.arbiter.lastGroup <;> simp
    split
    case isTrue internal =>
      simp only [Bool.and_eq_true, beq_iff_eq] at internal
      simp [Part.internalGrant_ne_card, internal]
    case isFalse card =>
      simp only [Bool.and_eq_true, beq_iff_eq, not_and] at card
      rw [group, Grant.card.injEq, Option.some.injEq]
      cases h : p.internalWaits <;> simp_all
  case h_2 none =>
    rw [none]
    simp [Part.internalGrant_ne_card]

theorem Part.arbitrate_internal {p : Part} (waits : p.internalWaits = true)
    (due : (∀ n : Slot, p.ports[n].waits = false) ∨ p.arbiter.lastGroup = .card) : p.arbitrate = p.internalGrant := by
  unfold Part.arbitrate
  split
  case h_1 m found =>
    rcases due with idle | group
    · exact absurd (firstAfter_eq_some_iff.mp found).1 (ne_true_of_eq_false (idle m))
    · rw [if_pos (by simp [waits, group])]
  case h_2 => rfl

theorem Part.arbitrate_eq_nothing_iff {p : Part} :
    p.arbitrate = .nothing ↔ p.internalWaits = false ∧ ∀ n : Slot, p.ports[n].waits = false := by
  unfold Part.arbitrate
  split
  case h_1 m found =>
    have waits := (firstAfter_eq_some_iff.mp found).1
    split
    case isTrue internal =>
      simp only [Bool.and_eq_true] at internal
      simp [Part.internalGrant_eq_nothing_iff, internal.1]
    case isFalse => exact ⟨nofun, fun h => absurd waits (ne_true_of_eq_false (h.2 m))⟩
  case h_2 none =>
    rw [Part.internalGrant_eq_nothing_iff]
    exact ⟨fun h => ⟨h, firstAfter_eq_none_iff.mp none⟩, And.left⟩

/-- Settles O24: the card served is the first in cyclic order, and the internal requesters have their order. -/
theorem arbiterAlternatesAndRotates : Obligations.ArbiterAlternatesAndRotates := by
  unfold Obligations.ArbiterAlternatesAndRotates
  intro p
  refine ⟨fun n => ?_, fun waits due => ?_, Part.arbitrate_eq_nothing_iff⟩
  · rw [Part.arbitrate_eq_card_iff, firstAfter_eq_some_iff]
    exact ⟨fun ⟨⟨waits, first⟩, turn⟩ => ⟨waits, turn, first⟩, fun ⟨waits, turn, first⟩ => ⟨⟨waits, first⟩, turn⟩⟩
  · rw [Part.arbitrate_internal waits due, Part.internalGrant_of_waits waits]

/-- Two changes of a port that agree on it make the same part. -/
theorem Part.modPort_congr {n : Slot} {f g : Port → Port} {p : Part} (h : f p.ports[n] = g p.ports[n]) :
    p.modPort n f = p.modPort n g := by
  unfold Part.modPort modify
  rw [h]

/-! ### A card's grant (R9, R13, R59) -/

theorem State.grant_of_card {s : State} {n : Slot} (h : s.part.arbitrate = .card n) : s.grant = s.grantCard n := by
  unfold State.grant
  rw [h]

theorem State.grant_of_writer {s : State} (h : s.part.arbitrate = .writer) : s.grant = s.internalGranted.grantWriter := by
  unfold State.grant
  rw [h]

theorem State.grant_of_engine {s : State} (h : s.part.arbitrate = .engine) : s.grant = s.internalGranted.grantEngine := by
  unfold State.grant
  rw [h]

theorem State.grant_of_loader {s : State} (h : s.part.arbitrate = .loader) : s.grant = s.internalGranted.grantLoader := by
  unfold State.grant
  rw [h]

/-- The arbiter remembers a card's grant (R14). -/
def State.cardGranted (n : Slot) (s : State) : State :=
  s.modPart fun p => { p with arbiter := { lastGroup := .card, lastSlot := n } }

/-- With no check read waiting, the head of the slot's queue is granted (R9). -/
theorem State.grantCard_of_request {s : State} {n : Slot} {q : Request} {rest : List Request}
    (check : ∀ k, s.part.ports[n].check = some k → k.inFlight = true) (head : s.part.ports[n].queue = q :: rest) :
    s.grantCard n = (s.cardGranted n).grantRequest n q rest := by
  have noCheck : ((s.part.ports[n].check.map fun k => !k.inFlight).getD false) = false := by
    cases e : s.part.ports[n].check with
    | none => rfl
    | some k => simp [check k e]
  show (if ((s.part.ports[n].check.map fun k => !k.inFlight).getD false) = true then _ else _) = _
  rw [if_neg (ne_true_of_eq_false noCheck)]
  show (match s.part.ports[n].queue with
    | q :: rest => (s.cardGranted n).grantRequest n q rest
    | [] => s.cardGranted n) = _
  rw [head]

/-- A check read that waits goes before the head of the queue (R59). -/
theorem State.grantCard_of_check {s : State} {n : Slot} {k : CheckRecord} (check : s.part.ports[n].check = some k)
    (waits : k.inFlight = false) :
    s.grantCard n = ((s.cardGranted n).launch (.check n true) (admitBase n) 12).modPart fun p =>
      p.modPort n fun x => { x with check := some { k with inFlight := true } } := by
  have due : ((s.part.ports[n].check.map fun k => !k.inFlight).getD false) = true := by
    rw [check]
    simp [waits]
  show (if ((s.part.ports[n].check.map fun k => !k.inFlight).getD false) = true then _ else _) = _
  rw [if_pos due]
  refine State.modPart_congr (Part.modPort_congr ?_)
  show ({ s.part.ports[n] with check := s.part.ports[n].check.map fun k => { k with inFlight := true } } : Port) = _
  rw [check]
  rfl

/-- Settles O25: the grant of each kind of read, spelled out. -/
theorem grantedReadsAreInFlight : Obligations.GrantedReadsAreInFlight := by
  unfold Obligations.GrantedReadsAreInFlight
  refine ⟨fun s running nothing => ?_, fun s n tag addr len rest running card check head => ?_,
    fun s n k running card check waits => ?_, fun s running loader => ?_⟩ <;> rw [exec_accessGrant_of_running running]
  · unfold State.grant
    rw [nothing]
  · rw [State.grant_of_card card, State.grantCard_of_request check head]
    rfl
  · rw [State.grant_of_card card, State.grantCard_of_check check waits]
    rfl
  · rw [State.grant_of_loader loader]
    rfl

/-! ### The status writer's grant (R182, R190) -/

/-- The access the status writer issues next with `queue` and `progress` and none waiting: a log record before a block (R182). -/
def Status.nextAccess (queue : List LogRecord) (progress : Option Progress) : Option WriterAccess :=
  if queue ≠ [] then some .log else if progress.isSome then some .block else none

theorem Status.issue_of_free (st : Status) :
    Status.issue { st with waiting := none } = { st with waiting := Status.nextAccess st.logQueue st.progress } := by
  obtain ⟨dirty, progress, updates, log, queue, waiting, offered⟩ := st
  cases queue <;> cases progress <;> rfl

/-- Settles O27: the two accesses of the status writer, with the access it issues next. -/
theorem grantedStatusWrites : Obligations.GrantedStatusWrites := by
  unfold Obligations.GrantedStatusWrites
  intro s running writer st next
  rw [exec_accessGrant_of_running running, State.grant_of_writer writer]
  refine ⟨fun r rest waits queue => ?_, fun g b rest waits progress blocks => ?_⟩
  · have granted : s.internalGranted.grantWriter =
        (s.internalGranted.store (st.log.recordAddr st.log.producer) (logBytes r)).modPart fun p =>
          { p with status := Status.issue { st with
              waiting := none, logQueue := rest
              log := { st.log with producer := (st.log.producer + 1) % (2 * st.log.capacity) }
              dirty := modify st.dirty 16 fun _ => true } } := by
      unfold State.grantWriter
      rw [show s.internalGranted.part.status = st from rfl]
      dsimp only
      rw [waits, queue]
      rfl
    rw [granted, Status.issue_of_free { st with
      logQueue := rest, log := { st.log with producer := (st.log.producer + 1) % (2 * st.log.capacity) }
      dirty := modify st.dirty 16 fun _ => true }, LogRing.recordAddr]
    simp only [State.modPart, State.store]
    rfl
  · intro left
    have granted : s.internalGranted.grantWriter =
        (s.internalGranted.store (recordBase g.record + 64 * g.next) b).modPart fun p =>
          { p with status := Status.issue { st with waiting := none, progress := left } } := by
      unfold State.grantWriter
      rw [show s.internalGranted.part.status = st from rfl]
      dsimp only
      rw [waits, progress]
      dsimp only
      rw [blocks]
    rw [granted, Status.issue_of_free { st with progress := left }]
    rfl

end Sys2Proof.Machine
end


section
/-! PROOFS. The alarm unit (Chapter 9): what a point that acts on its condition becomes, and what a transition makes of the status
writer. -/
namespace Sys2Proof.Machine

/-! ### A point that acts on its effective condition (R169, R170) -/

theorem Alarm.modify_point_self (a : Alarm) (i : Point) (f : AlarmPoint → AlarmPoint) :
    ({ a with points := modify a.points i f } : Alarm).points[i.val] = f a.points[i.val] :=
  getElem_modify_self a.points i f

/-- The tables of R169 and R170 for a point in state `st` with effective condition `b`. -/
def reactIn (st : PointState) (b : Bool) (x : PointContext) (i : Point) (as : Alarm × Status) : Alarm × Status :=
  match st, b with
  | .clear, true => beginRise x i as
  | .rising, false =>
    ({ as.1 with points := modify as.1.points i fun pt => { pt with state := .clear, start := none } }, as.2)
  | .raised, false => beginFall x i as
  | .falling, true =>
    ({ as.1 with points := modify as.1.points i fun pt => { pt with state := .raised, start := none } }, as.2)
  | .clear, false | .rising, true | .raised, true | .falling, false => as

theorem react_eq_reactIn (x : PointContext) (i : Point) (as : Alarm × Status) :
    react x i as = reactIn as.1.points[i].state (effective x.plan as.1.points[i].raw) x i as := by
  unfold react
  dsimp only
  generalize as.1.points[i].state = st
  generalize effective x.plan as.1.points[i].raw = b
  cases st <;> cases b <;> rfl

theorem beginRise_point_self (x : PointContext) (i : Point) (as : Alarm × Status) :
    (beginRise x i as).1.points[i.val] =
      if x.plan.raiseTime = 0 then
        { as.1.points[i.val] with
          state := .raised, start := none, raiseCount := min 255 (as.1.points[i.val].raiseCount + 1)
          lastChange := some x.time }
      else { as.1.points[i.val] with state := .rising, start := some x.now } := by
  unfold beginRise
  split
  · exact transition_point_self x i true as
  · exact Alarm.modify_point_self _ _ _

theorem beginFall_point_self (x : PointContext) (i : Point) (as : Alarm × Status) :
    (beginFall x i as).1.points[i.val] =
      if x.plan.clearTime = 0 then
        { as.1.points[i.val] with state := .clear, start := none, lastChange := some x.time }
      else { as.1.points[i.val] with state := .falling, start := some x.now } := by
  unfold beginFall
  split
  · exact transition_point_self x i false as
  · exact Alarm.modify_point_self _ _ _

/-- What a point becomes that acts on its effective condition (R169–R171). -/
theorem react_point_self (x : PointContext) (i : Point) (as : Alarm × Status) :
    (react x i as).1.points[i.val] = as.1.points[i.val].acted x.plan x.now x.time := by
  rw [react_eq_reactIn]
  unfold AlarmPoint.acted
  rw [show effective x.plan as.1.points[i].raw = (as.1.points[i.val].raw || x.plan.force) from rfl,
    show as.1.points[i].state = as.1.points[i.val].state from rfl]
  generalize as.1.points[i.val].state = st
  generalize (as.1.points[i.val].raw || x.plan.force) = b
  cases st <;> cases b
  case clear.true => exact beginRise_point_self x i as
  case raised.false => exact beginFall_point_self x i as
  case rising.false | falling.true => exact Alarm.modify_point_self _ _ _
  all_goals rfl

theorem Part.raiseEvent_point_self (i : Point) (p : Part) :
    (p.raiseEvent i).alarm.points[i.val] =
      { p.alarm.points[i.val] with raw := true, lastEvent := some p.now }.acted p.plan.alarm.points[i.val] p.now
        p.cabinetTime := by
  show (eventOn (p.context i) i (p.alarm, p.status)).1.points[i.val] = _
  rw [eventOn, react_point_self, Alarm.modify_point_self]
  rfl

/-- What acting on the condition leaves as it was: the raw condition and the last event (R169, R170). -/
@[simp] theorem AlarmPoint.acted_raw (x : AlarmPoint) (plan : PointPlan) (now : Nat) (time : CabinetTime) :
    (x.acted plan now time).raw = x.raw := by
  unfold AlarmPoint.acted
  repeat' split
  all_goals rfl

@[simp] theorem AlarmPoint.acted_lastEvent (x : AlarmPoint) (plan : PointPlan) (now : Nat) (time : CabinetTime) :
    (x.acted plan now time).lastEvent = x.lastEvent := by
  unfold AlarmPoint.acted
  repeat' split
  all_goals rfl

theorem Part.raiseEvent_raw (i : Point) (p : Part) : (p.raiseEvent i).alarm.points[i.val].raw = true := by
  rw [Part.raiseEvent_point_self, AlarmPoint.acted_raw]

theorem Part.raiseEvent_lastEvent (i : Point) (p : Part) :
    (p.raiseEvent i).alarm.points[i.val].lastEvent = some p.now := by
  rw [Part.raiseEvent_point_self, AlarmPoint.acted_lastEvent]

/-! ### A report of one point (R165) -/

/-- The owner of one point reports: nothing to be done where the raw condition is the one the point has. -/
theorem Part.report_one {i : Point} {raw : Bool} {p : Part} (h : p.condition i = some raw) :
    p.report [i] = p.withAlarm (reportOn (p.context i) i raw (p.alarm, p.status)) := by
  unfold Part.report
  rw [List.foldl_cons, List.foldl_nil, h]

theorem reportOn_of_eq {x : PointContext} {i : Point} {raw : Bool} {as : Alarm × Status}
    (h : as.1.points[i.val].raw = raw) : reportOn x i raw as = as := if_pos h

theorem reportOn_point_self (x : PointContext) (i : Point) (raw : Bool) (as : Alarm × Status) :
    (reportOn x i raw as).1.points[i.val] =
      if as.1.points[i.val].raw = raw then as.1.points[i.val]
      else { as.1.points[i.val] with raw := raw }.acted x.plan x.now x.time := by
  unfold reportOn
  split
  · next same => exact (if_pos same).symm
  · next changes =>
    rw [react_point_self, Alarm.modify_point_self]
    exact (if_neg changes).symm

/-! ### Environment points (R167) -/

theorem envPoint_ge (i : Fin 8) : ¬ (envPoint i).val < 72 ∧ 81 ≤ (envPoint i).val := by
  unfold envPoint
  dsimp only
  omega

theorem Part.condition_envPoint (p : Part) (i : Fin 8) :
    p.condition (envPoint i) = some (p.env[i.val] == p.plan.alarm.polarity[i.val]) := by
  have ⟨low, high⟩ := envPoint_ge i
  unfold Part.condition
  rw [dif_neg low, dif_pos high]
  simp only [envPoint, Nat.add_sub_cancel_left]

theorem Part.endHold_point_self (i : Point) (p : Part) :
    (p.endHold i).alarm.points[i.val] =
      { p.alarm.points[i.val] with raw := false, lastEvent := none }.acted p.plan.alarm.points[i.val] p.now
        p.cabinetTime := by
  show (react (p.context i) i _).1.points[i.val] = _
  rw [react_point_self, Alarm.modify_point_self]
  rfl

theorem Part.endHold_point_ne {i j : Point} (h : i ≠ j) (p : Part) :
    (p.endHold i).alarm.points[j.val] = p.alarm.points[j.val] := by
  show (react (p.context i) i _).1.points[j.val] = _
  rw [react_point_ne h]
  exact getElem_modify_ne _ _ _ _ _ fun e => h (Fin.ext e)

/-- The contact level of an environment point taken (R167). -/
def Part.setEnv (i : Fin 8) (level : Contact) (p : Part) : Part := { p with env := modify p.env i fun _ => level }

theorem Part.condition_setEnv (i : Fin 8) (level : Contact) (p : Part) :
    (p.setEnv i level).condition (envPoint i) = some (level == p.plan.alarm.polarity[i.val]) := by
  rw [Part.condition_envPoint]
  simp [Part.setEnv]

/-- Settles O54: each of the three is one point that acts on a raw condition it is given. -/
theorem conditionsAreIntegrated : Obligations.ConditionsAreIntegrated := by
  unfold Obligations.ConditionsAreIntegrated
  refine ⟨fun s i level => ?_, fun s i running due => ?_, fun p i => ?_⟩
  · intro j x raw moved
    have after : exec (.envChange i level) s =
        .next (s.modPart fun p => (p.setEnv i level).whileRunning (Part.report [envPoint i])) := rfl
    have report : (s.part.setEnv i level).report [envPoint i] =
        (s.part.setEnv i level).withAlarm (reportOn ((s.part.setEnv i level).context j) j raw (s.part.alarm, s.part.status)) :=
      Part.report_one (Part.condition_setEnv i level s.part)
    constructor
    · intro still
      rw [after]
      refine congrArg _ (State.modPart_congr ?_)
      rcases still with resetting | same
      · exact Part.whileRunning_of_reset (p := s.part.setEnv i level) resetting _
      · show (s.part.setEnv i level).whileRunning _ = s.part.setEnv i level
        rw [Part.whileRunning, report, reportOn_of_eq same.symm]
        exact ite_self _
    · intro running changes
      refine ⟨_, after, rfl, ?_⟩
      rw [State.modPart_part, Part.whileRunning_of_running (p := s.part.setEnv i level) running]
      refine ⟨?_, fun k ne => Part.report_point_ne (by simpa using ne) _, Part.besidesAlarms_report _ _⟩
      rw [report]
      exact (reportOn_point_self _ _ _ _).trans (if_neg (Ne.symm changes))
  · have now := exec_eq_after (c := .eventHoldExpiry i) nofun s
    refine ⟨_, now, rfl, ?_⟩
    rw [State.modPart_part, Part.after_eventHoldExpiry, Part.whenDue_of_due running due]
    exact ⟨Part.endHold_point_self i _, fun k ne => Part.endHold_point_ne (Ne.symm ne) _, Part.besidesAlarms_endHold i _⟩
  · exact ⟨Part.raiseEvent_point_self i p, fun k ne => Part.raiseEvent_point_ne (Ne.symm ne) p,
      Part.besidesAlarms_raiseEvent i p⟩

/-! ### Transitions (R171, R172, R189) -/

/-- The writer issues the write of a log record that joins the queue, if no access of it waits (R182). -/
theorem Status.issue_of_append (st : Status) (r : LogRecord) :
    Status.issue { st with logQueue := st.logQueue ++ [r] } =
      { st with
        logQueue := st.logQueue ++ [r]
        waiting := if st.waiting = none then some .log else st.waiting } := by
  obtain ⟨dirty, progress, updates, log, queue, waiting, offered⟩ := st
  cases waiting <;> simp [Status.issue]

/-- The log takes a record, or counts it as overflow where there is no log or it is full (R189). -/
theorem Status.offer_eq (st : Status) (i : Point) (raised : Bool) (plan : PointPlan) (time : CabinetTime) :
    st.offer i raised plan time =
      if st.log.capacity ≠ 0 ∧ st.log.occupied st.logQueue.length < st.log.capacity then
        { st with
          log := { st.log with nextSequence := st.log.nextSequence + 1 }
          logQueue := st.logQueue ++ [{ sequence := st.log.nextSequence, point := i, raised := raised
                                        severity := plan.severity, forced := plan.force, time := time }]
          offered := st.offered + 1
          waiting := if st.waiting = none then some .log else st.waiting }
      else
        { st with
          dirty := modify st.dirty 16 fun _ => true
          log := { st.log with nextSequence := st.log.nextSequence + 1, overflow := st.log.overflow + 1 } } := by
  unfold Status.offer Status.offerRecord
  dsimp only
  have space : (st.log.capacity != 0 && decide (st.log.occupied st.logQueue.length < st.log.capacity)) = true ↔
      st.log.capacity ≠ 0 ∧ st.log.occupied st.logQueue.length < st.log.capacity := by simp
  simp only [space]
  split
  · exact Status.issue_of_append
      { st with log := { st.log with nextSequence := st.log.nextSequence + 1 }, offered := st.offered + 1 } _
  · rfl

/-- A transition as a whole (R171–R173, R175, R189). -/
theorem Part.transition_eq (i : Point) (raised : Bool) (p : Part) :
    p.withAlarm (transition (p.context i) i raised (p.alarm, p.status)) =
      { p with
        alarm := { p.alarm with
          points := modify p.alarm.points i fun x =>
            { x with
              state := if raised = true then .raised else .clear
              start := none
              raiseCount := if raised = true then min 255 (x.raiseCount + 1) else x.raiseCount
              lastChange := some p.cabinetTime }
          cutoff := if raised = true ∧ p.plan.alarm.points[i].mask = false then false else p.alarm.cutoff }
        status :=
          if p.plan.alarm.points[i].mask = true then p.status.mark 16
          else (p.status.mark 16).offer i raised p.plan.alarm.points[i] p.cabinetTime } := by
  have cutoff : (p.alarm.cutoff && !(raised && !p.plan.alarm.points[i].mask)) =
      if raised = true ∧ p.plan.alarm.points[i].mask = false then false else p.alarm.cutoff := by
    cases raised <;> cases p.plan.alarm.points[i].mask <;> simp
  unfold transition Part.withAlarm Part.context
  dsimp only
  rw [cutoff]
  rfl

/-- The command of a raise or a clear timer. -/
def timerCommand (i : Point) (raised : Bool) : Instr := if raised = true then .raiseTimerExpiry i else .clearTimerExpiry i

theorem exec_timerCommand {s : State} {i : Point} {raised : Bool} (running : s.part.running = true)
    (due : if raised = true then s.part.raiseDue i = true else s.part.clearDue i = true) :
    exec (timerCommand i raised) s =
      .next (s.modPart fun p => p.withAlarm (transition (p.context i) i raised (p.alarm, p.status))) := by
  cases raised
  · rw [show timerCommand i false = .clearTimerExpiry i from rfl, exec_eq_after (c := .clearTimerExpiry i) nofun]
    refine congrArg _ (State.modPart_congr ?_)
    rw [Part.after_clearTimerExpiry, Part.whenDue_of_due running (due := (Part.clearDue · i)) (by simpa using due)]
    rfl
  · rw [show timerCommand i true = .raiseTimerExpiry i from rfl, exec_eq_after (c := .raiseTimerExpiry i) nofun]
    refine congrArg _ (State.modPart_congr ?_)
    rw [Part.after_raiseTimerExpiry, Part.whenDue_of_due running (due := (Part.raiseDue · i)) (by simpa using due)]
    rfl

/-- Settles O55: a timer's expiry is a transition, and the log takes its record as R189 says. -/
theorem transitionsAreCountedAndLogged : Obligations.TransitionsAreCountedAndLogged := by
  unfold Obligations.TransitionsAreCountedAndLogged
  intro s i raised running due x plan st log record marked space
  refine (exec_timerCommand running due).trans (congrArg _ (State.modPart_congr ?_))
  rw [Part.transition_eq, Status.offer_eq]
  congr 1
  refine ite_iff_congr Iff.rfl rfl (ite_iff_congr Iff.rfl rfl ?_)
  rw [show modify (s.part.status.mark 16).dirty 16 (fun _ => true) = modify st.dirty 16 fun _ => true from
    modify_const_modify _ _ _ _]
  rfl

end Sys2Proof.Machine
end


section
/-! PROOFS. The words of the command block, the oscillator period that carries a second, the resets and the output lines (R41,
R124, R127, R174, R175, R191–R193, R198). -/
namespace Sys2Proof.Machine

/-! ### The words of the command block -/

/-- The log consumer values that are taken (R191). -/
theorem LogRing.takeConsumer_eq (l : LogRing) (v : Nat) :
    l.takeConsumer v =
      if l.capacity ≠ 0 ∧ v < 2 * l.capacity
          ∧ (l.producer + 2 * l.capacity - v) % (2 * l.capacity) ≤ (l.producer + 2 * l.capacity - l.consumer) % (2 * l.capacity)
        then { l with consumer := v } else l := by
  unfold LogRing.takeConsumer LogRing.occupied
  rw [Nat.add_zero]
  split
  case isTrue h => rw [if_neg fun takes => by omega]
  case isFalse h =>
    rw [not_or, Nat.not_le] at h
    simp only [h, ne_eq, not_false_eq_true, true_and]

theorem Part.observeLogConsumer_eq (v : Word) (p : Part) :
    p.observeLogConsumer v =
      let l := p.status.log
      let q := p.setWatched .logConsumer v
      if (l.takeConsumer v.toNat).consumer = l.consumer then q
      else { q with status := { q.status with
              log := l.takeConsumer v.toNat, dirty := modify q.status.dirty 16 fun _ => true } } := rfl

/-- Settles O31: the four words, each by the rule of its owner. -/
theorem controllerWordsTakeEffect : Obligations.ControllerWordsTakeEffect := by
  unfold Obligations.ControllerWordsTakeEffect
  intro s v running
  have acts : ∀ {c : Instr} {f : Part → Part}, c ≠ .accessGrant → s.part.after c = s.part.whileRunning f →
      exec c s = .next (s.modPart f) := fun ne after => by
    rw [exec_eq_after ne]
    exact congrArg _ (State.modPart_congr (after.trans (Part.whileRunning_of_running running _)))
  refine ⟨acts nofun (Part.after_apply v _), ?_, ?_, acts nofun (Part.after_seconds v _)⟩
  · intro l takes
    refine (acts (c := .logConsumer v) nofun (Part.after_logConsumer v _)).trans (congrArg _ (State.modPart_congr ?_))
    rw [Part.observeLogConsumer_eq]
    dsimp only
    rw [LogRing.takeConsumer_eq]
    by_cases h : takes
    · rw [if_pos h]
      by_cases same : v.toNat = l.consumer
      · rw [if_pos same, if_neg fun e => e.2 same]
      · rw [if_neg same, if_pos ⟨h, same⟩]
    · rw [if_neg h, if_pos rfl, if_neg fun e => h e.1]
  · refine (acts (c := .cutoff v) nofun (Part.after_cutoff v _)).trans (congrArg _ (State.modPart_congr ?_))
    rfl

/-! ### The oscillator period that carries a second (R124, R127) -/

theorem Part.issueEngine_of_waiting {p : Part} {w : EngineAccess} (h : p.engine.waiting = some w) : p.issueEngine = p := by
  unfold Part.issueEngine
  rw [h]

/-- A write of the index write queue is issued first (R110). -/
theorem Part.issueEngine_of_index {p : Part} (free : p.engine.waiting = none) (noHold : p.hold = false) {w : IndexWrite}
    {rest : List IndexWrite} (queue : p.engine.indexQueue = w :: rest) :
    p.issueEngine = p.modEngine fun e => { e with waiting := some (.index w), indexQueue := rest } := by
  unfold Part.issueEngine
  rw [free]
  dsimp only
  rw [noHold, if_neg Bool.false_ne_true, queue]

/-- With no index write due and no header read in flight, the header of the first listed ring is read (R89, R110). -/
theorem Part.issueEngine_of_header {p : Part} (free : p.engine.waiting = none) (noHold : p.hold = false)
    (queue : p.engine.indexQueue = []) (noRead : p.noHeaderRead = true) {r : RingNo} {rest : List RingNo}
    (list : p.engine.takeList = r :: rest) :
    p.issueEngine = (p.setTake r .reading).modEngine fun e => { e with waiting := some (.header r) } := by
  unfold Part.issueEngine
  rw [free]
  dsimp only
  rw [noHold, if_neg Bool.false_ne_true, queue, list, noRead]

@[simp] theorem Part.setTake_engine_before (r : RingNo) (t : Take) (p : Part) :
    (p.setTake r t).engine.before = p.engine.before := rfl

theorem Part.issueEngine_before (p : Part) : p.issueEngine.engine.before = p.engine.before := by
  unfold Part.issueEngine
  split
  · rfl
  · dsimp only
    repeat' split
    all_goals rfl

/-- The part after the end of the instant, if it runs (R110). -/
def Part.closed (p : Part) : Part := if p.running = true then p.closeInstant else p

theorem Part.besidesExchange_closed (p : Part) : p.closed.besidesExchange = p.besidesExchange := by
  unfold Part.closed
  split
  · exact Part.besidesExchange_closeInstant p
  · rfl

/-- A period passes: the instant ends, and the marks of it with it (R123; log entries 20, 30 and 31). -/
theorem Part.passPeriod_eq (p : Part) :
    p.passPeriod = { p.closed with
      osc := if p.running then p.osc + 1 else p.osc
      secondTick := false
      status := { p.status with offered := 0 }
      control := { p.control with dip := p.control.dip.map (· + 1) } } := by
  have same := p.besidesExchange_closed
  have osc : p.closed.osc = p.osc := (congrArg Part.osc same :)
  have control : p.closed.control = p.control := (congrArg Part.control same :)
  have status : p.closed.status = p.status := (congrArg Part.status same :)
  show { p.closed with
      osc := if p.closed.control.active.isNone then p.closed.osc + 1 else p.closed.osc
      secondTick := false
      status := { p.closed.status with offered := 0 }
      control := { p.closed.control with dip := p.closed.control.dip.map (· + 1) } } = _
  rw [osc, control, status]
  rfl

/-- Settles O51: the turnover of the clock, and what the end of the instant does to the engine. -/
theorem secondTurnoverCarriesOrSets : Obligations.SecondTurnoverCarriesOrSets := by
  unfold Obligations.SecondTurnoverCarriesOrSets
  intro s due closed k sum carried
  have isClosed : closed = s.part.closed := rfl
  refine ⟨?_, Part.besidesExchange_closed s.part, fun running => ?_⟩
  · rw [exec_eq_after (c := .secondTurnover) nofun, isClosed]
    refine congrArg _ (State.modPart_congr ?_)
    have gens : s.part.closed.gens = s.part.gens := (congrArg Part.gens s.part.besidesExchange_closed :)
    rw [Part.after_secondTurnover, if_pos due, Part.turnover, Part.passPeriod_eq]
    unfold Clock.turnover
    dsimp only
    cases pending : s.part.clock.pendingSeconds with
    | none =>
      dsimp only
      rw [← gens]
      rfl
    | some v =>
      dsimp only
      unfold Part.shiftTicks
      dsimp only
      rw [gens]
      rfl
  · have close : closed = s.part.closeInstant := if_pos running
    rw [close]
    refine ⟨Part.issueEngine_before _, fun waits => ?_, fun free noHold => ⟨fun w rest queue => ?_, ?_⟩⟩
    · obtain ⟨w, waits⟩ := Option.isSome_iff_exists.mp waits
      rw [Part.closeInstant, Part.issueEngine_of_waiting (p := s.part.modEngine fun e => { e with before := none }) waits]
      rfl
    · rw [Part.closeInstant, Part.issueEngine_of_index (p := s.part.modEngine fun e => { e with before := none }) free noHold queue]
      exact ⟨rfl, rfl⟩
    · intro queue noRead r rest list
      rw [Part.closeInstant, Part.issueEngine_of_header (p := s.part.modEngine fun e => { e with before := none }) free noHold queue noRead list]
      refine ⟨rfl, ?_⟩
      exact congrArg Ring.take (Part.modRing_self r _ _)

/-! ### Resets (R81, R82, R147, R148, R178, R192) -/

theorem Port.held_false (x : Port) : x.held false = Port.reset x.presentLevel x.pwrgd := rfl

/-- A part every block of which holds its reset values, but for the input pins and what reset control remembers (R192). -/
def Part.blank (control : ResetControl) (p : Part) : Part :=
  { Part.reset with
    control := control
    env := p.env
    loader := Loader.reset control.warmCount
    ports := mapTable (fun _ x => Port.reset x.presentLevel x.pwrgd) p.ports
    alarm := Alarm.reset
    status := Status.reset }

theorem Part.underReset_of_power {kind : ResetKind} (h : kind ≠ .resetPin) (control : ResetControl) (p : Part) :
    p.underReset kind control = p.blank { control with active := some kind } := by
  have off : (kind == .resetPin) = false := beq_eq_false_iff_ne.mpr h
  unfold Part.underReset
  rw [if_neg h, off]
  rfl

/-- The clock at the beginning of a reset-pin reset, spelled out (R148). -/
theorem Clock.warmReset_eq (k : Clock) :
    k.warmReset = { Clock.reset with
      seconds := k.seconds, ns := k.ns, fraction := k.fraction, epoch := k.epoch, trained := k.trained
      facc := k.facc, c := k.facc, increment := incrementOf k.facc, lastError := k.lastError
      state := if k.trained = true then .holdover else .freerun
      holdoverStart := if k.trained = true then some 0 else none } := by
  unfold Clock.warmReset Clock.loseReference Clock.setCorrection
  dsimp only
  rw [Int.add_zero]
  split <;> rfl

/-- A slot port while a reset-pin reset lasts, by whether the slot keeps its power (R81, R82). -/
theorem Part.underReset_resetPin (control : ResetControl) (p : Part) :
    p.underReset .resetPin control =
      { p.blank { control with active := some .resetPin } with
        ports := tabulate fun n => p.ports[n].held (p.keepsPower n)
        clock := p.clock.warmReset } := rfl

/-- Settles O58: each reset is `Part.underReset`, and the supply's edges move reset control alone. -/
theorem resetsPutTheBlocksBack : Obligations.ResetsPutTheBlocksBack := by
  unfold Obligations.ResetsPutTheBlocksBack
  intro s c blank
  refine ⟨?_, ?_, rfl, fun due => ?_, fun resetting => ?_, fun running => ?_⟩
  · rw [exec_eq_after (c := .powerOnReset) nofun]
    refine congrArg _ (State.modPart_congr ?_)
    rw [Part.after_powerOnReset, Part.underReset_of_power (kind := .powerOn) nofun]
    rfl
  · rw [exec_eq_after (c := .supplyFall) nofun]
    refine congrArg _ (State.modPart_congr ?_)
    rw [Part.after_supplyFall, ResetControl.supplyFalls, ResetControl.awaitsSupply]
    simp only [Bool.and_eq_true, Option.isNone_iff_eq_none]
    rfl
  · rw [exec_eq_after (c := .supplyDipReset) nofun]
    refine congrArg _ (State.modPart_congr ?_)
    have kind : s.part.control.dipKind = if c.active = some .powerOn then ResetKind.powerOn else .supplyDip := by
      show ResetControl.dipKind c = _
      unfold ResetControl.dipKind
      cases c.active with
      | none => rfl
      | some k => cases k <;> rfl
    rw [Part.after_supplyDipReset, if_pos due, kind, Part.underReset_of_power (by split <;> nofun)]
    rfl
  · rw [exec_eq_after (c := .resetPinAssert) nofun]
    refine congrArg _ (State.modPart_congr ?_)
    rw [Part.after_resetPinAssert, if_neg (ne_true_of_eq_false resetting)]
  · intro k keeps held
    rw [exec_eq_after (c := .resetPinAssert) nofun]
    refine congrArg _ (State.modPart_congr ?_)
    rw [Part.after_resetPinAssert, if_pos running, Part.underReset_resetPin, Clock.warmReset_eq]
    rfl

end Sys2Proof.Machine
end


section
/-! PROOFS. The output lines and their levels, what a reset does to them (10.4, Table 11-18), the start of the part at the end of
a reset, and the state called reset. -/
namespace Sys2Proof.Machine

theorem Part.attn_eq_true_iff (p : Part) (n : Slot) :
    p.attn n = true ↔ p.ports[n].state = .admitted
      ∧ ((∃ c : Cls, p.plan.rings[ingressRing n c].count ≠ 0 ∧ p.plan.rings[ingressRing n c].attention = true
            ∧ p.rings[ingressRing n c].producer ≠ p.rings[ingressRing n c].consumer)
          ∨ (n = 0 ∧ p.status.log.producer ≠ p.status.log.consumer)) := by
  simp only [Part.attn, Part.admitted, Part.ringAttention, RingPlan.present, Bool.and_eq_true, Bool.or_eq_true,
    anyFin_eq_true_iff, beq_iff_eq, bne_iff_ne, and_assoc, Fin.ext_iff]
  rfl

theorem Part.relay_eq_true_iff (p : Part) (v : Severity) :
    p.relay v = true ↔ v ≠ .warning ∧ p.alarm.cutoff = false
      ∧ ∃ i : Point, p.alarm.points[i].state = .raised ∧ p.plan.alarm.points[i].mask = false
          ∧ p.plan.alarm.points[i].severity = v := by
  simp [Part.relay, and_assoc]

theorem Part.pwren_eq_true_iff (p : Part) (n : Slot) :
    p.pwren n = true ↔ p.ports[n].state = .powering ∨ p.ports[n].state = .training ∨ p.ports[n].state.linked = true
      ∨ (p.ports[n].state = .fenced ∧ p.ports[n].powerRemoved = false) := by
  unfold Part.pwren
  rcases p.ports[n].state <;> simp [SlotState.linked]

/-! ### The lines while a reset lasts -/

theorem Part.underReset_port (kind : ResetKind) (control : ResetControl) (p : Part) (n : Slot) :
    (p.underReset kind control).ports[n] = p.ports[n].held (kind == .resetPin && p.keepsPower n) :=
  getElem_mapTable _ _ _ _

theorem Port.held_state (x : Port) (keeps : Bool) : (x.held keeps).state = if keeps = true then .training else .empty := by
  cases keeps <;> rfl

theorem Port.held_strobe (x : Port) (keeps : Bool) : (x.held keeps).strobe = Strobe.reset := by
  cases keeps <;> rfl

theorem Part.attn_underReset (kind : ResetKind) (control : ResetControl) (p : Part) (n : Slot) :
    (p.underReset kind control).attn n = false := by
  rw [Bool.eq_false_iff, ne_eq, Part.attn_eq_true_iff, Part.underReset_port, Port.held_state]
  split <;> simp

theorem Part.strobe_underReset (kind : ResetKind) (control : ResetControl) (p : Part) (n : Slot) :
    (p.underReset kind control).strobe n = false := by
  rw [Part.strobe, Part.underReset_port, Port.held_strobe]
  rfl

/-- Under a reset a slot's power is on exactly where it was kept (R82). -/
theorem Part.pwren_underReset (kind : ResetKind) (control : ResetControl) (p : Part) (n : Slot) :
    (p.underReset kind control).pwren n = (kind == .resetPin && p.keepsPower n) := by
  rw [Bool.eq_iff_iff, Part.pwren_eq_true_iff, Part.underReset_port, Port.held_state]
  cases kind == .resetPin && p.keepsPower n <;> simp [SlotState.linked]

theorem Part.relay_underReset (kind : ResetKind) (control : ResetControl) (p : Part) (v : Severity) :
    (p.underReset kind control).relay v = false := by
  rw [Bool.eq_false_iff, ne_eq, Part.relay_eq_true_iff]
  rintro ⟨-, -, i, raised, -⟩
  have clear : (Vector.replicate 89 AlarmPoint.reset)[i].state = .clear := by simp [AlarmPoint.reset]
  exact absurd (clear.symm.trans raised) nofun

theorem ResetControl.dipKind_ne_resetPin (c : ResetControl) : c.dipKind ≠ .resetPin := by
  unfold ResetControl.dipKind
  rcases c.active with _ | _ | _ | _ <;> simp [ResetKind.stronger]

/-- Settles O60. -/
theorem outputLinesFollowTheState : Obligations.OutputLinesFollowTheState := by
  unfold Obligations.OutputLinesFollowTheState
  have level : ∀ (p : Part) o, p.outputLevel o = if p.outputActive o = true then o.activeLevel else o.activeLevel.other :=
    fun _ _ => rfl
  have input : ∀ (p : Part) i, p.inputLevel i = if p.inputActive i = true then i.activeLevel else i.activeLevel.other :=
    fun _ _ => rfl
  refine ⟨Part.attn_eq_true_iff, Part.relay_eq_true_iff, Part.pwren_eq_true_iff, fun p n => ?_, fun p => ?_,
    fun s t c reset h => ?_⟩
  · exact ⟨level p _, level p _, level p _, input p _, input p _, rfl, rfl, rfl, rfl⟩
  · exact ⟨level p _, level p _, level p _, input p _, rfl, rfl, fun r => ⟨rfl, rfl⟩⟩
  · have held : ∀ kind control, t.part = s.part.underReset kind control → (c = .resetPinAssert ↔ kind = .resetPin) →
        (∀ n : Slot, t.part.attn n = false ∧ t.part.strobe n = false
          ∧ (t.part.pwren n = true ↔ c = .resetPinAssert ∧ s.part.pwren n = true ∧ s.part.ports[n].pwrgd = true
              ∧ s.part.ports[n].presence = true))
        ∧ ∀ v, t.part.relay v = false := by
      intro kind control e pin
      rw [e, pin]
      refine ⟨fun n => ⟨s.part.attn_underReset _ _ n, s.part.strobe_underReset _ _ n, ?_⟩, s.part.relay_underReset _ _⟩
      simp [Part.pwren_underReset, Part.keepsPower, and_assoc]
    have next : t.part = s.part.after c := by
      have ne : c ≠ .accessGrant := by rintro rfl; simp at reset
      rw [exec_eq_after ne] at h
      cases h
      rfl
    rcases reset with rfl | ⟨rfl, due⟩ | ⟨rfl, running⟩
    · exact held _ _ (next.trans (Part.after_powerOnReset _)) (by simp)
    · rw [Part.after_supplyDipReset, if_pos due] at next
      exact held _ _ next (by simp [ResetControl.dipKind_ne_resetPin])
    · rw [Part.after_resetPinAssert, if_pos running] at next
      exact held _ _ next (by simp)

end Sys2Proof.Machine
end


section
/-! PROOFS. The alarm points integrated afresh (R178), the end of a reset (R192), and the state called reset. -/
namespace Sys2Proof.Machine

/-- A fold over different points, each round of which changes its own point alone: every listed point is changed once. -/
theorem foldl_point {f : Alarm × Status → Point → Alarm × Status} {g : Point → AlarmPoint → AlarmPoint}
    (self : ∀ as i, (f as i).1.points[i.val] = g i as.1.points[i.val])
    (other : ∀ as i j, i ≠ j → (f as i).1.points[j.val] = as.1.points[j.val])
    {l : List Point} (nodup : l.Nodup) (as : Alarm × Status) (j : Point) :
    (l.foldl f as).1.points[j.val] = if j ∈ l then g j as.1.points[j.val] else as.1.points[j.val] := by
  induction l generalizing as with
  | nil => rfl
  | cons i l ih =>
    obtain ⟨fresh, nodup⟩ := List.nodup_cons.mp nodup
    rw [List.foldl_cons, ih nodup]
    by_cases e : i = j
    · subst e
      rw [if_neg fresh, if_pos List.mem_cons_self, self]
    · rw [other as i j e]
      simp [Ne.symm e]

/-- The conditions of the points rest on nothing that a transition changes (Tables 9-2 and 9-3). -/
theorem Part.condition_besidesAlarms (p : Part) (i : Point) : p.besidesAlarms.condition i = p.condition i := rfl

theorem Part.condition_congr {p q : Part} (h : q.besidesAlarms = p.besidesAlarms) (i : Point) :
    q.condition i = p.condition i :=
  (congrArg (Part.condition · i) h :)

/-- One point found afresh in part `p`: it takes the condition its owner reports and acts on it (R178). -/
def Part.integrateAt (p : Part) (as : Alarm × Status) (i : Point) : Alarm × Status :=
  react (p.context i) i ({ as.1 with points := modify as.1.points i fun pt => { pt with
    raw := (p.condition i).getD as.1.points[i].raw } }, as.2)

theorem Part.reintegrate_eq (p : Part) : p.reintegrate = p.withAlarm (allPoints.foldl p.integrateAt (p.alarm, p.status)) := by
  unfold Part.reintegrate
  refine congrArg p.withAlarm (congrArg (fun f => List.foldl f (p.alarm, p.status) allPoints) ?_)
  funext as i
  unfold Part.integrateAt
  cases p.condition i <;> rfl

theorem Part.integrateAt_point_self (p : Part) (as : Alarm × Status) (i : Point) :
    (p.integrateAt as i).1.points[i.val] =
      { as.1.points[i.val] with raw := (p.condition i).getD as.1.points[i.val].raw }.acted p.plan.alarm.points[i.val] p.now
        p.cabinetTime := by
  unfold Part.integrateAt
  rw [react_point_self, Alarm.modify_point_self]
  rfl

theorem Part.integrateAt_point_ne (p : Part) (as : Alarm × Status) (i j : Point) (h : i ≠ j) :
    (p.integrateAt as i).1.points[j.val] = as.1.points[j.val] :=
  (react_point_ne h _ _).trans (getElem_modify_ne _ i _ j.val j.isLt fun e => h (Fin.ext e))

theorem nodup_allPoints : allPoints.Nodup := List.nodup_finRange 89

theorem mem_allPoints (i : Point) : i ∈ allPoints := List.mem_finRange i

/-- A point after a fresh integration: it acts on the condition its owner reports, an event-type point on its own (R178). -/
theorem Part.reintegrate_point (p : Part) (i : Point) :
    p.reintegrate.alarm.points[i.val] =
      { p.alarm.points[i.val] with raw := (p.condition i).getD p.alarm.points[i.val].raw }.acted
        p.plan.alarm.points[i.val] p.now p.cabinetTime := by
  rw [Part.reintegrate_eq, Part.withAlarm_alarm,
    foldl_point (g := fun i x => { x with raw := (p.condition i).getD x.raw }.acted p.plan.alarm.points[i.val] p.now
      p.cabinetTime) p.integrateAt_point_self p.integrateAt_point_ne nodup_allPoints, if_pos (mem_allPoints i)]

/-! ### The end of a reset -/

theorem Part.startIfOver_of_held {p : Part} (h : p.resetOver = false) : p.startIfOver = p := by
  unfold Part.startIfOver
  split
  · rw [if_neg (ne_true_of_eq_false h)]
  · rfl

theorem Part.startIfOver_of_over {p : Part} {kind : ResetKind} (active : p.control.active = some kind)
    (h : p.resetOver = true) : p.startIfOver = p.start kind := by
  unfold Part.startIfOver
  rw [active]
  exact if_pos h

theorem Part.resetOver_releasePin (p : Part) :
    p.releasePin.resetOver = true ↔ p.control.active.isSome = true ∧ ¬(p.control.supplyLow = true ∧ p.control.dip = none) := by
  simp only [Part.resetOver, Part.releasePin, ResetControl.awaitsSupply]
  cases p.control.supplyLow <;> cases p.control.dip <;> simp

/-- The part at the end of a reset of kind `kind`, before its alarm points are integrated afresh and a warm start begins
(R155, R192). -/
def Part.started (kind : ResetKind) (p : Part) : Part :=
  let warm := if kind = .resetPin then min 65535 (p.control.warmCount + 1) else 0
  { p with
    control := { p.control with
      active := none, cause := kind, warmCount := warm, dip := if p.control.supplyLow then some 0 else none }
    loader := Loader.reset warm
    ports := mapTable (fun _ => Port.start) p.ports
    gens := tabulate fun k =>
      { last := p.cabinetTime.boundary (p.plan.period (tickKinds.getD k.val .second)), skipped := 0 } }

/-- The start of the part: a fresh integration, and a warm start after a reset-pin reset (R52, R178). -/
theorem Part.start_eq (kind : ResetKind) (p : Part) :
    p.start kind = if kind = .resetPin then (p.started kind).reintegrate.modLoader fun l => l.begin_ .warmStart none
      else (p.started kind).reintegrate := rfl

theorem Part.start_alarm (kind : ResetKind) (p : Part) : (p.start kind).alarm = (p.started kind).reintegrate.alarm := by
  rw [Part.start_eq]
  split
  · rw [Part.modLoader_alarm]
  · rfl

theorem Part.besidesAlarms_modLoader (f : Loader → Loader) (p : Part) :
    (p.modLoader f).besidesAlarms = p.besidesAlarms.modLoader f := rfl

/-- What a part does at the end of a reset, but for what its alarm points make of it (R52, R81, R82, R155, R192). -/
theorem Part.besidesAlarms_start (kind : ResetKind) (p : Part) :
    (p.start kind).besidesAlarms =
      (if kind = .resetPin then (p.started kind).modLoader fun l => l.begin_ .warmStart none
        else p.started kind).besidesAlarms := by
  rw [Part.start_eq]
  split
  · rw [Part.besidesAlarms_modLoader, Part.besidesAlarms_modLoader, Part.besidesAlarms_reintegrate]
  · exact Part.besidesAlarms_reintegrate _

/-- A slot port at the end of a reset, spelled out (R55, R81, R82). -/
theorem Port.start_eq (x : Port) :
    x.start = { x with
      stateTimer := if x.state = .training then some 0 else x.stateTimer
      presenceTimer := if x.presentLevel = x.presence then none
        else if x.presenceTimer = none then some 0 else x.presenceTimer } := by
  unfold Port.start Port.debounce
  dsimp only
  by_cases training : x.state = .training <;> by_cases level : x.presentLevel = x.presence
  all_goals simp only [training, level, if_true, if_false]
  all_goals obtain ⟨_, _, timer, _⟩ := x; cases timer <;> rfl

/-- The conditions at the end of a reset are those of the part as it starts. -/
theorem Part.condition_start (kind : ResetKind) (p : Part) (i : Point) :
    (p.start kind).condition i = (p.started kind).condition i := by
  rw [Part.condition_congr (Part.besidesAlarms_start kind p)]
  split <;> rfl

/-- The part right after a power-on reset whose end finds no card and no closed contact (log entry 15). -/
theorem Part.reset_eq_reintegrate :
    Part.reintegrate { Part.reset with alarm := Alarm.reset, status := Status.reset } = Part.reset := by
  decide +kernel

/-- A power-on reset of a part with every input at rest, once the supply has returned. -/
theorem Part.start_blank {p : Part} (levels : ∀ n : Slot, p.ports[n].presentLevel = false ∧ p.ports[n].pwrgd = false)
    (contacts : ∀ i : Fin 8, p.env[i] = .opened) (cause : ResetKind) (count : Nat) :
    Part.start .powerOn (p.blank
      { active := some .powerOn, pinLow := false, supplyLow := false, dip := none, cause := cause, warmCount := count })
        = Part.reset := by
  have env : p.env = Vector.replicate 8 .opened := table_ext fun i => by simpa using contacts i
  have ports : mapTable (fun _ => Port.start) (mapTable (fun _ x => Port.reset x.presentLevel x.pwrgd) p.ports)
      = Vector.replicate 12 (Port.reset false false) := table_ext fun n => by
    have low : p.ports[n.val].presentLevel = false ∧ p.ports[n.val].pwrgd = false := levels n
    simp [low, Port.start, Port.debounce, Port.reset]
  have gens : tabulate (fun k : Fin 5 =>
      ({ last := Part.reset.cabinetTime.boundary (Plan.bootstrap.period (tickKinds.getD k.val .second)), skipped := 0 } :
        TickGen)) = Vector.replicate 5 TickGen.reset := by decide +kernel
  rw [Part.start_eq, if_neg nofun, ← Part.reset_eq_reintegrate]
  refine congrArg Part.reintegrate ?_
  unfold Part.started Part.blank
  dsimp only
  rw [ports, env]
  exact congrArg (fun g => { Part.reset with gens := g, alarm := Alarm.reset, status := Status.reset }) gens

/-- Settles O59: the start of the part is a fresh integration of its alarm points after `Part.started`. -/
theorem resetEndStartsThePart : Obligations.ResetEndStartsThePart := by
  unfold Obligations.ResetEndStartsThePart
  refine ⟨?_, fun s levels contacts released => ?_⟩
  · intro s c ends
    refine ⟨fun never => ?_, fun kind ending => ?_⟩
    · have held : s.part.releasePin.resetOver = false := by
        rw [Bool.eq_false_iff, ne_eq, Part.resetOver_releasePin]
        rintro ⟨active, unheld⟩
        obtain ⟨kind, active⟩ := Option.isSome_iff_exists.mp active
        exact never kind ⟨active, unheld⟩
      rw [exec_eq_after (c := .resetEnd) nofun]
      refine congrArg _ (State.modPart_congr ?_)
      rw [Part.after_resetEnd, Part.startIfOver_of_held held]
      rfl
    · intro warm started
      obtain ⟨active, unheld⟩ := ending
      have starts : s.part.after .resetEnd = s.part.releasePin.start kind :=
        Part.startIfOver_of_over active ((Part.resetOver_releasePin _).mpr ⟨Option.isSome_iff_exists.mpr ⟨_, active⟩, unheld⟩)
      have same : started = if kind = .resetPin then (s.part.releasePin.started kind).modLoader fun l => l.begin_ .warmStart none
          else s.part.releasePin.started kind := by
        have ports : mapTable (fun _ => Port.start) s.part.ports = started.ports := table_ext fun n => by
          simp only [getElem_mapTable, started]
          exact Port.start_eq _
        unfold Part.started
        rw [show s.part.releasePin.ports = s.part.ports from rfl, ports]
        cases kind <;> rfl
      have rest : (s.part.releasePin.start kind).besidesAlarms = started.besidesAlarms := by
        rw [Part.besidesAlarms_start, same]
      refine ⟨_, exec_eq_after (c := .resetEnd) nofun s, State.modPart_memory _ _, ?_, fun i => ?_⟩
      · rw [State.modPart_part, starts]
        exact rest
      · have now : (s.part.releasePin.start kind).now = s.part.now := (congrArg Part.now rest :)
        have time : (s.part.releasePin.start kind).cabinetTime = s.part.cabinetTime := (congrArg Part.cabinetTime rest :)
        rw [State.modPart_part, starts, Part.condition_start, now, time, Part.start_alarm]
        exact Part.reintegrate_point _ i
  · refine ⟨_, _, exec_eq_after (c := .powerOnReset) nofun s, exec_eq_after (c := .supplyReturn) nofun _, ?_⟩
    rw [exec_eq_after (c := .resetEnd) nofun]
    have powered : ((s.part.after .powerOnReset).after .supplyReturn).releasePin = s.part.blank
        { active := some .powerOn, pinLow := false, supplyLow := false, dip := none, cause := s.part.control.cause
          warmCount := s.part.control.warmCount } := by
      rw [Part.after_powerOnReset, Part.underReset_of_power (kind := .powerOn) nofun, Part.after_supplyReturn]
      rfl
    have ended : ((s.part.after .powerOnReset).after .supplyReturn).after .resetEnd = Part.reset := by
      rw [Part.after_resetEnd, powered, Part.startIfOver_of_over (kind := .powerOn) rfl rfl,
        Part.start_blank levels contacts]
    simp only [State.modPart, ended]
    rfl

/-! ### The state called reset -/

theorem Part.reset_port (n : Slot) : Part.reset.ports[n] = Port.reset false false := by simp [Part.reset]

theorem Part.reset_ring (r : RingNo) : Part.reset.rings[r] = Ring.reset := by simp [Part.reset]

theorem Part.reset_headRecord (r : RingNo) : Part.reset.headRecord r = none := by
  rw [Option.eq_none_iff_forall_ne_some]
  intro h head
  rw [Part.headRecord_eq_some, Part.reset_ring] at head
  exact absurd head.2 nofun

theorem Part.reset_portsSound : Part.reset.portsSound := by
  intro n
  refine ⟨?_, ?_, ?_, ?_⟩
  · rw [Port.flowSound, Part.reset_port]
    exact ⟨Nat.zero_le 8, rfl⟩
  · rw [Part.tagsSound, Part.openTags, Part.reset_port]
    exact ⟨List.nodup_nil, List.nodup_nil, fun t => Iff.rfl⟩
  · rw [Part.answersSound, Part.reset_port]
    exact ⟨nofun, nofun, fun _ => ⟨rfl, nofun, nofun⟩⟩
  · rw [Part.checkSound, Part.reset_port]
    exact ⟨nofun, Nat.le_refl 0⟩

theorem Part.reset_alarmsReported : Part.reset.alarmsReported := by
  have reported : ∀ i : Point, (Part.reset.condition i).all (· == Part.reset.alarm.points[i].raw) = true := by
    decide +kernel
  intro _ i b condition
  have h := reported i
  rw [condition] at h
  exact (beq_iff_eq.mp h).symm

theorem Part.reset_exchangeSound : Part.reset.exchangeSound := by
  refine ⟨fun n => ?_, nofun, fun r h head => ?_, nofun, rfl⟩
  · have none_held : Part.reset.heldDests n = 0 := by
      simp only [Part.heldDests, Part.reset_headRecord]
      rfl
    rw [none_held, Part.reset_port]
    rfl
  · rw [Part.reset_headRecord] at head
    cases head

theorem Part.reset_ringsSound : Part.reset.ringsSound := by
  refine ⟨fun r => ?_, fun r h head => ?_, nofun, List.nodup_nil, List.nodup_nil, rfl⟩
  · rw [Part.reset_ring]
    exact Nat.zero_le _
  · rw [Part.reset_headRecord] at head
    cases head

theorem Part.reset_serviceSound : Part.reset.serviceSound := by
  intro n
  have undriven : Part.reset.attn n = false := by
    rw [Bool.eq_false_iff, ne_eq, Part.attn_eq_true_iff, Part.reset_port]
    exact fun h => absurd h.1 nofun
  dsimp only
  rw [undriven, Part.reset_port]
  exact ⟨by simp [Port.reset, Strobe.reset, Heartbeat.reset], nofun⟩

/-- Settles O14. -/
theorem resetMeetsTheInvariants : Obligations.ResetMeetsTheInvariants := by
  unfold Obligations.ResetMeetsTheInvariants
  refine ⟨State.reset_canonical, Part.reset_portsSound, ?_, ?_, ?_, ?_, Part.reset_alarmsReported, Part.reset_exchangeSound,
    ⟨bootstrap_laidOut, nofun⟩, Part.reset_ringsSound, Part.reset_serviceSound, fun n i identity => ?_⟩
  · exact fun fenced => absurd ((Part.reset_port 0).symm ▸ fenced : (Port.reset false false).state = .fenced) nofun
  · exact ⟨by decide +kernel, rfl, nofun, by decide⟩
  · unfold Part.alarmsSound AlarmPoint.sound
    decide +kernel
  · unfold Part.alarmsFollow
    decide +kernel
  · have absent := (congrArg Port.identity (Part.reset_port n)).symm.trans identity
    cases absent

end Sys2Proof.Machine
end


section
/-! PROOFS. Slot ports: what each entry to a state makes of the port and of the reads in flight (4.1 to 4.4), which dirty marks
stay, and what the end of an event leaves of them. -/
namespace Sys2Proof.Machine

/-! ### Dirty marks only grow (R180) -/

/-- Every record dirty in `st` is dirty in `st'`. -/
def Status.DirtyIn (st st' : Status) : Prop := ∀ k : RecordNo, st.dirty[k.val] = true → st'.dirty[k.val] = true

theorem Status.DirtyIn.refl (st : Status) : st.DirtyIn st := fun _ h => h

theorem Status.DirtyIn.trans {a b c : Status} (h : a.DirtyIn b) (h' : b.DirtyIn c) : a.DirtyIn c := fun k d => h' k (h k d)

theorem Status.DirtyIn.of_eq {st st' : Status} (h : st'.dirty = st.dirty) : st.DirtyIn st' := fun _ d => h ▸ d

theorem Status.mark_dirty_self (st : Status) (k : RecordNo) : (st.mark k).dirty[k.val] = true :=
  getElem_modify_self st.dirty k _

theorem Status.dirtyIn_mark (st : Status) (k : RecordNo) : st.DirtyIn (st.mark k) := by
  intro j d
  by_cases e : k = j
  · subst e
    exact Status.mark_dirty_self st k
  · exact (getElem_modify_ne st.dirty k _ j.val j.isLt fun x => e (Fin.ext x)).trans d

theorem Status.issue_dirty (st : Status) : st.issue.dirty = st.dirty := by
  unfold Status.issue
  repeat' split
  all_goals rfl

theorem Status.dirtyIn_offerRecord (st : Status) (r : LogRecord) : st.DirtyIn (st.offerRecord r) := by
  unfold Status.offerRecord
  dsimp only
  split
  · exact .of_eq (Status.issue_dirty _)
  · exact (Status.DirtyIn.of_eq rfl).trans (Status.dirtyIn_mark _ _)

theorem dirtyIn_transition (x : PointContext) (i : Point) (b : Bool) (as : Alarm × Status) :
    as.2.DirtyIn (transition x i b as).2 := by
  show as.2.DirtyIn (if x.plan.mask then as.2.mark 16 else (as.2.mark 16).offer i b x.plan x.time)
  split
  · exact Status.dirtyIn_mark _ _
  · exact (Status.dirtyIn_mark _ _).trans (Status.dirtyIn_offerRecord _ _)

theorem dirtyIn_react (x : PointContext) (i : Point) (as : Alarm × Status) : as.2.DirtyIn (react x i as).2 := by
  rcases react_cases x i as with h | ⟨b, h⟩ | ⟨st, start, -, h⟩ <;> rw [h]
  · exact .refl _
  · exact dirtyIn_transition x i b as
  · exact .refl _

theorem dirtyIn_reportOn (x : PointContext) (i : Point) (raw : Bool) (as : Alarm × Status) :
    as.2.DirtyIn (reportOn x i raw as).2 := by
  unfold reportOn
  split
  · exact .refl _
  · exact dirtyIn_react x i ({ as.1 with points := modify as.1.points i fun pt => { pt with raw := raw } }, as.2)

theorem Part.dirtyIn_report (l : List Point) (p : Part) : p.status.DirtyIn (p.report l).status := by
  refine foldl_invariant (fun as : Alarm × Status => p.status.DirtyIn as.2) _ (fun as i h => ?_) l _ (.refl _)
  split
  · exact h.trans (dirtyIn_reportOn _ _ _ _)
  · exact h

theorem Part.dirtyIn_raiseEvent (i : Point) (p : Part) : p.status.DirtyIn (p.raiseEvent i).status :=
  dirtyIn_react (p.context i) i ({ p.alarm with points := modify p.alarm.points i fun pt =>
    { pt with raw := true, lastEvent := some p.now } }, p.status)

/-! ### What stays within a view, field by field -/

theorem Part.flights_of_exchange {p q : Part} (h : q.besidesExchange = p.besidesExchange) : q.flights = p.flights :=
  (congrArg Part.flights h :)

theorem Part.plan_of_exchange {p q : Part} (h : q.besidesExchange = p.besidesExchange) : q.plan = p.plan :=
  (congrArg Part.plan h :)

theorem Part.status_of_exchange {p q : Part} (h : q.besidesExchange = p.besidesExchange) : q.status = p.status :=
  (congrArg Part.status h :)

theorem Part.alarm_of_exchange {p q : Part} (h : q.besidesExchange = p.besidesExchange) : q.alarm = p.alarm :=
  (congrArg Part.alarm h :)

theorem Part.clock_of_exchange {p q : Part} (h : q.besidesExchange = p.besidesExchange) : q.clock = p.clock :=
  (congrArg Part.clock h :)

theorem Part.loader_of_exchange {p q : Part} (h : q.besidesExchange = p.besidesExchange) : q.loader = p.loader :=
  (congrArg Part.loader h :)

theorem Part.now_of_exchange {p q : Part} (h : q.besidesExchange = p.besidesExchange) : q.now = p.now :=
  (congrArg Part.now h :)

/-- What stays within the exchange changes the counters of a port alone. -/
theorem Part.port_of_exchange {p q : Part} (h : q.besidesExchange = p.besidesExchange) (n : Slot) :
    q.ports[n].besidesCounters = p.ports[n].besidesCounters := by
  have ports : mapTable (fun _ => Port.besidesCounters) q.ports = mapTable (fun _ => Port.besidesCounters) p.ports :=
    congrArg Part.ports h
  simpa using congrArg (fun v : Vector Port 12 => v[n.val]) ports

theorem Part.state_of_exchange {p q : Part} (h : q.besidesExchange = p.besidesExchange) (n : Slot) :
    q.ports[n].state = p.ports[n].state :=
  (congrArg Port.state (Part.port_of_exchange h n) :)

theorem Part.admitted_of_exchange {p q : Part} (h : q.besidesExchange = p.besidesExchange) (n : Slot) :
    q.admitted n = p.admitted n :=
  congrArg (· == SlotState.admitted) (Part.state_of_exchange h n)

theorem Part.flights_of_alarms {p q : Part} (h : q.besidesAlarms = p.besidesAlarms) : q.flights = p.flights :=
  (congrArg Part.flights h :)

theorem Part.ports_of_alarms {p q : Part} (h : q.besidesAlarms = p.besidesAlarms) : q.ports = p.ports :=
  (congrArg Part.ports h :)

/-- What stays within an event of slot `n` changes the counters alone of every other port. -/
theorem Part.port_of_besidesSlot {n m : Slot} (ne : n ≠ m) {p q : Part} (h : q.besidesSlot n = p.besidesSlot n) :
    q.ports[m].besidesCounters = p.ports[m].besidesCounters := by
  have entry : ∀ r : Part, (r.besidesSlot n).ports[m] = r.ports[m].besidesCounters := by
    intro r
    refine (getElem_modify_ne _ n _ m.val m.isLt fun e => ne (Fin.ext e)).trans ?_
    exact getElem_mapTable _ _ _ _
  rw [← entry, ← entry, h]

theorem Part.plan_of_besidesSlot {n : Slot} {p q : Part} (h : q.besidesSlot n = p.besidesSlot n) : q.plan = p.plan :=
  (congrArg Part.plan h :)

theorem Part.now_of_besidesSlot {n : Slot} {p q : Part} (h : q.besidesSlot n = p.besidesSlot n) : q.now = p.now :=
  (congrArg Part.now h :)

/-! ### The end of a slot event (R65) -/

theorem Part.settleSlots_port (old : Engine) (p : Part) (n : Slot) :
    (p.settleSlots old).ports[n].besidesCounters = p.ports[n].besidesCounters := by
  unfold Part.settleSlots
  rw [Part.ports_of_alarms (Part.besidesAlarms_report _ _), Part.port_of_exchange (Part.besidesExchange_settleExchange _ _)]
  rfl

theorem Part.settleSlots_flights (old : Engine) (p : Part) : (p.settleSlots old).flights = p.flights := by
  unfold Part.settleSlots
  rw [Part.flights_of_alarms (Part.besidesAlarms_report _ _), Part.flights_of_exchange (Part.besidesExchange_settleExchange _ _)]
  rfl

theorem Part.dirtyIn_settleSlots (old : Engine) (p : Part) : p.status.DirtyIn (p.settleSlots old).status := by
  unfold Part.settleSlots
  refine .trans ?_ (Part.dirtyIn_report _ _)
  rw [Part.status_of_exchange (Part.besidesExchange_settleExchange _ _)]
  exact .refl _

theorem Part.slotEvent_port (f : Part → Part) (p : Part) (n : Slot) :
    (Part.slotEvent f p).ports[n].besidesCounters = (f p).ports[n].besidesCounters := Part.settleSlots_port _ _ n

theorem Part.slotEvent_flights (f : Part → Part) (p : Part) : (Part.slotEvent f p).flights = (f p).flights :=
  Part.settleSlots_flights _ _

theorem Part.dirtyIn_slotEvent (f : Part → Part) (p : Part) : (f p).status.DirtyIn (Part.slotEvent f p).status :=
  Part.dirtyIn_settleSlots _ _

/-! ### Changes of state -/

theorem Part.idleRings_ports (n : Slot) (p : Part) : (p.idleRings n).ports = p.ports := by
  refine forEach_keeps Part.ports 4 _ (fun c q => ?_) p
  split <;> rfl

theorem Part.idleRings_status (n : Slot) (p : Part) : (p.idleRings n).status = p.status :=
  Part.status_of_exchange (Part.besidesExchange_idleRings n p)

/-- A slot port after a change of state: its service stops when it leaves ADMITTED (R65, R72, R77, R162). -/
def Port.restated (x : Port) (st : SlotState) : Port :=
  { x with
    state := st
    heartbeat := if x.state = .admitted then { x.heartbeat with supervising := false } else x.heartbeat
    waived := if x.state = .admitted then false else x.waived
    strobe := if x.state = .admitted then Strobe.reset else x.strobe }

theorem Port.restated_of_admitted {x : Port} (h : x.state = .admitted) (st : SlotState) :
    x.restated st = { x with state := st }.stopService := by
  unfold Port.restated
  rw [if_pos h, if_pos h, if_pos h]
  rfl

theorem Port.restated_of_not_admitted {x : Port} (h : x.state ≠ .admitted) (st : SlotState) :
    x.restated st = { x with state := st } := by
  unfold Port.restated
  rw [if_neg h, if_neg h, if_neg h]

/-- A port whose service is stopped anyway is the same whether it left ADMITTED or not. -/
theorem Port.stopService_restated (x : Port) (st : SlotState) :
    (x.restated st).stopService = { x with state := st }.stopService := by
  by_cases h : x.state = .admitted
  · rw [Port.restated_of_admitted h]
    rfl
  · rw [Port.restated_of_not_admitted h]

theorem Part.setState_port (n : Slot) (st : SlotState) (p : Part) :
    (p.setState n st).ports[n] = p.ports[n].restated st := by
  unfold Part.setState Part.admitted
  dsimp only
  by_cases was : p.ports[n].state = .admitted
  · rw [if_pos (beq_iff_eq.mpr was), Port.restated_of_admitted was, Part.idleRings_ports, Part.modPort_self, Part.mark_ports,
      Part.modPort_self]
  · rw [if_neg (fun e => was (beq_iff_eq.mp e)), Port.restated_of_not_admitted was, Part.mark_ports, Part.modPort_self]

theorem Part.setState_flights (n : Slot) (st : SlotState) (p : Part) : (p.setState n st).flights = p.flights := by
  unfold Part.setState
  dsimp only
  split
  · rw [Part.flights_of_exchange (Part.besidesExchange_idleRings n _)]
    rfl
  · rfl

/-- A change of state makes the slot's status record dirty (R54). -/
theorem Part.setState_status (n : Slot) (st : SlotState) (p : Part) :
    (p.setState n st).status = p.status.mark (slotRecordNo n) := by
  unfold Part.setState
  dsimp only
  split
  · rw [Part.idleRings_status]
    rfl
  · rfl

theorem Part.setState_dirty (n : Slot) (st : SlotState) (p : Part) :
    (p.setState n st).status.dirty[slotRecordNo n] = true := by
  rw [Part.setState_status]
  exact Status.mark_dirty_self _ _

/-- A slot port after its entry to TRAINING at service-clock time `now` (R58). -/
def Port.trained (x : Port) (now : Nat) : Port := { x.linkDown with state := .training, stateTimer := some now }

/-- A slot port after its entry to STANDBY (R56). -/
def Port.stoodBy (x : Port) : Port := { x.linkDown with state := .standby, stateTimer := none }

theorem Part.enterTraining_restated (n : Slot) (p : Part) :
    (p.enterTraining n).ports[n] = { (p.ports[n].restated .training).linkDown with stateTimer := some p.now } := by
  unfold Part.enterTraining
  rw [Part.modPort_self, Part.setState_port]

theorem Part.enterTraining_port {n : Slot} {p : Part} (h : p.ports[n].state ≠ .admitted) :
    (p.enterTraining n).ports[n] = p.ports[n].trained p.now := by
  unfold Part.enterTraining
  rw [Part.modPort_self, Part.setState_port, Port.restated_of_not_admitted h]
  rfl

theorem Part.enterTraining_flights (n : Slot) (p : Part) : (p.enterTraining n).flights = p.flights :=
  Part.setState_flights n _ p

theorem Part.enterTraining_dirty (n : Slot) (p : Part) : (p.enterTraining n).status.dirty[slotRecordNo n] = true :=
  Part.setState_dirty n _ p

theorem Part.setState_now (n : Slot) (st : SlotState) (p : Part) : (p.setState n st).now = p.now :=
  Part.now_of_besidesSlot (Part.besidesSlot_setState n st p)

/-- With PWRGDn asserted an entry to POWERING goes on to TRAINING (R57). -/
theorem Part.enterPowering_port {n : Slot} {p : Part} (h : p.ports[n].state ≠ .admitted) :
    (p.enterPowering n).ports[n] = p.ports[n].powered p.now := by
  have q : ((p.setState n .powering).modPort n fun x => { x.linkDown with stateTimer := some p.now }).ports[n]
      = { p.ports[n].linkDown with state := .powering, stateTimer := some p.now } := by
    rw [Part.modPort_self, Part.setState_port, Port.restated_of_not_admitted h]
    rfl
  have now : ((p.setState n .powering).modPort n fun x => { x.linkDown with stateTimer := some p.now }).now = p.now :=
    Part.setState_now n .powering p
  unfold Part.enterPowering Port.powered
  dsimp only
  split
  · rw [Part.enterTraining_port (by rw [q]; nofun), q, now]
    rfl
  · exact q

theorem Part.enterPowering_flights (n : Slot) (p : Part) : (p.enterPowering n).flights = p.flights := by
  unfold Part.enterPowering
  dsimp only
  split
  · rw [Part.enterTraining_flights, Part.modPort_flights, Part.setState_flights]
  · exact Part.setState_flights n _ p

theorem Part.enterPowering_dirty (n : Slot) (p : Part) : (p.enterPowering n).status.dirty[slotRecordNo n] = true := by
  unfold Part.enterPowering
  dsimp only
  split
  · exact Part.enterTraining_dirty _ _
  · exact Part.setState_dirty n _ p

theorem Part.enterStandby_port {n : Slot} {p : Part} (h : p.ports[n].state ≠ .admitted) :
    (p.enterStandby n).ports[n] = if n = 0 then p.ports[n].powered p.now else p.ports[n].stoodBy := by
  have q : ((p.setState n .standby).modPort n fun x => { x.linkDown with stateTimer := none }).ports[n]
      = p.ports[n].stoodBy := by
    rw [Part.modPort_self, Part.setState_port, Port.restated_of_not_admitted h]
    rfl
  have now : ((p.setState n .standby).modPort n fun x => { x.linkDown with stateTimer := none }).now = p.now :=
    Part.setState_now n .standby p
  unfold Part.enterStandby
  dsimp only
  by_cases zero : n = 0
  · have first : n.val = 0 := congrArg Fin.val zero
    rw [if_pos first, if_pos zero, Part.enterPowering_port (by rw [q]; nofun), q, now]
    rfl
  · have later : ¬n.val = 0 := fun e => zero (Fin.ext e)
    rw [if_neg later, if_neg zero, q]

theorem Part.enterStandby_flights (n : Slot) (p : Part) : (p.enterStandby n).flights = p.flights := by
  unfold Part.enterStandby
  dsimp only
  split
  · rw [Part.enterPowering_flights, Part.modPort_flights, Part.setState_flights]
  · exact Part.setState_flights n _ p

theorem Part.enterStandby_dirty (n : Slot) (p : Part) : (p.enterStandby n).status.dirty[slotRecordNo n] = true := by
  unfold Part.enterStandby
  dsimp only
  split
  · exact Part.enterPowering_dirty _ _
  · exact Part.setState_dirty n _ p

theorem Part.enterEmpty_port {n : Slot} {p : Part} (h : p.ports[n].state ≠ .admitted) :
    (p.enterEmpty n).ports[n] = p.ports[n].emptied := by
  unfold Part.enterEmpty
  rw [Part.modPort_self, Part.setState_port, Port.restated_of_not_admitted h]
  rfl

theorem Part.enterEmpty_flights (n : Slot) (p : Part) : (p.enterEmpty n).flights = p.flights :=
  Part.setState_flights n _ p

theorem Part.enterEmpty_dirty (n : Slot) (p : Part) : (p.enterEmpty n).status.dirty[slotRecordNo n] = true :=
  Part.setState_dirty n _ p

/-! ### Fences, removals and lost links (R11, R12, R61, R65, R70) -/

theorem Part.cancelCheck_port (n : Slot) (p : Part) :
    (p.cancelCheck n).ports[n] = { p.ports[n] with check := none } := Part.modPort_self _ _ _

theorem Part.refuseRequests_port (n : Slot) (p : Part) : (p.refuseRequests n).ports[n] = p.ports[n].refuseReads :=
  Part.modPort_self _ _ _

theorem Part.dropRequests_port (n : Slot) (p : Part) : (p.dropRequests n).ports[n] = p.ports[n].dropReads :=
  Part.modPort_self _ _ _

/-- The reads in flight after the end of a check of slot `n` (R61). -/
def uncheckedFlights (n : Slot) (l : List Flight) : List Flight :=
  l.map fun f =>
    match f.purpose with
    | .check m live => { f with purpose := .check m (live && m != n) }
    | _ => f

theorem Part.cancelCheck_flights (n : Slot) (p : Part) : (p.cancelCheck n).flights = uncheckedFlights n p.flights := by
  refine List.map_congr_left fun f _ => ?_
  obtain ⟨purpose, data⟩ := f
  cases purpose with
  | check m live => by_cases e : m = n <;> simp [e]
  | _ => rfl

/-- The marks of a fence or a lost link and those of a check's end come to the same in either order. -/
theorem markFlights_uncheckedFlights (n : Slot) (fence : Bool) (l : List Flight) :
    markFlights n fence (uncheckedFlights n l) = markedFlights n fence l := by
  simp only [markFlights, uncheckedFlights, markedFlights, List.map_map]
  refine List.map_congr_left fun f _ => ?_
  obtain ⟨purpose, data⟩ := f
  cases purpose with
  | card m t a b => cases fence <;> simp
  | _ => rfl

theorem uncheckedFlights_markFlights (n : Slot) (fence : Bool) (l : List Flight) :
    uncheckedFlights n (markFlights n fence l) = markedFlights n fence l := by
  simp only [markFlights, uncheckedFlights, markedFlights, List.map_map]
  refine List.map_congr_left fun f _ => ?_
  obtain ⟨purpose, data⟩ := f
  cases purpose with
  | card m t a b => by_cases e : m = n <;> cases fence <;> simp [e]
  | _ => rfl

/-- A port fenced: the marks of its entry stop its service whatever its state was (R11, R12, R65). -/
theorem Port.fencedBy_eq (x : Port) (why : FenceReason) (off : Bool) :
    x.fencedBy why off =
      (let y := { (if off then (x.restated .fenced).linkDown else x.restated .fenced) with check := none }
       { (if y.link then y.refuseReads else y.dropReads).stopService with
          fenceReason := why, powerRemoved := off, stateTimer := none, settlementOwed := true, releaseHeld := false }) := by
  unfold Port.fencedBy Port.restated
  cases off <;> cases link : x.link <;> by_cases h : x.state = .admitted <;>
    simp [h, link, Port.stopService, Port.linkDown, Port.refuseReads, Port.dropReads, Port.unqueueReads]

theorem Part.enterFenced_port (n : Slot) (why : FenceReason) (off : Bool) (p : Part) :
    (p.enterFenced n why off).ports[n] = p.ports[n].fencedBy why off := by
  have checked : ((p.setState n .fenced).cancelCheck n).ports[n] = { p.ports[n].restated .fenced with check := none } := by
    rw [Part.cancelCheck_port, Part.setState_port]
  have cut : ∀ q : Part, (if q.ports[n].link = true then q.refuseRequests n else q.dropRequests n).ports[n]
      = if q.ports[n].link = true then q.ports[n].refuseReads else q.ports[n].dropReads := by
    intro q
    split
    · exact Part.refuseRequests_port n q
    · exact Part.dropRequests_port n q
  unfold Part.enterFenced
  rw [Port.fencedBy_eq]
  dsimp only
  rw [Part.modPort_self, cut]
  cases off
  · rw [if_neg Bool.false_ne_true, if_neg Bool.false_ne_true, checked]
  · rw [if_pos rfl, if_pos rfl, Part.modPort_self, checked]
    rfl

/-- A fence marks the slot's reads in flight by whether its link is up then (R11, R12, R61). -/
theorem Part.enterFenced_flights (n : Slot) (why : FenceReason) (off : Bool) (p : Part) :
    (p.enterFenced n why off).flights = markedFlights n (p.ports[n].link && !off) p.flights := by
  have checked : ((p.setState n .fenced).cancelCheck n).flights = uncheckedFlights n p.flights := by
    rw [Part.cancelCheck_flights, Part.setState_flights]
  have link : ((p.setState n .fenced).cancelCheck n).ports[n].link = p.ports[n].link := by
    rw [Part.cancelCheck_port, Part.setState_port]
    rfl
  have cut : ∀ q : Part, (if q.ports[n].link = true then q.refuseRequests n else q.dropRequests n).flights
      = markFlights n q.ports[n].link q.flights := by
    intro q
    cases q.ports[n].link <;> rfl
  unfold Part.enterFenced
  dsimp only
  rw [Part.modPort_flights, cut, ← markFlights_uncheckedFlights]
  cases off
  · rw [if_neg Bool.false_ne_true, checked, link, Bool.not_false, Bool.and_true]
  · rw [if_pos rfl, Part.modPort_self, Part.modPort_flights, checked, Bool.not_true, Bool.and_false]
    rfl

theorem Part.cancelCheck_status (n : Slot) (p : Part) : (p.cancelCheck n).status = p.status := rfl

theorem Part.enterFenced_dirty (n : Slot) (why : FenceReason) (off : Bool) (p : Part) :
    (p.enterFenced n why off).status.dirty[slotRecordNo n] = true := by
  have status : (p.enterFenced n why off).status = (p.setState n .fenced).status := by
    have cut : ∀ q : Part, (if q.ports[n].link = true then q.refuseRequests n else q.dropRequests n).status = q.status := by
      intro q
      split <;> rfl
    unfold Part.enterFenced
    dsimp only
    rw [Part.modPort_status, cut]
    cases off <;> rfl
  rw [show (p.enterFenced n why off).status.dirty[slotRecordNo n] = _ from congrArg (·.dirty[slotRecordNo n]) status]
  exact Part.setState_dirty n _ p

/-- A port removed: the marks of its entry stop its service whatever its state was (R12, R70). -/
theorem Port.removedBy_eq (x : Port) (cycle : Bool) (now : Nat) :
    x.removedBy cycle now = { ({ x.restated .removing with check := none } : Port).dropReads.stopService with
      stateTimer := if cycle then some now else none, releaseHeld := false, fenceReason := .none, powerRemoved := false
      powerCycle := cycle, settlementOwed := true } := by
  unfold Port.removedBy Port.restated
  by_cases h : x.state = .admitted <;> simp [h, Port.stopService, Port.dropReads, Port.unqueueReads]

theorem Part.enterRemoving_port (n : Slot) (cycle : Bool) (p : Part) :
    (p.enterRemoving n cycle).ports[n] = p.ports[n].removedBy cycle p.now := by
  unfold Part.enterRemoving
  dsimp only
  have now : (((p.setState n .removing).cancelCheck n).dropRequests n).now = p.now := Part.setState_now n .removing p
  rw [Part.modPort_self, Part.dropRequests_port, Part.cancelCheck_port, Part.setState_port, now, Port.removedBy_eq]

theorem Part.enterRemoving_flights (n : Slot) (cycle : Bool) (p : Part) :
    (p.enterRemoving n cycle).flights = markedFlights n false p.flights := by
  unfold Part.enterRemoving
  dsimp only
  rw [← markFlights_uncheckedFlights, ← Part.setState_flights n .removing p, ← Part.cancelCheck_flights]
  rfl

theorem Part.enterRemoving_dirty (n : Slot) (cycle : Bool) (p : Part) :
    (p.enterRemoving n cycle).status.dirty[slotRecordNo n] = true :=
  Part.setState_dirty n .removing p

end Sys2Proof.Machine
end


section
/-! PROOFS. The events of a slot port: fences and RELEASE, heartbeats and admission words, links, presence, power-good and the limits
of a slot's timers (Chapter 4). -/
namespace Sys2Proof.Machine

/-! ### Faults and released slots -/

theorem Part.fenceKeepingPower_of_ne {n : Slot} (h : n ≠ 0) (why : FenceReason) (p : Part) :
    p.fenceKeepingPower n why = p.enterFenced n why false := by
  have later : ¬n.val = 0 := fun e => h (Fin.ext e)
  exact if_neg later

theorem Part.fenceKeepingPower_zero (why : FenceReason) (p : Part) : p.fenceKeepingPower 0 why = p := rfl

theorem Part.powerFault_zero (why : FenceReason) (p : Part) : p.powerFault 0 why = p.enterRemoving 0 true := rfl

theorem Part.powerFault_of_ne {n : Slot} (h : n ≠ 0) (why : FenceReason) (p : Part) :
    p.powerFault n why = p.enterFenced n why true := by
  have later : ¬n.val = 0 := fun e => h (Fin.ext e)
  exact if_neg later

theorem Part.powerFault_port (n : Slot) (why : FenceReason) (p : Part) :
    (p.powerFault n why).ports[n] = if n = 0 then p.ports[n].removedBy true p.now else p.ports[n].fencedBy why true := by
  by_cases zero : n = 0
  · subst zero
    exact Part.enterRemoving_port 0 true p
  · rw [Part.powerFault_of_ne zero, if_neg zero, Part.enterFenced_port]

theorem Part.powerFault_flights (n : Slot) (why : FenceReason) (p : Part) :
    (p.powerFault n why).flights = markedFlights n false p.flights := by
  by_cases zero : n = 0
  · subst zero
    exact Part.enterRemoving_flights 0 true p
  · rw [Part.powerFault_of_ne zero, Part.enterFenced_flights, Bool.not_true, Bool.and_false]

theorem Part.powerFault_dirty (n : Slot) (why : FenceReason) (p : Part) :
    (p.powerFault n why).status.dirty[slotRecordNo n] = true := by
  by_cases zero : n = 0
  · subst zero
    exact Part.enterRemoving_dirty 0 true p
  · rw [Part.powerFault_of_ne zero]
    exact Part.enterFenced_dirty n why true p

/-- A FENCED port after a RELEASE of it was taken (R68). -/
def Port.freed (x : Port) : Port := { x with releaseHeld := false, fenceReason := .none, powerRemoved := false }

/-- A slot port after its RELEASE at service-clock time `now`, with its slot `enabled` or not (R57, R58, R68). -/
def Port.released (x : Port) (n : Slot) (enabled : Bool) (now : Nat) : Port :=
  if x.powerRemoved = false then (if x.link = true then { x.freed with state := .quarantine } else x.freed.trained now)
  else if enabled = true then x.freed.powered now
  else if n = 0 then x.freed.powered now
  else x.freed.stoodBy

theorem Part.takeRelease_port {n : Slot} {p : Part} (h : p.ports[n].state ≠ .admitted) :
    (p.takeRelease n).ports[n] = p.ports[n].released n p.plan.slots[n].enabled p.now := by
  have freed : (p.modPort n Port.freed).ports[n] = p.ports[n].freed := Part.modPort_self _ _ _
  have down : (p.modPort n Port.freed).ports[n].state ≠ .admitted := by rwa [freed]
  unfold Part.takeRelease Port.released
  dsimp only
  cases p.ports[n].powerRemoved with
  | false =>
    rw [if_pos Bool.not_false, if_pos rfl]
    split
    · refine (Part.setState_port n _ (p.modPort n Port.freed)).trans ?_
      rw [Port.restated_of_not_admitted down, freed]
    · refine (Part.enterTraining_port down).trans ?_
      rw [freed]
      rfl
  | true =>
    rw [if_neg (show ¬(!true) = true from nofun), if_neg (show ¬true = false from nofun)]
    split
    · refine (Part.enterPowering_port down).trans ?_
      rw [freed]
      rfl
    · refine (Part.enterStandby_port down).trans ?_
      rw [freed]
      rfl

theorem Part.takeRelease_flights (n : Slot) (p : Part) : (p.takeRelease n).flights = p.flights := by
  unfold Part.takeRelease
  dsimp only
  repeat' split
  · rw [Part.setState_flights, Part.modPort_flights]
  · rw [Part.enterTraining_flights, Part.modPort_flights]
  · rw [Part.enterPowering_flights, Part.modPort_flights]
  · rw [Part.enterStandby_flights, Part.modPort_flights]

theorem Part.takeRelease_dirty (n : Slot) (p : Part) : (p.takeRelease n).status.dirty[slotRecordNo n] = true := by
  unfold Part.takeRelease
  dsimp only
  repeat' split
  · exact Part.setState_dirty _ _ _
  · exact Part.enterTraining_dirty _ _
  · exact Part.enterPowering_dirty _ _
  · exact Part.enterStandby_dirty _ _

/-! ### A command that is a slot event -/

/-- What a command leaves that is a slot event of the part `q`: the port, the reads in flight and the dirty marks are those the
event's own operation leaves (R65). -/
theorem exec_slotEvent {c : Instr} {n : Slot} {f : Part → Part} {q : Part} {s : State}
    (h : s.part.after c = Part.slotEvent f q) (keeps : (f q).besidesSlot n = q.besidesSlot n) (ne : c ≠ .accessGrant) :
    ∃ t, exec c s = .next t ∧ t.memory = s.memory ∧ t.part.besidesSlot n = q.besidesSlot n
      ∧ t.part.flights = (f q).flights ∧ (f q).status.DirtyIn t.part.status
      ∧ t.part.ports[n].besidesCounters = (f q).ports[n].besidesCounters := by
  refine ⟨_, exec_eq_after ne s, State.modPart_memory _ _, ?_⟩
  rw [State.modPart_part, h]
  exact ⟨Part.besidesSlot_slotEvent keeps, Part.slotEvent_flights f q, Part.dirtyIn_slotEvent f q, Part.slotEvent_port f q n⟩

/-! ### FENCE and RELEASE (R68, R69) -/

theorem Part.after_fence_of_running {p : Part} (running : p.running = true) (n : Slot) :
    p.after (.fence n) = (p.setWatched (.slotCommand n) 1).fenceCommand n := by
  rw [Part.after_fence, Part.whileRunning_of_running running]
  rfl

theorem Part.after_release_of_running {p : Part} (running : p.running = true) (n : Slot) :
    p.after (.release n) = (p.setWatched (.slotCommand n) 2).releaseCommand n := by
  rw [Part.after_release, Part.whileRunning_of_running running]
  rfl

theorem Part.fenceCommand_of_ignored {n : Slot} {p : Part} (h : p.ports[n].state.linked = false ∨ n = 0) :
    p.fenceCommand n = p := by
  unfold Part.fenceCommand
  rcases h with h | rfl
  · rw [h]
    rfl
  · rw [show (((0 : Slot).val != 0) = false) from rfl, Bool.and_false]
    rfl

theorem Part.fenceCommand_of_linked {n : Slot} {p : Part} (h : p.ports[n].state.linked = true) (ne : n ≠ 0) :
    p.fenceCommand n = Part.slotEvent (fun q => q.enterFenced n .command false) p := by
  have later : (n.val != 0) = true := bne_iff_ne.mpr fun e => ne (Fin.ext e)
  unfold Part.fenceCommand
  rw [h, later]
  exact congrArg (Part.slotEvent · p) (funext fun q => Part.fenceKeepingPower_of_ne ne .command q)

/-- A RELEASE that is acted on at once: it powers a slot in STANDBY and frees a FENCED one that owes no settlement (R68, R69). -/
def Part.releaseOp (n : Slot) (st : SlotState) : Part → Part :=
  if st = .standby then Part.enterPowering n else Part.takeRelease n

theorem Part.releaseCommand_eq (n : Slot) (p : Part) :
    p.releaseCommand n =
      if p.ports[n].state = .fenced ∧ p.ports[n].settlementOwed = true then p.modPort n fun x => { x with releaseHeld := true }
      else if p.ports[n].state = .fenced ∨ (p.ports[n].state = .standby ∧ p.plan.slots[n].enabled = true) then
        Part.slotEvent (Part.releaseOp n p.ports[n].state) p
      else p := by
  unfold Part.releaseCommand Part.releaseOp
  cases p.ports[n].state <;> simp

/-- Settles O32. -/
theorem slotCommandsAreTaken : Obligations.SlotCommandsAreTaken := by
  unfold Obligations.SlotCommandsAreTaken
  intro s n running x enabled q freed trained
  have release := Part.after_release_of_running running n
  rw [Part.releaseCommand_eq] at release
  refine ⟨fun ignored => ?_, fun linked later => ?_, fun fenced owed => ?_, fun ignored => ?_, fun taken => ?_⟩
  · rw [exec_eq_after (c := .fence n) nofun]
    refine congrArg _ (State.modPart_congr ?_)
    exact (Part.after_fence_of_running running n).trans (Part.fenceCommand_of_ignored ignored)
  · have event := (Part.after_fence_of_running running n).trans (Part.fenceCommand_of_linked linked later)
    obtain ⟨t, run, mem, keeps, flights, dirty, port⟩ :=
      exec_slotEvent event (Part.besidesSlot_enterFenced n _ _ _) nofun
    refine ⟨t, run, mem, port.trans ?_, flights.trans ?_, dirty _ (Part.enterFenced_dirty _ _ _ _), keeps⟩
    · rw [Part.enterFenced_port]
      rfl
    · rw [Part.enterFenced_flights, Bool.not_false, Bool.and_true]
      rfl
  · rw [exec_eq_after (c := .release n) nofun]
    refine congrArg _ (State.modPart_congr ?_)
    rw [release]
    exact if_pos ⟨fenced, owed⟩
  · rw [exec_eq_after (c := .release n) nofun]
    refine congrArg _ (State.modPart_congr ?_)
    rw [release, if_neg, if_neg]
    · rintro (fenced | ⟨standby, on⟩)
      · rcases ignored with ⟨ne, -⟩ | ⟨standby, -⟩
        · exact ne fenced
        · exact absurd (standby.symm.trans fenced) nofun
      · rcases ignored with ⟨-, ne⟩ | ⟨-, off⟩
        · exact ne standby
        · exact absurd (off.symm.trans on) nofun
    · rintro ⟨fenced, -⟩
      rcases ignored with ⟨ne, -⟩ | ⟨standby, -⟩
      · exact ne fenced
      · exact absurd (standby.symm.trans fenced) nofun
  · have event : s.part.after (.release n) = Part.slotEvent (Part.releaseOp n x.state) q := by
      rw [release, if_neg, if_pos]
      · rfl
      · rcases taken with ⟨fenced, -⟩ | standby
        · exact .inl fenced
        · exact .inr standby
      · rintro ⟨fenced, owed⟩
        rcases taken with ⟨-, free⟩ | ⟨standby, -⟩
        · exact absurd (free.symm.trans owed) nofun
        · exact absurd (standby.symm.trans fenced) nofun
    have down : x.state ≠ .admitted := by
      rcases taken with ⟨fenced, -⟩ | ⟨standby, -⟩
      · exact fun e => absurd (fenced.symm.trans e) nofun
      · exact fun e => absurd (standby.symm.trans e) nofun
    by_cases standby : x.state = .standby
    · rw [Part.releaseOp, if_pos standby] at event
      obtain ⟨t, run, mem, keeps, flights, dirty, port⟩ :=
        exec_slotEvent event (Part.besidesSlot_enterPowering n _) nofun
      refine ⟨t, run, mem, keeps, flights.trans (Part.enterPowering_flights _ _), dirty _ (Part.enterPowering_dirty _ _),
        port.trans ?_⟩
      rw [Part.enterPowering_port (p := q) down, if_pos standby]
      rfl
    · rw [Part.releaseOp, if_neg standby] at event
      obtain ⟨t, run, mem, keeps, flights, dirty, port⟩ :=
        exec_slotEvent event (Part.besidesSlot_takeRelease n _) nofun
      refine ⟨t, run, mem, keeps, flights.trans (Part.takeRelease_flights _ _), dirty _ (Part.takeRelease_dirty _ _),
        port.trans ?_⟩
      rw [Part.takeRelease_port (p := q) down, if_neg standby]
      rfl

end Sys2Proof.Machine
end


section
/-! PROOFS. The words of the cards and the events of a slot port: heartbeats and admission words, links, presence, power-good, the
limits of the slot timers, and access violations (2.6, 4.1 to 4.7). -/
namespace Sys2Proof.Machine

/-! ### Heartbeats (R73, R74) -/

/-- A slot port with its heartbeat lost (R73, R74). -/
def Port.withoutHeartbeat (x : Port) : Port := { x with heartbeat := { x.heartbeat with lost := true } }

theorem Part.loseHeartbeat_of_fences {n : Slot} {p : Part} (h : p.plan.slots[n].fenceOnHeartbeat = true ∧ n ≠ 0)
    (why : FenceReason) :
    p.loseHeartbeat n why = (p.modPort n Port.withoutHeartbeat).enterFenced n why false := by
  unfold Part.loseHeartbeat
  dsimp only
  rw [if_pos h.1, Part.fenceKeepingPower_of_ne h.2]
  rfl

theorem Part.loseHeartbeat_of_not {n : Slot} {p : Part} (h : ¬(p.plan.slots[n].fenceOnHeartbeat = true ∧ n ≠ 0))
    (why : FenceReason) : p.loseHeartbeat n why = p.modPort n Port.withoutHeartbeat := by
  unfold Part.loseHeartbeat
  dsimp only
  split
  · next fence =>
    have zero : n = 0 := by
      refine Classical.byContradiction fun later => ?_
      exact h ⟨fence, later⟩
    subst zero
    exact Part.fenceKeepingPower_zero _ _
  · rfl

open Classical in
theorem Part.loseHeartbeat_port (n : Slot) (why : FenceReason) (p : Part) :
    (p.loseHeartbeat n why).ports[n] =
      if p.plan.slots[n].fenceOnHeartbeat = true ∧ n ≠ 0 then p.ports[n].withoutHeartbeat.fencedBy why false
      else p.ports[n].withoutHeartbeat := by
  split
  · next h => rw [Part.loseHeartbeat_of_fences h, Part.enterFenced_port, Part.modPort_self]
  · next h => rw [Part.loseHeartbeat_of_not h, Part.modPort_self]

open Classical in
theorem Part.loseHeartbeat_flights (n : Slot) (why : FenceReason) (p : Part) :
    (p.loseHeartbeat n why).flights =
      if p.plan.slots[n].fenceOnHeartbeat = true ∧ n ≠ 0 then markedFlights n p.ports[n].link p.flights else p.flights := by
  split
  · next h =>
    rw [Part.loseHeartbeat_of_fences h, Part.enterFenced_flights, Part.modPort_self, Bool.not_false, Bool.and_true]
    rfl
  · next h => rw [Part.loseHeartbeat_of_not h, Part.modPort_flights]

theorem Part.loseHeartbeat_dirty {n : Slot} {p : Part} (h : p.plan.slots[n].fenceOnHeartbeat = true ∧ n ≠ 0)
    (why : FenceReason) : (p.loseHeartbeat n why).status.dirty[slotRecordNo n] = true := by
  rw [Part.loseHeartbeat_of_fences h]
  exact Part.enterFenced_dirty _ _ _ _

/-- A slot port after the heartbeat value it expected (R73). -/
def Port.beaten (x : Port) (v : Word) (now : Nat) : Port :=
  { x with heartbeat := { x.heartbeat with windowStart := now, lastValid := some v, expected := ~~~v, lost := false } }

theorem Part.judgeHeartbeat_of_expected {n : Slot} {v : Word} {p : Part} (h : v = p.ports[n].heartbeat.expected) :
    p.judgeHeartbeat n v =
      ((p.modPort n fun x => x.beaten v p.now).settleExchange p.engine).report [slotPoint n 2] := by
  unfold Part.judgeHeartbeat
  dsimp only
  rw [if_pos h]
  rfl

theorem Part.judgeHeartbeat_of_repeat {n : Slot} {v : Word} {p : Part} (h : v ≠ p.ports[n].heartbeat.expected)
    (last : p.ports[n].heartbeat.lastValid = some v) : p.judgeHeartbeat n v = p := by
  unfold Part.judgeHeartbeat
  dsimp only
  rw [if_neg h, if_pos last]

theorem Part.judgeHeartbeat_of_wrong {n : Slot} {v : Word} {p : Part} (h : v ≠ p.ports[n].heartbeat.expected)
    (last : p.ports[n].heartbeat.lastValid ≠ some v) :
    p.judgeHeartbeat n v = Part.slotEvent (Part.loseHeartbeat n .heartbeatInvalid) p := by
  unfold Part.judgeHeartbeat
  dsimp only
  rw [if_neg h, if_neg last]

theorem Part.after_heartbeat_of_running {p : Part} (running : p.running = true) (n : Slot) (v : Word) :
    p.after (.heartbeat n v) =
      if p.ports[n].heartbeat.supervising = true then (p.setWatched (.heartbeat n) v).judgeHeartbeat n v
      else p.setWatched (.heartbeat n) v := by
  rw [Part.after_heartbeat, Part.whileRunning_of_running running]
  rfl

/-- Settles O33. -/
theorem cardWordsAreJudged : Obligations.CardWordsAreJudged := by
  unfold Obligations.CardWordsAreJudged
  intro s n v running x q lost fences
  have after := Part.after_heartbeat_of_running running n v
  refine ⟨fun ignored => ?_, fun supervised judged => ?_, ?_⟩
  · rw [exec_eq_after (c := .heartbeat n v) nofun]
    refine congrArg _ (State.modPart_congr (after.trans ?_))
    split
    · next supervised =>
      rcases ignored with off | ⟨wrong, last⟩
      · exact absurd (off.symm.trans supervised) nofun
      · exact Part.judgeHeartbeat_of_repeat (p := q) wrong last
    · rfl
  · rw [if_pos supervised] at after
    by_cases expected : v = x.heartbeat.expected
    · have event := after.trans (Part.judgeHeartbeat_of_expected (p := q) expected)
      have none : ¬fences := fun f => f.1 expected
      have exchange := Part.besidesExchange_settleExchange q.engine (q.modPort n fun x => x.beaten v q.now)
      have alarms := Part.besidesAlarms_report [slotPoint n 2]
        ((q.modPort n fun x => x.beaten v q.now).settleExchange q.engine)
      refine ⟨_, exec_eq_after (c := .heartbeat n v) nofun s, State.modPart_memory _ _, ?_⟩
      rw [State.modPart_part, event, if_neg none, if_pos expected]
      refine ⟨?_, ?_, fun f => absurd f none, ?_⟩
      · rw [Part.besidesSlot_of_alarms n alarms, Part.besidesSlot_of_exchange n exchange, Part.besidesSlot_modPort]
      · rw [Part.flights_of_alarms alarms, Part.flights_of_exchange exchange]
        rfl
      · rw [Part.ports_of_alarms alarms, Part.port_of_exchange exchange, Part.modPort_self]
        refine congrArg Port.besidesCounters ?_
        exact congrArg (fun b => { x with heartbeat :=
          { supervising := b, expected := ~~~v, lastValid := some v, windowStart := s.part.now, lost := false } }) supervised
    · have last : x.heartbeat.lastValid ≠ some v := judged.resolve_left expected
      have event := after.trans (Part.judgeHeartbeat_of_wrong (p := q) expected last)
      have same : (q.plan.slots[n].fenceOnHeartbeat = true ∧ n ≠ 0) ↔ fences := ⟨fun h => ⟨expected, h⟩, fun h => h.2⟩
      obtain ⟨t, run, mem, keeps, flights, dirty, port⟩ :=
        exec_slotEvent event (Part.besidesSlot_loseHeartbeat n _ _) nofun
      refine ⟨t, run, mem, keeps, flights.trans ?_, fun f => dirty _ (Part.loseHeartbeat_dirty (same.mpr f) _), port.trans ?_⟩
      · rw [Part.loseHeartbeat_flights]
        exact ite_iff_congr same rfl rfl
      · rw [Part.loseHeartbeat_port, if_neg expected]
        exact congrArg Port.besidesCounters (ite_iff_congr same rfl rfl)
  · rw [exec_eq_after (c := .admitWord n v) nofun]
    refine congrArg _ (State.modPart_congr ?_)
    rw [Part.after_admitWord, Part.whileRunning_of_running running]
    rfl

/-! ### Links (R58, R64, R67, R78) -/

/-- A slot port whose link has trained in TRAINING (R58, R59). -/
def Port.quarantined (x : Port) : Port := { x.linkUp with stateTimer := none, state := .quarantine, admitResult := .none }

/-- Slot 0's port after it was ADMITTED under the admission waiver (R77). -/
def Port.waivedIn (x : Port) : Port :=
  { x.linkUp with
    stateTimer := none, state := .admitted, admitResult := .waived, waived := true, identity := none, identityShown := true
    violations := 0 }

open Classical in
theorem Part.endTraining_port {n : Slot} {p : Part} (h : p.ports[n].state ≠ .admitted) :
    (p.endTraining n).ports[n] = if n = 0 ∧ p.plan.waiver = true then p.ports[n].waivedIn else p.ports[n].quarantined := by
  have up : (p.modPort n fun x => { x.linkUp with stateTimer := none }).ports[n]
      = { p.ports[n].linkUp with stateTimer := none } := Part.modPort_self _ _ _
  have down : (p.modPort n fun x => { x.linkUp with stateTimer := none }).ports[n].state ≠ .admitted := by rwa [up]
  have zero : (n.val = 0 ∧ p.plan.waiver = true) ↔ (n = 0 ∧ p.plan.waiver = true) := by
    rw [Fin.ext_iff]
    rfl
  unfold Part.endTraining
  dsimp only
  by_cases waived : n = 0 ∧ p.plan.waiver = true
  · rw [if_pos (zero.mpr waived), if_pos waived]
    unfold Part.admitWaived
    rw [Part.modPort_self, Part.setState_port, Port.restated_of_not_admitted down, up]
    rfl
  · rw [if_neg (fun e => waived (zero.mp e)), if_neg waived]
    rw [Part.modPort_self, Part.setState_port, Port.restated_of_not_admitted down, up]
    rfl

theorem Part.endTraining_flights (n : Slot) (p : Part) : (p.endTraining n).flights = p.flights := by
  unfold Part.endTraining
  dsimp only
  split <;> exact Part.setState_flights _ _ _

theorem Part.endTraining_dirty (n : Slot) (p : Part) : (p.endTraining n).status.dirty[slotRecordNo n] = true := by
  unfold Part.endTraining
  dsimp only
  split <;> exact Part.setState_dirty _ _ _

theorem Part.besidesSlot_endTraining (n : Slot) (p : Part) : (p.endTraining n).besidesSlot n = p.besidesSlot n := by
  unfold Part.endTraining
  dsimp only
  split
  · rw [Part.besidesSlot_admitWaived, Part.besidesSlot_modPort]
  · rw [Part.besidesSlot_modPort, Part.besidesSlot_setState, Part.besidesSlot_modPort]

/-- Slot 0's port after it lost its link at service-clock time `now` (R78). -/
def Port.retrained (x : Port) (now : Nat) : Port :=
  let y := { x.linkDown.dropReads with check := none, state := .training, stateTimer := some now }
  if x.state = .admitted then { y with
    heartbeat := { y.heartbeat with supervising := false }, waived := false, strobe := Strobe.reset, settlementOwed := true }
  else y

theorem Part.retrain_port (n : Slot) (p : Part) : (p.retrain n).ports[n] = p.ports[n].retrained p.now := by
  have cut : (((p.modPort n Port.linkDown).dropRequests n).cancelCheck n).ports[n]
      = { p.ports[n].linkDown.dropReads with check := none } := by
    rw [Part.cancelCheck_port, Part.dropRequests_port, Part.modPort_self]
  unfold Part.retrain Port.retrained Part.admitted
  dsimp only
  by_cases was : p.ports[n].state = .admitted
  · rw [if_pos (beq_iff_eq.mpr was), if_pos was, Part.modPort_self, Part.enterTraining_restated, cut,
      Port.restated_of_admitted (x := { p.ports[n].linkDown.dropReads with check := none }) was]
    rfl
  · rw [if_neg (fun e => was (beq_iff_eq.mp e)), if_neg was, Part.enterTraining_restated, cut,
      Port.restated_of_not_admitted (x := { p.ports[n].linkDown.dropReads with check := none }) was]
    rfl

theorem Part.retrain_flights (n : Slot) (p : Part) : (p.retrain n).flights = markedFlights n false p.flights := by
  have cut : (((p.modPort n Port.linkDown).dropRequests n).cancelCheck n).flights = markedFlights n false p.flights := by
    rw [Part.cancelCheck_flights, ← uncheckedFlights_markFlights]
    rfl
  unfold Part.retrain
  dsimp only
  split
  · rw [Part.modPort_flights, Part.enterTraining_flights, cut]
  · rw [Part.enterTraining_flights, cut]

theorem Part.retrain_dirty (n : Slot) (p : Part) : (p.retrain n).status.dirty[slotRecordNo n] = true := by
  unfold Part.retrain
  dsimp only
  split <;> exact Part.enterTraining_dirty _ _

theorem Part.loseLink_zero (p : Part) : p.loseLink 0 = p.retrain 0 := rfl

theorem Part.loseLink_of_ne {n : Slot} (h : n ≠ 0) (p : Part) :
    p.loseLink n = (p.modPort n Port.linkDown).enterFenced n .linkLost false := by
  have later : ¬n.val = 0 := fun e => h (Fin.ext e)
  exact if_neg later

theorem Part.loseLink_port (n : Slot) (p : Part) :
    (p.loseLink n).ports[n] =
      if n ≠ 0 then p.ports[n].linkDown.fencedBy .linkLost false else p.ports[n].retrained p.now := by
  by_cases zero : n = 0
  · subst zero
    exact Part.retrain_port 0 p
  · rw [Part.loseLink_of_ne zero, if_pos zero, Part.enterFenced_port, Part.modPort_self]

theorem Part.loseLink_flights (n : Slot) (p : Part) : (p.loseLink n).flights = markedFlights n false p.flights := by
  by_cases zero : n = 0
  · subst zero
    exact Part.retrain_flights 0 p
  · rw [Part.loseLink_of_ne zero, Part.enterFenced_flights, Part.modPort_self]
    rfl

theorem Part.loseLink_dirty (n : Slot) (p : Part) : (p.loseLink n).status.dirty[slotRecordNo n] = true := by
  by_cases zero : n = 0
  · subst zero
    exact Part.retrain_dirty 0 p
  · rw [Part.loseLink_of_ne zero]
    exact Part.enterFenced_dirty _ _ _ _

theorem Part.besidesSlot_loseLink (n : Slot) (p : Part) : (p.loseLink n).besidesSlot n = p.besidesSlot n := by
  unfold Part.loseLink
  split
  · exact Part.besidesSlot_retrain _ _
  · rw [Part.besidesSlot_enterFenced, Part.besidesSlot_modPort]

theorem SlotState.linked_iff {st : SlotState} :
    st.linked = true ↔ st = .quarantine ∨ st = .admitting ∨ st = .admitted := by
  cases st <;> simp [SlotState.linked]

theorem Part.linkFails_of_linked {n : Slot} {p : Part} (h : p.ports[n].state.linked = true) :
    p.linkFails n = Part.slotEvent (Part.loseLink n) p := by
  unfold Part.linkFails
  rcases SlotState.linked_iff.mp h with e | e | e <;> rw [e]

theorem Part.linkFails_of_waiting {n : Slot} {p : Part} (h : p.ports[n].state = .fenced ∨ p.ports[n].state = .removing) :
    p.linkFails n = (p.modPort n Port.linkDown).dropRequests n := by
  unfold Part.linkFails
  rcases h with h | h <;> rw [h]

theorem Part.linkFails_of_unlinked {n : Slot} {p : Part} (h : p.ports[n].state.linked = false)
    (fenced : p.ports[n].state ≠ .fenced) (removing : p.ports[n].state ≠ .removing) : p.linkFails n = p := by
  have unlinked : ¬(p.ports[n].state = .quarantine ∨ p.ports[n].state = .admitting ∨ p.ports[n].state = .admitted) :=
    fun e => absurd (h.symm.trans (SlotState.linked_iff.mpr e)) nofun
  unfold Part.linkFails
  split
  · next e => exact absurd (.inl e) unlinked
  · next e => exact absurd (.inr (.inl e)) unlinked
  · next e => exact absurd (.inr (.inr e)) unlinked
  · next e => exact absurd e fenced
  · next e => exact absurd e removing
  · rfl

/-- Two changes of a port, one after the other. -/
theorem Part.modPort_modPort (n : Slot) (f g : Port → Port) (p : Part) :
    (p.modPort n f).modPort n g = p.modPort n fun x => g (f x) := by
  unfold Part.modPort modify
  simp

theorem Part.dropRequests_modPort (n : Slot) (f : Port → Port) (p : Part) :
    (p.modPort n f).dropRequests n =
      { p.modPort n (fun x => (f x).dropReads) with flights := markFlights n false p.flights } := by
  rw [← Part.modPort_modPort n f Port.dropReads]
  rfl

/-- Settles O43. -/
theorem linkEventsMoveTheSlot : Obligations.LinkEventsMoveTheSlot := by
  unfold Obligations.LinkEventsMoveTheSlot
  intro s n running x up waived
  have trains : s.part.after (.linkTrained n) = s.part.linkTrains n := by
    rw [Part.after_linkTrained, Part.whileRunning_of_running running]
  have fails : s.part.after (.linkLost n) = s.part.linkFails n := by
    rw [Part.after_linkLost, Part.whileRunning_of_running running]
  unfold Part.linkTrains at trains
  refine ⟨fun training => ?_, fun fenced => ?_, fun idle unfenced => ?_, fun linked => ?_, fun waiting => ?_,
    fun unlinked unfenced still => ?_⟩
  · rw [show s.part.ports[n].state = .training from training] at trains
    obtain ⟨t, run, mem, keeps, flights, dirty, port⟩ :=
      exec_slotEvent trains (Part.besidesSlot_endTraining n _) nofun
    refine ⟨t, run, mem, keeps, flights.trans (Part.endTraining_flights _ _), dirty _ (Part.endTraining_dirty _ _),
      port.trans (congrArg Port.besidesCounters ?_)⟩
    exact (Part.endTraining_port fun e => absurd (training.symm.trans e) nofun).trans (ite_iff_congr Iff.rfl rfl rfl)
  · rw [show s.part.ports[n].state = .fenced from fenced] at trains
    rw [exec_eq_after (c := .linkTrained n) nofun]
    refine congrArg _ (State.modPart_congr (trains.trans ?_))
    simp only [Bool.or_eq_true]
    refine ite_iff_congr Iff.rfl rfl (Part.modPort_congr rfl)
  · rw [exec_eq_after (c := .linkTrained n) nofun, State.modPart_eq_self]
    refine trains.trans ?_
    split
    · next e => exact absurd e idle
    · next e => exact absurd e unfenced
    · rfl
  · rw [Part.linkFails_of_linked linked] at fails
    obtain ⟨t, run, mem, keeps, flights, dirty, port⟩ := exec_slotEvent fails (Part.besidesSlot_loseLink n _) nofun
    exact ⟨t, run, mem, keeps, flights.trans (Part.loseLink_flights _ _), dirty _ (Part.loseLink_dirty _ _),
      port.trans (congrArg Port.besidesCounters (Part.loseLink_port _ _))⟩
  · rw [Part.linkFails_of_waiting waiting, Part.dropRequests_modPort] at fails
    rw [exec_eq_after (c := .linkLost n) nofun]
    refine congrArg _ (State.modPart_congr (fails.trans ?_))
    rw [Part.modPort_congr (g := fun _ => x.linkDown.dropReads) rfl]
  · rw [Part.linkFails_of_unlinked unlinked unfenced still] at fails
    rw [exec_eq_after (c := .linkLost n) nofun, State.modPart_eq_self fails]

end Sys2Proof.Machine
end


section
/-! PROOFS. Presence, power-good, the limits of the slot timers, and access violations (2.6, 4.1 to 4.5). -/
namespace Sys2Proof.Machine

/-! ### Presence (R55) -/

/-- A slot port whose debounced presence has become `b` (R55). -/
def Port.debounced (x : Port) (b : Bool) : Port := { x with presence := b, presenceTimer := none }

theorem Port.debounce_eq (x : Port) (now : Nat) :
    x.debounce now = { x with presenceTimer :=
      if x.presentLevel = x.presence then none else if x.presenceTimer = none then some now else x.presenceTimer } := by
  unfold Port.debounce
  by_cases level : x.presentLevel = x.presence
  · rw [if_pos level, if_pos level]
  · rw [if_neg level, if_neg level]
    obtain ⟨_, _, timer, _⟩ := x
    cases timer <;> rfl

/-- A slot port after its presence was found at service-clock time `now` (R55, R56). -/
def Port.found (x : Port) (n : Slot) (enabled : Bool) (now : Nat) : Port :=
  if x.state = .empty then
    (if enabled = true ∨ n = 0 then (x.debounced true).powered now else (x.debounced true).stoodBy)
  else x.debounced true

theorem Part.presenceIsFound_port (n : Slot) (p : Part) :
    (p.presenceIsFound n).ports[n] = p.ports[n].found n p.plan.slots[n].enabled p.now := by
  have seen : (p.modPort n fun x => x.debounced true).ports[n] = p.ports[n].debounced true := Part.modPort_self _ _ _
  have enter : p.presenceIsFound n = if p.ports[n].state = .empty then
      if p.plan.slots[n].enabled then (p.modPort n fun x => x.debounced true).enterPowering n
      else (p.modPort n fun x => x.debounced true).enterStandby n else p.modPort n fun x => x.debounced true := rfl
  rw [enter]
  unfold Port.found
  split
  · next empty =>
    have down : (p.modPort n fun x => x.debounced true).ports[n].state ≠ .admitted := by
      rw [seen]
      exact fun e => absurd (empty.symm.trans e) nofun
    cases p.plan.slots[n].enabled with
    | true =>
      rw [if_pos (rfl : true = true), if_pos (Or.inl (rfl : true = true)), Part.enterPowering_port down, seen]
      rfl
    | false =>
      rw [if_neg Bool.false_ne_true, Part.enterStandby_port down, seen]
      refine ite_iff_congr ⟨.inr, fun h => h.resolve_left Bool.false_ne_true⟩ rfl rfl
  · exact seen

theorem Part.presenceIsFound_flights (n : Slot) (p : Part) : (p.presenceIsFound n).flights = p.flights := by
  unfold Part.presenceIsFound
  dsimp only
  repeat' split
  · rw [Part.enterPowering_flights, Part.modPort_flights]
  · rw [Part.enterStandby_flights, Part.modPort_flights]
  · rfl

theorem Part.presenceIsFound_dirty {n : Slot} {p : Part} (h : p.ports[n].state = .empty) :
    (p.presenceIsFound n).status.dirty[slotRecordNo n] = true := by
  unfold Part.presenceIsFound
  dsimp only
  split
  · split
    · exact Part.enterPowering_dirty _ _
    · exact Part.enterStandby_dirty _ _
  · contradiction

/-- The states in which a slot holds power and no link, or no power (R56–R58). -/
def SlotState.unserved (st : SlotState) : Prop := st = .standby ∨ st = .powering ∨ st = .training

theorem Part.presenceIsLost_of_unserved {n : Slot} {p : Part} (h : p.ports[n].state.unserved) :
    p.presenceIsLost n = (p.modPort n fun x => x.debounced false).enterEmpty n := by
  unfold Part.presenceIsLost
  rcases h with e | e | e <;> rw [e] <;> rfl

theorem Part.presenceIsLost_of_absent {n : Slot} {p : Part} (h : p.ports[n].state = .empty ∨ p.ports[n].state = .removing) :
    p.presenceIsLost n = p.modPort n fun x => x.debounced false := by
  unfold Part.presenceIsLost
  rcases h with e | e <;> rw [e] <;> rfl

theorem Part.presenceIsLost_of_linked {n : Slot} {p : Part}
    (h : p.ports[n].state.linked = true ∨ p.ports[n].state = .fenced) :
    p.presenceIsLost n = (p.modPort n fun x => x.debounced false).enterRemoving n false := by
  unfold Part.presenceIsLost
  rcases h with h | e
  · rcases SlotState.linked_iff.mp h with e | e | e <;> rw [e] <;> rfl
  · rw [e]
    rfl

theorem SlotState.cases_of_presence (st : SlotState) :
    st.unserved ∨ (st = .empty ∨ st = .removing) ∨ (st.linked = true ∨ st = .fenced) := by
  unfold SlotState.unserved
  cases st <;> simp [SlotState.linked]

/-- Settles O44. -/
theorem presenceIsDebouncedAndActedOn : Obligations.PresenceIsDebouncedAndActedOn := by
  unfold Obligations.PresenceIsDebouncedAndActedOn
  intro s n x
  refine ⟨fun b => ?_, fun running due => ?_, fun running due => ?_⟩
  · rw [exec_eq_after (c := .presenceLevelChange n b) nofun]
    refine congrArg _ (State.modPart_congr ?_)
    rw [Part.after_presenceLevelChange]
    have level : (s.part.modPort n fun x => { x with presentLevel := b }).running = s.part.running := rfl
    cases running : s.part.running with
    | true =>
      rw [Part.whileRunning_of_running (level.trans running), Part.modPort_modPort]
      exact Part.modPort_congr (Port.debounce_eq _ _)
    | false =>
      rw [Part.whileRunning_of_reset (level.trans running)]
      exact Part.modPort_congr rfl
  · have event : s.part.after (.presenceFound n) = Part.slotEvent (Part.presenceIsFound n) s.part := by
      rw [Part.after_presenceFound, Part.whenDue_of_due running due]
    obtain ⟨t, run, mem, keeps, flights, dirty, port⟩ := exec_slotEvent event (Part.besidesSlot_presenceIsFound n _) nofun
    exact ⟨t, run, mem, keeps, flights.trans (Part.presenceIsFound_flights _ _),
      fun empty => dirty _ (Part.presenceIsFound_dirty empty),
      port.trans (congrArg Port.besidesCounters (Part.presenceIsFound_port _ _))⟩
  · have event : s.part.after (.presenceLost n) = Part.slotEvent (Part.presenceIsLost n) s.part := by
      rw [Part.after_presenceLost, Part.whenDue_of_due running due]
    obtain ⟨t, run, mem, keeps, flights, dirty, port⟩ := exec_slotEvent event (Part.besidesSlot_presenceIsLost n _) nofun
    rcases s.part.ports[n].state.cases_of_presence with unserved | absent | linked
    · have unlinked : ¬(x.state.linked = true ∨ x.state = .fenced) := by
        rcases unserved with e | e | e <;> rw [show x.state = _ from e] <;> nofun
      rw [Part.presenceIsLost_of_unserved unserved] at flights dirty port
      refine ⟨t, run, mem, keeps, ?_, fun _ _ => dirty _ (Part.enterEmpty_dirty _ _), port.trans (congrArg _ ?_)⟩
      · rw [flights, if_neg unlinked, Part.enterEmpty_flights, Part.modPort_flights]
      · rw [Part.enterEmpty_port, Part.modPort_self]
        · exact (if_pos unserved).symm
        · rw [Part.modPort_self]
          rcases unserved with e | e | e <;> exact fun a => absurd (e.symm.trans a) nofun
    · have unlinked : ¬(x.state.linked = true ∨ x.state = .fenced) := by
        rcases absent with e | e <;> rw [show x.state = _ from e] <;> nofun
      have served : ¬(x.state = .standby ∨ x.state = .powering ∨ x.state = .training) := by
        rcases absent with e | e <;> rw [show x.state = _ from e] <;> nofun
      rw [Part.presenceIsLost_of_absent absent] at flights dirty port
      refine ⟨t, run, mem, keeps, ?_, fun present kept => absurd absent (not_or.mpr ⟨present, kept⟩),
        port.trans (congrArg _ ?_)⟩
      · rw [flights, if_neg unlinked, Part.modPort_flights]
      · rw [Part.modPort_self]
        exact ((if_neg served).trans (if_pos absent)).symm
    · have present : ¬(x.state = .empty ∨ x.state = .removing) := by
        rcases linked with h | e
        · rintro (e | e) <;> rw [e] at h <;> cases h
        · rw [show x.state = _ from e]
          nofun
      have served : ¬(x.state = .standby ∨ x.state = .powering ∨ x.state = .training) := by
        rcases linked with h | e
        · rintro (e | e | e) <;> rw [e] at h <;> cases h
        · rw [show x.state = _ from e]
          nofun
      rw [Part.presenceIsLost_of_linked linked] at flights dirty port
      refine ⟨t, run, mem, keeps, ?_, fun _ _ => dirty _ (Part.enterRemoving_dirty _ _ _), port.trans (congrArg _ ?_)⟩
      · rw [flights, if_pos linked, Part.enterRemoving_flights, Part.modPort_flights]
      · rw [Part.enterRemoving_port, Part.modPort_self]
        exact ((if_neg served).trans (if_neg present)).symm

/-! ### Power-good (R57, R58, R64, R67) -/

theorem Part.powerFails_of_powered {n : Slot} {p : Part}
    (h : p.ports[n].state = .training ∨ p.ports[n].state.linked = true) :
    p.powerFails n = Part.slotEvent (Part.powerFault n .powerFault) p := by
  unfold Part.powerFails
  rcases h with e | h
  · rw [e]
  · rcases SlotState.linked_iff.mp h with e | e | e <;> rw [e]

theorem Part.powerFails_of_fenced {n : Slot} {p : Part} (h : p.ports[n].state = .fenced) :
    p.powerFails n = if p.ports[n].powerRemoved then p
      else (p.modPort n fun x => { x.linkDown with powerRemoved := true }).dropRequests n := by
  unfold Part.powerFails
  rw [h]

theorem Part.powerFails_of_other {n : Slot} {p : Part} (h : ¬(p.ports[n].state = .training ∨ p.ports[n].state.linked = true))
    (fenced : p.ports[n].state ≠ .fenced) : p.powerFails n = p := by
  have unlinked := fun e => h (.inr (SlotState.linked_iff.mpr e))
  unfold Part.powerFails
  split
  · next e => exact absurd (.inl e) h
  · next e => exact absurd (.inl e) unlinked
  · next e => exact absurd (.inr (.inl e)) unlinked
  · next e => exact absurd (.inr (.inr e)) unlinked
  · next e => exact absurd e fenced
  · rfl

/-- Settles O45. -/
theorem powerGoodLevelIsActedOn : Obligations.PowerGoodLevelIsActedOn := by
  unfold Obligations.PowerGoodLevelIsActedOn
  intro s n x good bad powered
  have asserted : (s.part.modPort n fun x => { x with pwrgd := true }).ports[n] = good := Part.modPort_self _ _ _
  have deasserted : (s.part.modPort n fun x => { x with pwrgd := false }).ports[n] = bad := Part.modPort_self _ _ _
  have up : ∀ f, (s.part.modPort n f).running = s.part.running := fun _ => rfl
  refine ⟨fun idle => ?_, fun running powering => ?_, fun idle => ?_, fun running fenced kept => ?_, fun running on => ?_⟩
  · rw [exec_eq_after (c := .pwrgdAsserted n) nofun]
    refine congrArg _ (State.modPart_congr ?_)
    rw [Part.after_pwrgdAsserted, Part.modPort_congr (g := fun _ => good) rfl]
    cases running : s.part.running with
    | true =>
      have still : ¬(s.part.modPort n fun _ => good).ports[n].state = .powering := by
        rw [Part.modPort_self]
        exact fun e => idle ⟨running, e⟩
      rw [Part.whileRunning_of_running ((up _).trans running), if_neg still]
    | false => rw [Part.whileRunning_of_reset ((up _).trans running)]
  · have event : s.part.after (.pwrgdAsserted n)
        = Part.slotEvent (Part.enterTraining n) (s.part.modPort n fun x => { x with pwrgd := true }) := by
      have still : (s.part.modPort n fun x => { x with pwrgd := true }).ports[n].state = .powering := by
        rw [asserted]
        exact powering
      rw [Part.after_pwrgdAsserted, Part.whileRunning_of_running ((up _).trans running), if_pos still]
    obtain ⟨t, run, mem, keeps, flights, dirty, port⟩ := exec_slotEvent event (Part.besidesSlot_enterTraining n _) nofun
    refine ⟨t, run, mem, keeps.trans (Part.besidesSlot_modPort n _ _), flights.trans (Part.enterTraining_flights _ _),
      dirty _ (Part.enterTraining_dirty _ _), port.trans (congrArg _ ?_)⟩
    rw [Part.enterTraining_port (by rw [asserted]; exact fun e => absurd (powering.symm.trans e) nofun), asserted]
    rfl
  · rw [exec_eq_after (c := .pwrgdDeasserted n) nofun]
    refine congrArg _ (State.modPart_congr ?_)
    rw [Part.after_pwrgdDeasserted, Part.modPort_congr (g := fun _ => bad) rfl]
    cases running : s.part.running with
    | true =>
      have port : (s.part.modPort n fun _ => bad).ports[n] = bad := Part.modPort_self _ _ _
      rw [Part.whileRunning_of_running ((up _).trans running)]
      by_cases fenced : x.state = .fenced
      · have removed : bad.powerRemoved = true := by
          refine Classical.byContradiction fun kept => ?_
          exact idle ⟨running, .inr ⟨fenced, Bool.eq_false_iff.mpr kept⟩⟩
        rw [Part.powerFails_of_fenced (by rw [port]; exact fenced), port, if_pos removed]
      · refine Part.powerFails_of_other ?_ ?_ <;> rw [port]
        · exact fun on => idle ⟨running, .inl on⟩
        · exact fenced
    | false => rw [Part.whileRunning_of_reset ((up _).trans running)]
  · rw [exec_eq_after (c := .pwrgdDeasserted n) nofun]
    refine congrArg _ (State.modPart_congr ?_)
    have stands : ¬bad.powerRemoved = true := fun e => absurd (kept.symm.trans e) nofun
    rw [Part.after_pwrgdDeasserted, Part.whileRunning_of_running ((up _).trans running),
      Part.powerFails_of_fenced (by rw [deasserted]; exact fenced), deasserted, if_neg stands, Part.modPort_modPort,
      Part.dropRequests_modPort]
    exact congrArg (fun q : Part => { q with flights := markFlights n false s.part.flights }) (Part.modPort_congr rfl)
  · have event : s.part.after (.pwrgdDeasserted n)
        = Part.slotEvent (Part.powerFault n .powerFault) (s.part.modPort n fun x => { x with pwrgd := false }) := by
      rw [Part.after_pwrgdDeasserted, Part.whileRunning_of_running ((up _).trans running),
        Part.powerFails_of_powered (by rw [deasserted]; exact on)]
    obtain ⟨t, run, mem, keeps, flights, dirty, port⟩ := exec_slotEvent event (Part.besidesSlot_powerFault n _ _) nofun
    refine ⟨t, run, mem, keeps.trans (Part.besidesSlot_modPort n _ _), flights.trans (Part.powerFault_flights _ _ _),
      dirty _ (Part.powerFault_dirty _ _ _), port.trans (congrArg _ ?_)⟩
    rw [Part.powerFault_port, deasserted]
    rfl

/-! ### The limits of the slot timers (R57, R58, R74) -/

/-- Settles O46. -/
theorem slotLimitsExpire : Obligations.SlotLimitsExpire := by
  unfold Obligations.SlotLimitsExpire
  intro s n running x ends fences lost
  have fault : ∀ c why, s.part.after c = Part.slotEvent (Part.powerFault n why) s.part → c ≠ .accessGrant →
      ends c (if n = 0 then x.removedBy true s.part.now else x.fencedBy why true) (markedFlights n false s.part.flights) := by
    intro c why event ne
    obtain ⟨t, run, mem, keeps, flights, dirty, port⟩ := exec_slotEvent event (Part.besidesSlot_powerFault n _ _) ne
    exact ⟨t, run, mem, keeps, port.trans (congrArg _ (Part.powerFault_port _ _ _)),
      flights.trans (Part.powerFault_flights _ _ _), fun _ => dirty _ (Part.powerFault_dirty _ _ _)⟩
  refine ⟨fun due => fault _ _ ?_ nofun, fun due => fault _ _ ?_ nofun, fun due => ?_⟩
  · rw [Part.after_powerGoodLimitExpiry, Part.whenDue_of_due running due]
  · rw [Part.after_trainingLimitExpiry, Part.whenDue_of_due running due]
  · have event : s.part.after (.heartbeatWindowExpiry n) = Part.slotEvent (Part.loseHeartbeat n .heartbeatLost) s.part := by
      rw [Part.after_heartbeatWindowExpiry, Part.whenDue_of_due running due]
    obtain ⟨t, run, mem, keeps, flights, dirty, port⟩ := exec_slotEvent event (Part.besidesSlot_loseHeartbeat n _ _) nofun
    refine ⟨t, run, mem, keeps, port.trans (congrArg _ ((Part.loseHeartbeat_port _ _ _).trans (ite_iff_congr Iff.rfl rfl rfl))),
      flights.trans ((Part.loseHeartbeat_flights _ _ _).trans (ite_iff_congr Iff.rfl rfl rfl)), fun moved => dirty _ ?_⟩
    refine Part.loseHeartbeat_dirty ?_ _
    refine Classical.byContradiction fun none => ?_
    exact moved ((congrArg Port.state (if_neg none)).trans rfl)

/-! ### Access violations (R29 to R32) -/

/-- The points a slot event reports (R76, R138). -/
def settledPoints : List Point := (List.finRange 12).flatMap slotPoints ++ clockPoints

theorem Part.settleSlots_eq (old : Engine) (p : Part) :
    p.settleSlots old = (p.reviewReferences.settleExchange old).report settledPoints := rfl

theorem violationPoint_unsettled (n : Slot) : violationPoint n ∉ settledPoints := by
  have apart : ∀ n : Slot, settledPoints.contains (violationPoint n) = false := by decide +kernel
  exact fun h => absurd ((apart n).symm.trans (List.contains_iff_mem.mpr h)) nofun

theorem Part.settleSlots_point {i : Point} (h : i ∉ settledPoints) (old : Engine) (p : Part) :
    (p.settleSlots old).alarm.points[i.val] = p.alarm.points[i.val] := by
  rw [Part.settleSlots_eq, Part.report_point_ne h, Part.alarm_of_exchange (Part.besidesExchange_settleExchange _ _)]
  rfl

theorem Part.enterFenced_alarm (n : Slot) (why : FenceReason) (off : Bool) (p : Part) :
    (p.enterFenced n why off).alarm = p.alarm := by
  have cut : ∀ q : Part, (if q.ports[n].link = true then q.refuseRequests n else q.dropRequests n).alarm = q.alarm := by
    intro q
    split <;> rfl
  have idle : (p.setState n .fenced).alarm = p.alarm := by
    unfold Part.setState
    dsimp only
    split
    · rw [Part.alarm_of_exchange (Part.besidesExchange_idleRings _ _)]
      rfl
    · rfl
  unfold Part.enterFenced
  dsimp only
  rw [Part.modPort_alarm, cut]
  cases off <;> exact idle

/-- A slot port whose violation count has risen to `count` (R29). -/
def Port.counted (x : Port) (count : Nat) : Port := { x with violations := count }

/-- An access violation fences the slot: a slot of 1–11 in QUARANTINE, ADMITTING or ADMITTED at its limit (R31, R32). -/
def Part.violationFences (p : Part) (n : Slot) : Prop :=
  n ≠ 0 ∧ p.ports[n].state.linked = true ∧ p.plan.slots[n].violationLimit ≠ 0
    ∧ p.plan.slots[n].violationLimit ≤ min 255 (p.ports[n].violations + 1)

/-- The part after a violation of slot `n` was counted and its event raised (R29, R30). -/
def Part.countViolation (n : Slot) (p : Part) : Part :=
  (p.modPort n fun x => x.counted (min 255 (p.ports[n].violations + 1))).raiseEvent (violationPoint n)

theorem Part.countViolation_port (n : Slot) (p : Part) :
    (p.countViolation n).ports[n] = p.ports[n].counted (min 255 (p.ports[n].violations + 1)) := Part.modPort_self _ _ _

theorem Part.violation_of_fences {n : Slot} {p : Part} (h : p.violationFences n) :
    p.violation n = (p.countViolation n).enterFenced n .violations false := by
  obtain ⟨later, linked, limited, reached⟩ := h
  refine Eq.trans (if_pos ?_) (Part.fenceKeepingPower_of_ne later _ _)
  simp only [Bool.and_eq_true, bne_iff_ne, decide_eq_true_eq]
  exact ⟨⟨linked, limited⟩, reached⟩

theorem Part.violation_of_not {n : Slot} {p : Part} (h : ¬p.violationFences n) : p.violation n = p.countViolation n := by
  by_cases zero : n = 0
  · subst zero
    have same : ∀ c : Bool, (if c = true then (p.countViolation 0).fenceKeepingPower 0 .violations else p.countViolation 0)
        = p.countViolation 0 := fun c => by cases c <;> rfl
    exact same _
  · refine if_neg ?_
    simp only [Bool.and_eq_true, bne_iff_ne, decide_eq_true_eq]
    rintro ⟨⟨linked, limited⟩, reached⟩
    exact h ⟨zero, linked, limited, reached⟩

theorem Part.violation_alarm (n : Slot) (p : Part) : (p.violation n).alarm = (p.countViolation n).alarm := by
  by_cases fences : p.violationFences n
  · rw [Part.violation_of_fences fences, Part.enterFenced_alarm]
  · rw [Part.violation_of_not fences]

/-- A request that is answered at once is answered on its own port (R6). -/
def Part.answer (n : Slot) (q : Request) (why : Reason) (p : Part) : Part := p.modPort n (Port.sendNow (.refusal q.tag why))

theorem Part.arrive_of_violation {p : Part} {n : Slot} {q : Request} {why : Reason} (link : p.ports[n].link = true)
    (credit : p.ports[n].credits ≠ 0) (refused : arrivalCheck p.plan p.ports[n] n q = some why)
    (violation : why.isViolation = true) :
    p.arrive n q = ((p.answer n q why).violation n).settleSlots p.engine := by
  have here : p.ports[n].state ≠ .removing := by
    intro removing
    have fenced : arrivalCheck p.plan p.ports[n] n q = some .fenced := by
      unfold arrivalCheck
      rw [removing]
      rfl
    rw [fenced] at refused
    cases refused
    cases violation
  have sends : ¬(p.ports[n].state = .removing ∧ Config.removingRefusalSent = false) := fun h => here h.1
  unfold Part.arrive
  rw [link, bne_iff_ne.mpr credit, refused]
  unfold Part.refuse
  dsimp only
  rw [if_pos (Bool.and_self true), if_pos violation, if_neg sends]
  rfl

/-- Settles O17. -/
theorem violationIsCountedAndFencesAtTheLimit : Obligations.ViolationIsCountedAndFencesAtTheLimit := by
  unfold Obligations.ViolationIsCountedAndFencesAtTheLimit
  intro s n q why running link credit refused violation count limit old x fences
  have answered : (s.part.answer n q why).ports[n] = old.sendNow (.refusal q.tag why) := Part.modPort_self _ _ _
  have counted : ((s.part.answer n q why).countViolation n).ports[n] = x := by
    rw [Part.countViolation_port, answered]
    rfl
  have same : (s.part.answer n q why).violationFences n ↔ fences := by
    unfold Part.violationFences
    rw [answered]
    exact Iff.rfl
  refine ⟨_, exec_command_of_running running q n, State.modPart_memory _ _, ?_⟩
  rw [State.modPart_part, Part.arrive_of_violation link credit refused violation, Part.settleSlots_port,
    Part.settleSlots_flights]
  have point : (((s.part.answer n q why).violation n).settleSlots s.part.engine).alarm.points[(violationPoint n).val] =
      ((s.part.answer n q why).countViolation n).alarm.points[(violationPoint n).val] := by
    rw [Part.settleSlots_point (violationPoint_unsettled n), Part.violation_alarm]
  refine ⟨?_, ?_, fun f => Part.dirtyIn_settleSlots _ _ _ ?_, ?_, ?_, ?_⟩
  · by_cases f : fences
    · rw [if_pos f, Part.violation_of_fences (same.mpr f), Part.enterFenced_port, counted]
    · rw [if_neg f, Part.violation_of_not (fun e => f (same.mp e)), counted]
  · by_cases f : fences
    · rw [if_pos f, Part.violation_of_fences (same.mpr f), Part.enterFenced_flights, counted,
        show (x.link && !false) = true by rw [show x.link = true from link]; rfl]
      rfl
    · rw [if_neg f, Part.violation_of_not (fun e => f (same.mp e))]
      rfl
  · rw [Part.violation_of_fences (same.mpr f)]
    exact Part.enterFenced_dirty _ _ _ _
  · exact (congrArg AlarmPoint.raw point).trans (Part.raiseEvent_raw _ _)
  · exact (congrArg AlarmPoint.lastEvent point).trans (Part.raiseEvent_lastEvent _ _)
  · rw [Part.besidesSlot_settleSlots, Part.besidesSlot_violation]
    exact Part.besidesSlot_modPort _ _ _

end Sys2Proof.Machine
end


section
/-! PROOFS. What the end of an event does to the exchange, step by step: `Part.Settling` says once every change it can make
(R89, R103, R106 to R110, R116, R117), and the laws after it say what each ring, the copy, the batch and the gates keep. -/
namespace Sys2Proof.Machine

/-- The access that is due for a copy (R111). -/
def CopyDue.access : CopyDue → Option EngineAccess
  | .nothing => none
  | .read => some .copyRead
  | .write data => some (.copyWrite data)
  | .producer => some .copyProducer

/-- One change the end of an event makes to the exchange. -/
inductive Part.Settling : Part → Part → Prop
  | keepDests {p : Part} {r : RingNo} {h : Head} (head : p.headRecord r = some h) :
      Settling p (p.keepDests r h .destDown (p.keepsDown r h))
  | orderJoins {p : Part} (stood : Joined) : Settling p (p.modEngine (Engine.orderJoins stood))
  | endBatch {p : Part} {b : Batch} (copy : p.engine.copy = none) (batch : p.engine.batch = some b) : Settling p (p.endBatch b)
  | startCopy {p : Part} {r : RingNo} {h : Head} {d : Slot} (copy : p.engine.copy = none) (head : p.headRecord r = some h)
      (ready : h.dests.find? (p.destReady (ringClass r) h) = some d) : Settling p (p.startCopy r h d)
  | reviewHeads {p : Part} : Settling p p.reviewHeads
  | markInstant {p : Part} (before : Option Joined) : Settling p (p.modEngine fun e => { e with before := before })
  | issueIndex {p : Part} {w : IndexWrite} {rest : List IndexWrite} (free : p.engine.waiting = none)
      (queue : p.engine.indexQueue = w :: rest) :
      Settling p (p.modEngine fun e => { e with waiting := some (.index w), indexQueue := rest })
  | issueHeader {p : Part} {r : RingNo} {rest : List RingNo} (free : p.engine.waiting = none)
      (list : p.engine.takeList = r :: rest) :
      Settling p ((p.setTake r .reading).modEngine fun e => { e with waiting := some (.header r) })
  | issueCopy {p : Part} {c : Copy} {a : EngineAccess} (free : p.engine.waiting = none) (copy : p.engine.copy = some c)
      (due : c.due.access = some a) :
      Settling p (p.modEngine fun e => { e with waiting := some a, copy := some { c with due := .nothing } })

/-- Any number of such changes. -/
def Part.Settles : Part → Part → Prop := Run Part.Settling

theorem Part.Settles.refl (p : Part) : p.Settles p := Run.refl

theorem Part.Settling.settles {p q : Part} (h : p.Settling q) : p.Settles q := Run.single h

theorem Part.Settles.trans {p q r : Part} (h : p.Settles q) (h' : q.Settles r) : p.Settles r :=
  Run.trans h h'

/-- What every change keeps, any number of them keeps. -/
theorem Part.Settles.keeps {P : Part → Prop} (step : ∀ p q, p.Settling q → P p → P q) {p q : Part} (h : p.Settles q)
    (hp : P p) : P q := by
  induction h with
  | refl => exact hp
  | tail _ last ih => exact step _ _ last ih

theorem Part.settles_sweepDests (p : Part) : p.Settles p.sweepDests := by
  refine forEach_invariant p.Settles 96 _ (fun r q h => ?_) p (.refl p)
  split
  · next head => exact h.trans (Part.Settling.keepDests head).settles
  · exact h

theorem Part.settles_serveBatch (p : Part) : p.Settles p.serveBatch := by
  unfold Part.serveBatch
  split
  · next b copy batch =>
    split
    · exact (Part.Settling.endBatch copy batch).settles
    · split
      · unfold Part.serveHead
        split
        · next h head =>
          split
          · next d ready => exact (Part.Settling.startCopy copy head ready).settles
          · exact .refl p
        · exact .refl p
      · exact .refl p
  · exact .refl p

theorem Part.settles_issueEngine (p : Part) : p.Settles p.issueEngine := by
  have copyAccess : p.engine.waiting = none → ∀ c, p.engine.copy = some c → ∀ a, c.due.access = some a →
      p.Settles (p.modEngine fun e => { e with waiting := some a, copy := some { c with due := .nothing } }) :=
    fun free c copy a due => (Part.Settling.issueCopy free copy due).settles
  unfold Part.issueEngine
  split
  · exact .refl p
  · next free =>
    dsimp only
    have copies : p.Settles (match p.engine.copy with
      | some c =>
        match c.due with
        | .nothing => p
        | .read => p.modEngine fun e => { e with waiting := some .copyRead, copy := some { c with due := .nothing } }
        | .write data =>
          p.modEngine fun e => { e with waiting := some (.copyWrite data), copy := some { c with due := .nothing } }
        | .producer => p.modEngine fun e => { e with waiting := some .copyProducer, copy := some { c with due := .nothing } }
      | none => p) := by
      split
      · next c copy =>
        split
        · exact .refl p
        · next due => exact copyAccess free c copy _ (by rw [due]; rfl)
        · next data due => exact copyAccess free c copy _ (by rw [due]; rfl)
        · next due => exact copyAccess free c copy _ (by rw [due]; rfl)
      · exact .refl p
    split
    · exact copies
    · split
      · next w rest queue => exact (Part.Settling.issueIndex free queue).settles
      · next r rest queue list quiet => exact (Part.Settling.issueHeader free list).settles
      · exact copies

theorem Part.settles_closeInstant (p : Part) : p.Settles p.closeInstant :=
  (Part.Settling.markInstant none).settles.trans (Part.settles_issueEngine _)

theorem Part.settles_endInstant (stood : Joined) (p : Part) : p.Settles (p.endInstant stood) := by
  rcases Part.endInstant_cases stood p with ⟨-, e⟩ | ⟨-, -, e⟩ <;> rw [e]
  · exact (Part.Settling.markInstant _).settles
  · exact Part.settles_closeInstant p

/-- After the destination rules, all the rest of what the end of an event does to the exchange. -/
def Part.settleRest (old : Engine) (p : Part) : Part :=
  (((p.modEngine (Engine.orderJoins old.instant)).serveBatch).reviewHeads).endInstant old.instant

theorem Part.settleExchange_eq (old : Engine) (p : Part) : p.settleExchange old = p.sweepDests.settleRest old := rfl

theorem Part.settles_settleRest (old : Engine) (p : Part) : p.Settles (p.settleRest old) :=
  (Part.Settling.orderJoins _).settles.trans <| (Part.settles_serveBatch _).trans <|
    Part.Settling.reviewHeads.settles.trans <| Part.settles_endInstant _ _

theorem Part.settles_settleExchange (old : Engine) (p : Part) : p.Settles (p.settleExchange old) :=
  (Part.settles_sweepDests p).trans (Part.settles_settleRest old _)

theorem Part.Settling.besidesExchange {p q : Part} (h : p.Settling q) : q.besidesExchange = p.besidesExchange := by
  cases h with
  | keepDests head => exact Part.besidesExchange_keepDests (Part.egress_of_headRecord head) _ _ _ _
  | orderJoins stood => exact Part.besidesExchange_modEngine _ _ rfl
  | endBatch copy batch => exact Part.besidesExchange_endBatch _ _
  | startCopy copy head ready => exact Part.besidesExchange_startCopy _ _ _ _
  | reviewHeads => exact Part.besidesExchange_reviewHeads p
  | markInstant before => exact Part.besidesExchange_modEngine _ _ rfl
  | issueIndex free queue => exact Part.besidesExchange_modEngine _ _ rfl
  | issueHeader free list => rw [Part.besidesExchange_modEngine _ _ rfl, Part.besidesExchange_setTake]
  | issueCopy free copy due => exact Part.besidesExchange_modEngine _ _ rfl

theorem Part.Settles.besidesExchange {p q : Part} (h : p.Settles q) : q.besidesExchange = p.besidesExchange :=
  h.keeps (P := fun q => q.besidesExchange = p.besidesExchange) (fun _ _ s e => s.besidesExchange.trans e) rfl

/-! ### What the operations on one ring leave of the others -/

theorem Part.setTake_ring_self (r : RingNo) (t : Take) (p : Part) :
    (p.setTake r t).rings[r] = { p.rings[r] with take := t } := Part.modRing_self r _ p

theorem Part.setTake_ring_ne {r q : RingNo} (h : r ≠ q) (t : Take) (p : Part) : (p.setTake r t).rings[q] = p.rings[q] :=
  Part.modRing_ne h _ p

theorem Part.mem_takeList_setTake_self (r : RingNo) (t : Take) (p : Part) :
    r ∈ (p.setTake r t).engine.takeList ↔ t = .listed := by
  show r ∈ (if t = .listed then (if p.engine.takeList.contains r then p.engine.takeList else p.engine.takeList ++ [r])
    else p.engine.takeList.filter (· != r)) ↔ _
  by_cases listed : t = .listed
  · rw [if_pos listed]
    split
    · next h => exact ⟨fun _ => listed, fun _ => List.contains_iff_mem.mp h⟩
    · simp [listed]
  · rw [if_neg listed]
    simp [listed]

theorem Part.mem_takeList_setTake_ne {r q : RingNo} (h : r ≠ q) (t : Take) (p : Part) :
    q ∈ (p.setTake r t).engine.takeList ↔ q ∈ p.engine.takeList := by
  show q ∈ (if t = .listed then (if p.engine.takeList.contains r then p.engine.takeList else p.engine.takeList ++ [r])
    else p.engine.takeList.filter (· != r)) ↔ _
  split
  · split
    · exact Iff.rfl
    · simp [Ne.symm h]
  · simp [Ne.symm h]

/-- A ring record after `entries` entries of it are retired, with its slot `admitted` or not (R94). -/
def Ring.retired (x : Ring) (entries : Nat) (admitted : Bool) : Ring :=
  { x with
    consumer := x.consumer + BitVec.ofNat 16 entries
    take := if Ring.occupancy { x with consumer := x.consumer + BitVec.ofNat 16 entries } != 0 && admitted then .listed
      else .idle }

theorem Part.retire_ring_self (r : RingNo) (k : Nat) (p : Part) :
    (p.retire r k).rings[r] = p.rings[r].retired k (p.admitted (ringSlot r)) := by
  have moved : (p.modRing r fun x => { x with consumer := p.rings[r].consumer + BitVec.ofNat 16 k }).rings[r]
      = { p.rings[r] with consumer := p.rings[r].consumer + BitVec.ofNat 16 k } := Part.modRing_self _ _ _
  refine (Part.setTake_ring_self r _ _).trans ?_
  show ({ (p.modRing r fun x => { x with consumer := p.rings[r].consumer + BitVec.ofNat 16 k }).rings[r] with
    take := if (p.modRing r fun x => { x with consumer := p.rings[r].consumer + BitVec.ofNat 16 k }).rings[r].occupancy != 0
      && p.admitted (ringSlot r) then Take.listed else Take.idle } : Ring) = _
  rw [moved]
  rfl

theorem Part.retire_ring_ne {r q : RingNo} (h : r ≠ q) (k : Nat) (p : Part) : (p.retire r k).rings[q] = p.rings[q] :=
  (Part.setTake_ring_ne h _ _).trans (Part.modRing_ne h _ p)

theorem Part.mem_takeList_retire_ne {r q : RingNo} (h : r ≠ q) (k : Nat) (p : Part) :
    q ∈ (p.retire r k).engine.takeList ↔ q ∈ p.engine.takeList :=
  Part.mem_takeList_setTake_ne h _ _

/-- The write of a ring's part-owned word that its retirement requests (R94). -/
theorem Part.retire_indexQueue (r : RingNo) (k : Nat) (p : Part) :
    (p.retire r k).engine.indexQueue =
      requestIndex p.engine.indexQueue { ring := r, value := p.rings[r].consumer + BitVec.ofNat 16 k } := rfl

theorem Part.retire_waiting (r : RingNo) (k : Nat) (p : Part) : (p.retire r k).engine.waiting = p.engine.waiting := rfl

/-- What keeping the destinations of a head can do: nothing; a discard and the retirement of the frame, with no destination
left; or a discard, with the destinations that are left (R94, R104). -/
theorem Part.keepDests_cases (r : RingNo) (h : Head) (why : Discard) (keep : Slot → Bool) (p : Part) :
    ((∀ d ∈ h.dests, keep d = true) ∧ p.keepDests r h why keep = p)
      ∨ (∃ k, h.dests ≠ [] ∧ h.dests.filter keep = [] ∧ k = h.dests.length
        ∧ p.keepDests r h why keep = (p.discard why (ringSlot r) k).retire r h.header.entries)
      ∨ (∃ k, h.dests.filter keep ≠ [] ∧ k = h.dests.length - (h.dests.filter keep).length
        ∧ p.keepDests r h why keep = (p.discard why (ringSlot r) k).modRing r fun x =>
            { x with take := .head { h with dests := h.dests.filter keep } }) := by
  unfold Part.keepDests
  dsimp only
  split
  · next all => exact .inl ⟨List.length_filter_eq_length_iff.mp all, rfl⟩
  · next some =>
    split
    · next none =>
      refine .inr (.inl ⟨_, fun e => some (by rw [e]; rfl), none, ?_, rfl⟩)
      rw [none]
      rfl
    · next left => exact .inr (.inr ⟨_, left, rfl, rfl⟩)

theorem Part.discard_rings (why : Discard) (n : Slot) (k : Nat) (p : Part) : (p.discard why n k).rings = p.rings := rfl

theorem Part.keepDests_ring_ne {r q : RingNo} (ne : r ≠ q) (h : Head) (why : Discard) (keep : Slot → Bool) (p : Part) :
    (p.keepDests r h why keep).rings[q] = p.rings[q] := by
  rcases Part.keepDests_cases r h why keep p with ⟨-, e⟩ | ⟨k, -, -, -, e⟩ | ⟨k, -, -, e⟩ <;> rw [e]
  · exact Part.retire_ring_ne ne _ _
  · exact Part.modRing_ne ne _ _

theorem Part.mem_takeList_keepDests_ne {r q : RingNo} (ne : r ≠ q) (h : Head) (why : Discard) (keep : Slot → Bool) (p : Part) :
    q ∈ (p.keepDests r h why keep).engine.takeList ↔ q ∈ p.engine.takeList := by
  rcases Part.keepDests_cases r h why keep p with ⟨-, e⟩ | ⟨k, -, -, -, e⟩ | ⟨k, -, -, e⟩ <;> rw [e]
  · exact Part.mem_takeList_retire_ne ne _ _
  · exact Iff.rfl

theorem Part.keepDests_waiting (r : RingNo) (h : Head) (why : Discard) (keep : Slot → Bool) (p : Part) :
    (p.keepDests r h why keep).engine.waiting = p.engine.waiting := by
  rcases Part.keepDests_cases r h why keep p with ⟨-, e⟩ | ⟨k, -, -, -, e⟩ | ⟨k, -, -, e⟩ <;> rw [e] <;> rfl

theorem mem_requestIndex_ne {q : List IndexWrite} {w v : IndexWrite} (ne : v.ring ≠ w.ring) (h : w ∈ q) :
    w ∈ requestIndex q v := by
  unfold requestIndex
  split
  · exact List.mem_map.mpr ⟨w, h, if_neg (Ne.symm ne)⟩
  · exact List.mem_append_left _ h

theorem mem_requestIndex_self (q : List IndexWrite) (w : IndexWrite) : w ∈ requestIndex q w := by
  unfold requestIndex
  split
  · next h =>
    obtain ⟨v, hv, e⟩ := List.any_eq_true.mp h
    exact List.mem_map.mpr ⟨v, hv, if_pos (beq_iff_eq.mp e)⟩
  · exact List.mem_append_right _ List.mem_cons_self

theorem Part.mem_indexQueue_keepDests_ne {r : RingNo} {w : IndexWrite} (ne : r ≠ w.ring) (h : Head) (why : Discard)
    (keep : Slot → Bool) {p : Part} (mem : w ∈ p.engine.indexQueue) :
    w ∈ (p.keepDests r h why keep).engine.indexQueue := by
  rcases Part.keepDests_cases r h why keep p with ⟨-, e⟩ | ⟨k, -, -, -, e⟩ | ⟨k, -, -, e⟩ <;> rw [e]
  · exact mem
  · rw [Part.retire_indexQueue]
    exact mem_requestIndex_ne ne mem
  · exact mem

/-- A copy start moves no ring but its own, and of that no more than the gate-passed mark of its head (R109). -/
theorem Part.startCopy_ring_ne {r q : RingNo} (ne : r ≠ q) (h : Head) (d : Slot) (p : Part) :
    (p.startCopy r h d).rings[q] = p.rings[q] := by
  unfold Part.startCopy
  dsimp only
  split
  · split
    · rfl
    · exact Part.modRing_ne ne _ _
  · rfl

theorem Part.startCopy_ring_self {r : RingNo} {h : Head} {p : Part} (head : p.rings[r].take = .head h) (d : Slot) :
    ∃ g, (p.startCopy r h d).rings[r] = { p.rings[r] with take := .head { h with gatePassed := g } } := by
  have same : p.rings[r] = { p.rings[r] with take := .head { h with gatePassed := h.gatePassed } } := by rw [← head]
  unfold Part.startCopy
  dsimp only
  split
  · split
    · exact ⟨_, same⟩
    · exact ⟨true, Part.modRing_self _ _ _⟩
  · exact ⟨_, same⟩

/-- The copy a start begins (R109). -/
def Part.freshCopy (p : Part) (r : RingNo) (d : Slot) : Copy :=
  { ring := r, dest := d, destPos := p.rings[ingressRing d (ringClass r)].producer, block := 0, void := false
    headPresent := true, due := .read }

theorem Part.startCopy_engine (r : RingNo) (h : Head) (d : Slot) (p : Part) :
    (p.startCopy r h d).engine = { p.engine with copy := some (p.freshCopy r d) } := by
  unfold Part.startCopy
  dsimp only
  split
  · split <;> rfl
  · rfl

theorem Part.reviewHeads_ring (p : Part) (r : RingNo) :
    p.reviewHeads.rings[r] = p.rings[r] ∨ ∃ h since why, p.rings[r].take = .head h
      ∧ p.reviewHeads.rings[r] = { p.rings[r] with take := .head { h with blockedSince := since, blockReason := why } } := by
  have ring : p.reviewHeads.rings[r] = (match p.rings[r].take with
      | .head h => { p.rings[r] with take := .head (p.reviewHead r h) }
      | _ => p.rings[r] : Ring) := getElem_mapTable _ _ _ _
  rw [ring]
  split
  · next h head =>
    unfold Part.reviewHead
    split
    · exact .inr ⟨h, _, _, head, rfl⟩
    · exact .inr ⟨h, h.blockedSince, _, head, rfl⟩
  · exact .inl rfl

/-! ### Rings without a head at the end of an event -/

/-- Ring `r` has no head and its consumer stands at `c`. -/
def Part.Headless (r : RingNo) (c : BitVec 16) (p : Part) : Prop :=
  (∀ h, p.rings[r].take ≠ .head h) ∧ p.rings[r].consumer = c

theorem Part.Headless.of_ring {r : RingNo} {c : BitVec 16} {p q : Part} (e : q.rings[r] = p.rings[r]) (h : p.Headless r c) :
    q.Headless r c := by
  unfold Part.Headless
  rw [e]
  exact h

theorem Part.Headless.headRecord {r : RingNo} {c : BitVec 16} {p : Part} (h : p.Headless r c) : p.headRecord r = none := by
  rw [Option.eq_none_iff_forall_ne_some]
  exact fun y head => h.1 y (Part.headRecord_eq_some.mp head).2

theorem Part.headless_of_headRecord {r : RingNo} {p : Part} (e : isEgress r = true) (h : p.headRecord r = none) :
    p.Headless r p.rings[r].consumer :=
  ⟨fun _ take => absurd ((Part.headRecord_eq_some.mpr ⟨e, take⟩).symm.trans h) nofun, rfl⟩

theorem Part.Settling.headless {r : RingNo} {c : BitVec 16} {p q : Part} (s : p.Settling q) (h : p.Headless r c) :
    q.Headless r c := by
  have other : ∀ {r' y}, p.headRecord r' = some y → r' ≠ r := by
    rintro r' y head rfl
    exact h.1 y (Part.headRecord_eq_some.mp head).2
  cases s with
  | keepDests head => exact h.of_ring (Part.keepDests_ring_ne (other head) _ _ _ _)
  | startCopy copy head ready => exact h.of_ring (Part.startCopy_ring_ne (other head) _ _ _)
  | reviewHeads =>
    rcases p.reviewHeads_ring r with e | ⟨y, -, -, take, -⟩
    · exact h.of_ring e
    · exact absurd take (h.1 y)
  | @issueHeader r' rest free list =>
    by_cases e : r' = r
    · subst e
      refine ⟨fun y take => ?_, ?_⟩
      · exact absurd ((congrArg Ring.take (Part.setTake_ring_self r' .reading p)).symm.trans take) nofun
      · exact (congrArg Ring.consumer (Part.setTake_ring_self r' .reading p)).trans h.2
    · exact h.of_ring (Part.setTake_ring_ne e _ _)
  | orderJoins | endBatch | markInstant | issueIndex | issueCopy => exact h.of_ring rfl

theorem Part.Settles.headless {r : RingNo} {c : BitVec 16} {p q : Part} (s : p.Settles q) (h : p.Headless r c) :
    q.Headless r c := s.keeps (P := Part.Headless r c) (fun _ _ => Part.Settling.headless) h

/-- Ring `r` rests in take state `t`, off the take list, with its consumer at `c`. -/
def Part.Resting (r : RingNo) (t : Take) (c : BitVec 16) (p : Part) : Prop :=
  p.rings[r].take = t ∧ p.rings[r].consumer = c ∧ r ∉ p.engine.takeList

theorem Part.Resting.of_ring {r : RingNo} {t : Take} {c : BitVec 16} {p q : Part} (e : q.rings[r] = p.rings[r])
    (l : r ∈ q.engine.takeList ↔ r ∈ p.engine.takeList) (h : p.Resting r t c) : q.Resting r t c := by
  unfold Part.Resting
  rw [e, l]
  exact h

theorem Part.mem_takeList_orderJoins (r : RingNo) (stood : Joined) (p : Part) :
    r ∈ (p.modEngine (Engine.orderJoins stood)).engine.takeList ↔ r ∈ p.engine.takeList :=
  (joinInOrder_perm id stood.takes p.engine.takeList).mem_iff

theorem Part.Settling.resting {r : RingNo} {t : Take} {c : BitVec 16} {p q : Part} (bare : ∀ h, t ≠ .head h)
    (s : p.Settling q) (h : p.Resting r t c) : q.Resting r t c := by
  have other : ∀ {r' y}, p.headRecord r' = some y → r' ≠ r := by
    rintro r' y head rfl
    exact bare y (h.1.symm.trans (Part.headRecord_eq_some.mp head).2)
  cases s with
  | keepDests head =>
    exact h.of_ring (Part.keepDests_ring_ne (other head) _ _ _ _) (Part.mem_takeList_keepDests_ne (other head) _ _ _ _)
  | startCopy copy head ready =>
    exact h.of_ring (Part.startCopy_ring_ne (other head) _ _ _) (by rw [Part.startCopy_engine])
  | reviewHeads =>
    rcases p.reviewHeads_ring r with e | ⟨y, -, -, take, -⟩
    · exact h.of_ring e Iff.rfl
    · exact absurd (h.1.symm.trans take) (bare y)
  | @issueHeader r' rest free list =>
    have ne : r' ≠ r := by
      rintro rfl
      exact h.2.2 (by rw [list]; exact List.mem_cons_self)
    refine h.of_ring ?_ ?_
    · exact Part.setTake_ring_ne ne _ _
    · exact Part.mem_takeList_setTake_ne ne .reading p
  | orderJoins stood =>
    refine h.of_ring ?_ ?_
    · rfl
    · exact Part.mem_takeList_orderJoins r stood p
  | endBatch | markInstant | issueIndex | issueCopy => exact h.of_ring rfl Iff.rfl

theorem Part.Settles.resting {r : RingNo} {t : Take} {c : BitVec 16} {p q : Part} (bare : ∀ h, t ≠ .head h)
    (s : p.Settles q) (h : p.Resting r t c) : q.Resting r t c :=
  s.keeps (P := Part.Resting r t c) (fun _ _ => Part.Settling.resting bare) h

/-- Ring `r` is LISTED or its header is being read, with its consumer at `c`. -/
def Part.Listed (r : RingNo) (c : BitVec 16) (p : Part) : Prop :=
  (p.rings[r].take = .listed ∨ p.rings[r].take = .reading) ∧ p.rings[r].consumer = c

theorem Part.Listed.of_ring {r : RingNo} {c : BitVec 16} {p q : Part} (e : q.rings[r] = p.rings[r]) (h : p.Listed r c) :
    q.Listed r c := by
  unfold Part.Listed
  rw [e]
  exact h

theorem Part.Settling.listed {r : RingNo} {c : BitVec 16} {p q : Part} (s : p.Settling q) (h : p.Listed r c) : q.Listed r c := by
  have bare : ∀ y, p.rings[r].take ≠ .head y := by
    rcases h.1 with e | e <;> rw [e] <;> nofun
  have other : ∀ {r' y}, p.headRecord r' = some y → r' ≠ r := by
    rintro r' y head rfl
    exact bare y (Part.headRecord_eq_some.mp head).2
  cases s with
  | keepDests head => exact h.of_ring (Part.keepDests_ring_ne (other head) _ _ _ _)
  | startCopy copy head ready => exact h.of_ring (Part.startCopy_ring_ne (other head) _ _ _)
  | reviewHeads =>
    rcases p.reviewHeads_ring r with e | ⟨y, -, -, take, -⟩
    · exact h.of_ring e
    · exact absurd take (bare y)
  | @issueHeader r' rest free list =>
    by_cases e : r' = r
    · subst e
      have ring : (p.setTake r' .reading).rings[r'] = { p.rings[r'] with take := .reading } := Part.setTake_ring_self _ _ _
      exact ⟨.inr (congrArg Ring.take ring), (congrArg Ring.consumer ring).trans h.2⟩
    · exact h.of_ring (Part.setTake_ring_ne e _ _)
  | orderJoins | endBatch | markInstant | issueIndex | issueCopy => exact h.of_ring rfl

theorem Part.Settles.listed {r : RingNo} {c : BitVec 16} {p q : Part} (s : p.Settles q) (h : p.Listed r c) : q.Listed r c :=
  s.keeps (P := Part.Listed r c) (fun _ _ => Part.Settling.listed) h

end Sys2Proof.Machine
end


section
/-! PROOFS. What the end of an event keeps of the copy, the batch, the gates, the counters, a head and the index writes; then the
obligations about gate times and about the engine's grants before a delivery. -/
namespace Sys2Proof.Machine

/-! ### The copy, the batch and the gates at the end of an event -/

/-- The retirement of a frame leaves the copy in progress, but that a copy of its own ring has lost its head (R99). -/
theorem Part.keepDests_copy (r : RingNo) (h : Head) (why : Discard) (keep : Slot → Bool) (p : Part) :
    (p.keepDests r h why keep).engine.copy = p.engine.copy
      ∨ (p.keepDests r h why keep).engine.copy
        = p.engine.copy.map fun c => if c.ring = r then { c with headPresent := false } else c := by
  rcases Part.keepDests_cases r h why keep p with ⟨-, e⟩ | ⟨k, -, -, -, e⟩ | ⟨k, -, -, e⟩ <;> rw [e]
  · exact .inl rfl
  · exact .inr rfl
  · exact .inl rfl

theorem Part.keepDests_batch (r : RingNo) (h : Head) (why : Discard) (keep : Slot → Bool) (p : Part) :
    (p.keepDests r h why keep).engine.batch = p.engine.batch
      ∨ (p.keepDests r h why keep).engine.batch
        = p.engine.batch.map fun b => if b.ring = r then { b with count := b.count + 1 } else b := by
  rcases Part.keepDests_cases r h why keep p with ⟨-, e⟩ | ⟨k, -, -, -, e⟩ | ⟨k, -, -, e⟩ <;> rw [e]
  · exact .inl rfl
  · exact .inr rfl
  · exact .inl rfl

theorem Part.keepDests_lastServed (r : RingNo) (h : Head) (why : Discard) (keep : Slot → Bool) (p : Part) :
    (p.keepDests r h why keep).engine.lastServed = p.engine.lastServed := by
  rcases Part.keepDests_cases r h why keep p with ⟨-, e⟩ | ⟨k, -, -, -, e⟩ | ⟨k, -, -, e⟩ <;> rw [e] <;> rfl

theorem Part.retire_gates (r : RingNo) (k : Nat) (p : Part) : (p.retire r k).gates = p.gates := by
  simp only [Part.retire, Part.countBatch, Part.setTake, Part.orphanCopy, Part.writeIndex, Part.modEngine_gates,
    Part.modRing_gates]

theorem Part.keepDests_gates (r : RingNo) (h : Head) (why : Discard) (keep : Slot → Bool) (p : Part) :
    (p.keepDests r h why keep).gates = p.gates := by
  rcases Part.keepDests_cases r h why keep p with ⟨-, e⟩ | ⟨k, -, -, -, e⟩ | ⟨k, -, -, e⟩ <;> rw [e]
  · exact Part.retire_gates _ _ _
  · rfl

/-- `c'` is a copy that goes on from `c`: they differ in the access due and in whether their head is still there. -/
def Copy.goesOn (c c' : Copy) : Prop :=
  c'.ring = c.ring ∧ c'.dest = c.dest ∧ c'.destPos = c.destPos ∧ c'.block = c.block ∧ c'.void = c.void

/-- The copy `c` is in progress, with its access still due or issued by now. -/
def Part.Copying (c : Copy) (p : Part) : Prop :=
  ∃ c', p.engine.copy = some c' ∧ c.goesOn c' ∧ (c'.due = c.due ∨ p.engine.waiting = c.due.access)

theorem Part.Copying.of_engine {c : Copy} {p q : Part} (h : p.Copying c)
    (copy : q.engine.copy = p.engine.copy ∨ ∃ r, q.engine.copy
      = p.engine.copy.map fun c => if c.ring = r then { c with headPresent := false } else c)
    (waiting : q.engine.waiting = p.engine.waiting ∨ p.engine.waiting = none) (busy : c.due.access ≠ none) : q.Copying c := by
  obtain ⟨c', some, same, due⟩ := h
  have kept : c'.due = c.due ∨ q.engine.waiting = c.due.access := by
    rcases waiting with w | w
    · rwa [w]
    · exact .inl (due.resolve_right fun e => busy (e.symm.trans w))
  rcases copy with e | ⟨r, e⟩
  · exact ⟨c', e.trans some, same, kept⟩
  · rw [some] at e
    by_cases of : c'.ring = r
    · exact ⟨{ c' with headPresent := false }, by rw [e, Option.map_some, if_pos of], same, kept⟩
    · exact ⟨c', by rw [e, Option.map_some, if_neg of], same, kept⟩

theorem Part.Settling.copying {c : Copy} (busy : c.due.access ≠ none) {p q : Part} (s : p.Settling q) (h : p.Copying c) :
    q.Copying c := by
  have running : p.engine.copy ≠ none := by
    obtain ⟨c', e, -⟩ := h
    rw [e]
    nofun
  cases s with
  | @keepDests r y head =>
    exact h.of_engine ((Part.keepDests_copy r y _ _ p).imp_right fun e => ⟨r, e⟩)
      (.inl (Part.keepDests_waiting r y _ _ p)) busy
  | endBatch copy => exact absurd copy running
  | startCopy copy => exact absurd copy running
  | issueIndex free => exact h.of_engine (.inl rfl) (.inr free) busy
  | issueHeader free => exact h.of_engine (.inl rfl) (.inr free) busy
  | @issueCopy c₀ a free copy due =>
    obtain ⟨c', some, same, ready⟩ := h
    have e : c' = c₀ := Option.some.inj (some.symm.trans copy)
    subst e
    have d : c'.due = c.due := ready.resolve_right fun e => busy (e.symm.trans free)
    exact ⟨{ c' with due := .nothing }, rfl, same, .inr (due.symm.trans (congrArg CopyDue.access d))⟩
  | orderJoins | markInstant | reviewHeads => exact h.of_engine (.inl rfl) (.inl rfl) busy

/-- A copy in progress goes on through the end of an event: its access is still due, or waits for the memory port. -/
theorem Part.Settles.copying {c : Copy} (busy : c.due.access ≠ none) {p q : Part} (s : p.Settles q)
    (h : p.engine.copy = some c) : q.Copying c :=
  s.keeps (P := Part.Copying c) (fun _ _ => Part.Settling.copying busy) ⟨c, h, ⟨rfl, rfl, rfl, rfl, rfl⟩, .inl rfl⟩

/-- Any copy in progress is at its first block and not void. -/
def Part.Fresh (p : Part) : Prop := ∀ k, p.engine.copy = some k → k.block = 0 ∧ k.void = false

theorem Part.Settling.fresh {p q : Part} (s : p.Settling q) (h : p.Fresh) : q.Fresh := by
  cases s with
  | @keepDests r y head =>
    intro k copy
    rcases Part.keepDests_copy r y .destDown (p.keepsDown r y) p with e | e <;> rw [e] at copy
    · exact h k copy
    · obtain ⟨c, some, rfl⟩ := Option.map_eq_some_iff.mp copy
      have := h c some
      split <;> exact this
  | startCopy copy head ready =>
    intro k copy
    rw [Part.startCopy_engine] at copy
    obtain rfl := Option.some.inj copy
    exact ⟨rfl, rfl⟩
  | @issueCopy c a free copy due =>
    intro k some
    obtain rfl := Option.some.inj some
    exact h c copy
  | orderJoins | markInstant | reviewHeads | endBatch | issueIndex | issueHeader => exact h

/-- With no copy in progress, any copy the end of an event starts is at its first block. -/
theorem Part.Settles.fresh {p q : Part} (s : p.Settles q) (h : p.engine.copy = none) : q.Fresh :=
  s.keeps (P := Part.Fresh) (fun _ _ => Part.Settling.fresh) fun _ e => absurd (h.symm.trans e) nofun

/-- No batch is in progress and the slots served last are `l`. -/
def Part.NoBatch (l : Vector Slot 4) (p : Part) : Prop := p.engine.batch = none ∧ p.engine.lastServed = l

theorem Part.Settling.noBatch {l : Vector Slot 4} {p q : Part} (s : p.Settling q) (h : p.NoBatch l) : q.NoBatch l := by
  cases s with
  | @keepDests r y head =>
    refine ⟨?_, (Part.keepDests_lastServed r y _ _ p).trans h.2⟩
    rcases Part.keepDests_batch r y .destDown (p.keepsDown r y) p with e | e <;> rw [e, h.1]
    rfl
  | endBatch copy batch => exact absurd (h.1.symm.trans batch) nofun
  | startCopy copy head ready =>
    unfold Part.NoBatch
    rw [Part.startCopy_engine]
    exact h
  | orderJoins | markInstant | reviewHeads | issueIndex | issueHeader | issueCopy => exact h

theorem Part.Settles.noBatch {l : Vector Slot 4} {p q : Part} (s : p.Settles q) (h : p.NoBatch l) : q.NoBatch l :=
  s.keeps (P := Part.NoBatch l) (fun _ _ => Part.Settling.noBatch) h

/-- A copy start leaves every gate but that of its frame, and that one it may close in PULSE mode (R158). -/
theorem Part.startCopy_gate (r : RingNo) (h : Head) (d : Slot) (g : GateNo) (p : Part) :
    (p.startCopy r h d).gates[g] = p.gates[g]
      ∨ (p.gates[g].state = .opened ∧ p.plan.gates[g].mode = .pulse
        ∧ (p.startCopy r h d).gates[g] = { p.gates[g] with state := .closed }) := by
  unfold Part.startCopy
  dsimp only
  split
  · next hg =>
    split
    · exact .inl rfl
    · by_cases e : (⟨h.header.gate, hg⟩ : GateNo) = g
      · have moved : ∀ q : Part, q.gates = p.gates → (q.modGate ⟨h.header.gate, hg⟩ fun x =>
            x.copyStart p.plan.gates[h.header.gate]).gates[g] = p.gates[g].copyStart p.plan.gates[g] := by
          intro q same
          subst e
          refine (Part.modGate_self _ _ q).trans ?_
          rw [same]
          rfl
        by_cases shut : p.gates[g].state = .opened ∧ p.plan.gates[g].mode = .pulse
        · exact .inr ⟨shut.1, shut.2, (moved _ rfl).trans (if_pos (by simpa using shut))⟩
        · exact .inl ((moved _ rfl).trans (if_neg (by simpa using shut)))
      · exact .inl (Part.modGate_ne e _ _)
  · exact .inl rfl

/-- Gate `g` is as `x` was, or a copy start has closed it (R158). -/
def Part.GateFrom (g : GateNo) (x : Gate) (mode : GateMode) (p : Part) : Prop :=
  p.plan.gates[g].mode = mode
    ∧ (p.gates[g] = x ∨ (x.state = .opened ∧ mode = .pulse ∧ p.gates[g] = { x with state := .closed }))

theorem Part.GateFrom.of_gates {g : GateNo} {x : Gate} {mode : GateMode} {p q : Part} (h : p.GateFrom g x mode)
    (plan : q.plan = p.plan) (gates : q.gates = p.gates) : q.GateFrom g x mode := by
  unfold Part.GateFrom
  rw [plan, gates]
  exact h

theorem Part.Settling.gateFrom {g : GateNo} {x : Gate} {mode : GateMode} {p q : Part} (s : p.Settling q)
    (h : p.GateFrom g x mode) : q.GateFrom g x mode := by
  have plan := Part.plan_of_exchange s.besidesExchange
  cases s with
  | keepDests head => exact h.of_gates plan (Part.keepDests_gates _ _ _ _ p)
  | @startCopy r y d copy head ready =>
    refine ⟨by rw [plan]; exact h.1, ?_⟩
    rcases Part.startCopy_gate r y d g p with e | ⟨opened, pulse, e⟩ <;> rw [e]
    · exact h.2
    · rcases h.2 with same | ⟨-, -, closed⟩
      · exact .inr ⟨same ▸ opened, h.1.symm.trans pulse, by rw [same]⟩
      · rw [closed] at opened
        exact absurd opened nofun
  | orderJoins | markInstant | reviewHeads | endBatch | issueIndex | issueHeader | issueCopy => exact h.of_gates plan rfl

/-- At the end of an event each gate is as before it, or a copy start has closed it (R158). -/
theorem Part.Settles.gate {p q : Part} (s : p.Settles q) (g : GateNo) :
    q.gates[g] = p.gates[g] ∨ (p.gates[g].state = .opened ∧ p.plan.gates[g].mode = .pulse
      ∧ q.gates[g] = { p.gates[g] with state := .closed }) :=
  (s.keeps (P := Part.GateFrom g p.gates[g] p.plan.gates[g].mode) (fun _ _ => Part.Settling.gateFrom) ⟨rfl, .inl rfl⟩).2

/-! ### Gate and strobe times -/

/-- An event after which the exchange settles: the next state, reached by the changes of the end of an event. -/
theorem exec_settles {c : Instr} {s : State} {p : Part} {old : Engine} (event : s.part.after c = p.settleExchange old)
    (command : c ≠ .accessGrant) : ∃ t, exec c s = .next t ∧ t.memory = s.memory ∧ p.Settles t.part := by
  refine ⟨_, exec_eq_after command s, rfl, ?_⟩
  show p.Settles (s.part.after c)
  rw [event]
  exact Part.settles_settleExchange old p

theorem Gate.openNow_eq (x : Gate) (plan : GatePlan) (clock : ClockState) (now : Nat) :
    x.openNow plan clock now =
      if plan.traceable = true ∧ (clock = .freerun ∨ clock = .acquiring) then
        { x with state := .closed, suppressed := x.suppressed + 1 }
      else { x with
        state := .opened, opens := x.opens + 1, windowStart := if plan.mode = .window then now else x.windowStart } := by
  have untraceable : clock.untraceable = true ↔ clock = .freerun ∨ clock = .acquiring := by cases clock <;> decide
  unfold Gate.openNow
  simp only [Bool.and_eq_true, untraceable]

theorem Part.modGate_congr {g : GateNo} {f f' : Gate → Gate} {p : Part} (h : f p.gates[g] = f' p.gates[g]) :
    p.modGate g f = p.modGate g f' := by
  unfold Part.modGate modify
  rw [h]

/-- Settles O53: a copy that starts at the instant may close a gate, and nothing else of a gate moves at the end of an event. -/
theorem gatesAndStrobesKeepTheirTimes : Obligations.GatesAndStrobesKeepTheirTimes := by
  unfold Obligations.GatesAndStrobesKeepTheirTimes
  intro s running
  refine ⟨?_, fun g due => ?_, fun n due => ?_, fun n due => ?_⟩
  · intro g due x plan suppressed z
    have event : s.part.after (.gateOpenDelayExpiry g) = (s.part.modGate g fun _ => z).settleExchange s.part.engine := by
      rw [Part.after_gateOpenDelayExpiry, Part.whenDue_of_due running due, Part.modGate_congr (f' := fun _ => z)]
      exact Gate.openNow_eq _ _ _ _
    obtain ⟨t, run, memory, settles⟩ := exec_settles event nofun
    have moved : (s.part.modGate g fun _ => z).gates[g] = z := Part.modGate_self _ _ _
    refine ⟨t, run, memory, ?_, settles.besidesExchange⟩
    rcases settles.gate g with same | ⟨opened, pulse, closed⟩
    · exact .inl (same.trans moved)
    · exact .inr ⟨moved ▸ opened, pulse, moved ▸ closed⟩
  · have event : s.part.after (.gateWindowExpiry g)
        = (s.part.modGate g fun x => { x with state := .closed }).settleExchange s.part.engine := by
      rw [Part.after_gateWindowExpiry, Part.whenDue_of_due running due]
    obtain ⟨t, run, memory, settles⟩ := exec_settles event nofun
    have moved : (s.part.modGate g fun x => { x with state := .closed }).gates[g] = { s.part.gates[g] with state := .closed } :=
      Part.modGate_self _ _ _
    refine ⟨t, run, memory, ?_, settles.besidesExchange.trans (Part.besidesExchange_modGate _ _ _ fun _ => rfl)⟩
    rcases settles.gate g with same | ⟨opened, -, -⟩
    · exact same.trans moved
    · rw [moved] at opened
      exact absurd opened nofun
  · rw [exec_eq_after (c := .strobeBegin n) nofun]
    refine congrArg _ (State.modPart_congr ?_)
    rw [Part.after_strobeBegin, Part.whenDue_of_due running due]
  · rw [exec_eq_after (c := .strobeEnd n) nofun]
    refine congrArg _ (State.modPart_congr ?_)
    rw [Part.after_strobeEnd, Part.whenDue_of_due running due]

end Sys2Proof.Machine
end


section
/-! PROOFS. The exchange engine's accesses: what each grant does before the end of its event (R89, R110, R111). -/
namespace Sys2Proof.Machine

/-- The state with the engine's access granted: recorded as an internal grant, with none waiting (R14, R110). -/
def State.engineServed (s : State) : State :=
  s.internalGranted.modPart fun p => p.modEngine fun e => { e with waiting := none }

/-- The part with an internal grant recorded and the reads of `l` in flight (R14, R13). -/
def Part.internallyServed (p : Part) (l : List Flight) : Part :=
  { p with arbiter := { p.arbiter with lastGroup := .internal }, flights := p.flights ++ l }

theorem State.engineServed_besidesExchange (s : State) :
    s.engineServed.part.besidesExchange = (s.part.internallyServed []).besidesExchange := by
  refine (Part.besidesExchange_modEngine _ _ rfl).trans ?_
  unfold Part.internallyServed
  rw [List.append_nil]
  rfl

theorem State.engineServed_launch (s : State) (k : Purpose) (a len : Nat) :
    (s.engineServed.launch k a len).part.besidesExchange
      = (s.part.internallyServed [{ purpose := k, data := s.memory.read a len }]).besidesExchange :=
  congrArg (fun p : Part => { p with flights := s.part.flights ++ [({ purpose := k, data := s.memory.read a len } : Flight)] })
    s.engineServed_besidesExchange

section
variable {s : State} (running : s.part.running = true) (engine : s.part.arbitrate = .engine)
include running engine

theorem exec_grant_index {w : IndexWrite} (waits : s.part.engine.waiting = some (.index w)) :
    exec .accessGrant s = .next ((s.engineServed.store (partOwnedAddr w.ring) (indexWordBytes w.value)).modPart
      (Part.settleExchange s.part.engine)) := by
  rw [exec_accessGrant_of_running running, State.grant_of_engine engine]
  unfold State.grantEngine
  dsimp only
  rw [show s.internalGranted.part.engine = s.part.engine from rfl]
  rw [waits]
  rfl

theorem exec_grant_header {r : RingNo} (waits : s.part.engine.waiting = some (.header r)) :
    exec .accessGrant s = .next ((s.engineServed.launch (.header r)
      (s.part.plan.rings[r].entryAddr s.part.rings[r].consumer.toNat) 16).modPart (Part.settleExchange s.part.engine)) := by
  rw [exec_accessGrant_of_running running, State.grant_of_engine engine]
  unfold State.grantEngine
  dsimp only
  rw [show s.internalGranted.part.engine = s.part.engine from rfl]
  rw [waits]
  rfl

theorem exec_grant_copyRead {c : Copy} (waits : s.part.engine.waiting = some .copyRead) (copy : s.part.engine.copy = some c) :
    exec .accessGrant s = .next ((s.engineServed.launch .copy (s.part.copySource c) 64).modPart
      (Part.settleExchange s.part.engine)) := by
  rw [exec_accessGrant_of_running running, State.grant_of_engine engine]
  unfold State.grantEngine
  dsimp only
  rw [show s.internalGranted.part.engine = s.part.engine from rfl]
  rw [waits, copy]
  rfl

theorem exec_grant_copyWrite {c : Copy} {data : List Byte} (waits : s.part.engine.waiting = some (.copyWrite data))
    (copy : s.part.engine.copy = some c) :
    exec .accessGrant s = .next ((s.engineServed.store (s.part.copyTarget c) data).modPart
      fun q => (q.copyBlockWritten c).settleExchange s.part.engine) := by
  rw [exec_accessGrant_of_running running, State.grant_of_engine engine]
  unfold State.grantEngine
  dsimp only
  rw [show s.internalGranted.part.engine = s.part.engine from rfl]
  rw [waits, copy]
  rfl

theorem exec_grant_copyProducer {c : Copy} (waits : s.part.engine.waiting = some .copyProducer)
    (copy : s.part.engine.copy = some c) :
    exec .accessGrant s = .next ((s.engineServed.store (partOwnedAddr (ingressRing c.dest (ringClass c.ring)))
      (indexWordBytes (s.part.deliveredProducer c))).modPart
        fun q => ((q.deliver c).settleExchange s.part.engine).report [slotPoint c.dest 3]) := by
  rw [exec_accessGrant_of_running running, State.grant_of_engine engine]
  unfold State.grantEngine
  dsimp only
  rw [show s.internalGranted.part.engine = s.part.engine from rfl]
  rw [waits, copy]
  rfl

end

/-- The copy after a granted block write of a frame of `entries` entries (R111). -/
def Copy.written (c : Copy) (entries : Nat) : Copy :=
  if c.block + 1 < 2 * entries then { c with block := c.block + 1, due := .read } else { c with due := .producer }

theorem Part.copyBlockWritten_of_head {c : Copy} {h : Head} {p : Part} (void : c.void = false)
    (head : p.headRecord c.ring = some h) :
    p.copyBlockWritten c = p.modEngine fun e => { e with copy := some (c.written h.header.entries) } := by
  unfold Part.copyBlockWritten
  rw [if_neg (ne_true_of_eq_false void), head]
  rfl

theorem Part.besidesExchange_copyBlockWritten (c : Copy) (p : Part) :
    (p.copyBlockWritten c).besidesExchange = p.besidesExchange := by
  unfold Part.copyBlockWritten
  split
  · exact Part.besidesExchange_endCopy p
  · exact Part.besidesExchange_modEngine _ _ rfl

/-- Settles O28: each access is made, and the end of the event stays within the exchange. -/
theorem grantedEngineAccesses : Obligations.GrantedEngineAccesses := by
  unfold Obligations.GrantedEngineAccesses
  intro s running engine after place
  refine ⟨fun w waits => ?_, fun r waits => ?_, fun c waits copy => ?_, fun c data waits copy => ?_⟩
  · refine ⟨_, exec_grant_index running engine waits, ?_, ?_⟩
    · rw [State.modPart_memory, State.store_memory]
      rfl
    · rw [State.modPart_part, Part.besidesExchange_settleExchange, State.store_part, State.engineServed_besidesExchange]
      rfl
  · refine ⟨_, exec_grant_header running engine waits, ?_, ?_⟩
    · rw [State.modPart_memory, State.launch_memory]
      rfl
    · rw [State.modPart_part, Part.besidesExchange_settleExchange, State.engineServed_launch]
      rfl
  · refine ⟨_, exec_grant_copyRead running engine waits copy, ?_, ?_⟩
    · rw [State.modPart_memory, State.launch_memory]
      rfl
    · rw [State.modPart_part, Part.besidesExchange_settleExchange, State.engineServed_launch]
      rfl
  · refine ⟨_, exec_grant_copyWrite running engine waits copy, ?_, ?_, fun h void head => ?_⟩
    · rw [State.modPart_memory, State.store_memory]
      rfl
    · rw [State.modPart_part, Part.besidesExchange_settleExchange, Part.besidesExchange_copyBlockWritten, State.store_part,
        State.engineServed_besidesExchange]
      rfl
    · have written : (s.engineServed.store (s.part.copyTarget c) data).part.copyBlockWritten c
          = s.engineServed.part.modEngine fun e => { e with copy := some (c.written h.header.entries) } :=
        Part.copyBlockWritten_of_head void head
      have due : (c.written h.header.entries).due.access ≠ none := by
        unfold Copy.written
        split <;> nofun
      rw [State.modPart_part, written]
      obtain ⟨c', copying, ⟨ring, dest, pos, block, voids⟩, next⟩ :=
        (Part.settles_settleExchange s.part.engine (s.engineServed.part.modEngine fun e =>
          { e with copy := some (c.written h.header.entries) })).copying due rfl
      refine ⟨c', copying, ?_⟩
      generalize Part.settleExchange _ _ = q at next
      unfold Copy.written at *
      by_cases more : c.block + 1 < 2 * h.header.entries
      · rw [if_pos more] at *
        exact ⟨ring, dest, pos, voids.trans void, block, next⟩
      · rw [if_neg more] at *
        exact ⟨ring, dest, pos, voids.trans void, block, next⟩

end Sys2Proof.Machine
end


section
/-! PROOFS. The service choice, the end of a block read, and the hold limit (6.3 to 6.5): what of the engine's counters, copy and
batch the end of their events keeps. -/
namespace Sys2Proof.Machine

/-! ### Exchange counters -/

theorem Part.discard_counters (why : Discard) (n m : Slot) (k : Nat) (p : Part) :
    (p.discard why n k).ports[m].counters
      = if n = m then p.ports[m].counters.discard why (BitVec.ofNat 32 k) else p.ports[m].counters := by
  show (p.modCounters n fun c => c.discard why (BitVec.ofNat 32 k)).ports[m].counters = _
  unfold Part.modCounters
  split
  · next e =>
    subst e
    rw [Part.modPort_self]
  · next ne => rw [Part.modPort_ne ne]

theorem Part.retire_ports (r : RingNo) (k : Nat) (p : Part) : (p.retire r k).ports = p.ports := by
  simp only [Part.retire, Part.countBatch, Part.setTake, Part.orphanCopy, Part.writeIndex, Part.modEngine_ports,
    Part.modRing_ports]

theorem Counters.discard_zero (c : Counters) (why : Discard) : c.discard why (BitVec.ofNat 32 0) = c := by
  have zero : ∀ x : Word, x + BitVec.ofNat 32 0 = x := BitVec.add_zero
  cases why <;> simp only [Counters.discard, zero]

/-- Every destination that is not kept is counted against the ring's slot (R104). -/
theorem Part.keepDests_counters (r : RingNo) (h : Head) (why : Discard) (keep : Slot → Bool) (p : Part) (m : Slot) :
    (p.keepDests r h why keep).ports[m].counters
      = if ringSlot r = m then
          p.ports[m].counters.discard why (BitVec.ofNat 32 (h.dests.length - (h.dests.filter keep).length))
        else p.ports[m].counters := by
  rcases Part.keepDests_cases r h why keep p with ⟨all, e⟩ | ⟨k, -, none, count, e⟩ | ⟨k, -, count, e⟩ <;> rw [e]
  · rw [List.length_filter_eq_length_iff.mpr all, Nat.sub_self, Counters.discard_zero, ite_self]
  · rw [Part.retire_ports, Part.discard_counters, count, none]
    rfl
  · rw [Part.modRing_ports, Part.discard_counters, count]

/-- The counters besides DEST_DOWN, the only ones the end of an event moves (R116, R117). -/
def Counters.besidesDown (c : Counters) : Counters := { c with destDown := 0 }

theorem Part.startCopy_ports (r : RingNo) (h : Head) (d : Slot) (p : Part) : (p.startCopy r h d).ports = p.ports := by
  unfold Part.startCopy
  dsimp only
  split
  · split <;> rfl
  · rfl

theorem Part.Settling.counters {p q : Part} (s : p.Settling q) (n : Slot) :
    q.ports[n].counters.besidesDown = p.ports[n].counters.besidesDown := by
  cases s with
  | keepDests head =>
    rw [Part.keepDests_counters]
    split <;> rfl
  | startCopy => rw [Part.startCopy_ports]
  | orderJoins | endBatch | reviewHeads | markInstant | issueIndex | issueHeader | issueCopy => rfl

/-- The end of an event moves no counter but DEST_DOWN (R116, R117). -/
theorem Part.Settles.counters {p q : Part} (s : p.Settles q) (n : Slot) :
    q.ports[n].counters.besidesDown = p.ports[n].counters.besidesDown :=
  s.keeps (P := fun q => q.ports[n].counters.besidesDown = p.ports[n].counters.besidesDown)
    (fun _ _ step e => (step.counters n).trans e) rfl

/-! ### A batch whose first copy has started (R107, R109) -/

/-- The engine serves ring `r` in a batch that has counted no frame, with the first copy of its head to `d` in progress. -/
def Part.Serving (r : RingNo) (d : Slot) (pos : BitVec 16) (p : Part) : Prop :=
  (∀ h, p.headRecord r = some h → d ∈ h.dests) ∧ p.engine.batch = some { ring := r, count := 0 }
    ∧ ∃ c, p.engine.copy = some c ∧ c.ring = r ∧ c.dest = d ∧ c.destPos = pos ∧ c.block = 0 ∧ c.void = false
      ∧ c.headPresent = true ∧ (c.due = .read ∨ p.engine.waiting = some .copyRead)

theorem Part.headRecord_congr {r : RingNo} {p q : Part} (h : q.rings[r].take = p.rings[r].take) :
    q.headRecord r = p.headRecord r := by
  unfold Part.headRecord
  rw [h]

theorem Part.Serving.copyingTo {r : RingNo} {d : Slot} {pos : BitVec 16} {p : Part} (h : p.Serving r d pos) :
    p.copyingTo r d = true := by
  obtain ⟨-, -, c, copy, rfl, rfl, -, -, -, here, -⟩ := h
  unfold Part.copyingTo
  rw [copy]
  simp [here]

theorem Part.Serving.keepDests {r : RingNo} {d : Slot} {pos : BitVec 16} {p : Part} (h : p.Serving r d pos) {r' : RingNo}
    {y : Head} (head : p.headRecord r' = some y) : (p.keepDests r' y .destDown (p.keepsDown r' y)).Serving r d pos := by
  by_cases e : r' = r
  · subst e
    have kept : d ∈ y.dests.filter (p.keepsDown r' y) :=
      List.mem_filter.mpr ⟨h.1 y head, by simp [Part.keepsDown, h.copyingTo]⟩
    rcases Part.keepDests_cases r' y .destDown (p.keepsDown r' y) p with ⟨-, e⟩ | ⟨k, -, none, -, -⟩ | ⟨k, -, -, e⟩
    · rw [e]
      exact h
    · rw [none] at kept
      exact absurd kept List.not_mem_nil
    · rw [e]
      refine ⟨fun z head' => ?_, h.2⟩
      have take := (Part.headRecord_eq_some.mp head').2
      rw [Part.modRing_self] at take
      injection take with same
      rw [← same]
      exact kept
  · obtain ⟨dest, batch, c, copy, ring, rest⟩ := h
    refine ⟨fun z head' => dest z ?_, ?_, c, ?_, ring, ?_⟩
    · rwa [← Part.headRecord_congr (congrArg Ring.take (Part.keepDests_ring_ne e y _ _ p))]
    · rcases Part.keepDests_batch r' y .destDown (p.keepsDown r' y) p with b | b <;> rw [b, batch]
      exact congrArg _ (if_neg (Ne.symm e))
    · rcases Part.keepDests_copy r' y .destDown (p.keepsDown r' y) p with b | b <;> rw [b, copy]
      exact congrArg _ (if_neg (by rw [ring]; exact Ne.symm e))
    · rwa [Part.keepDests_waiting]

theorem Part.reviewHeads_headRecord {p : Part} {r : RingNo} {y : Head} (h : p.reviewHeads.headRecord r = some y) :
    ∃ z, p.headRecord r = some z ∧ z.header = y.header ∧ z.taken = y.taken ∧ z.dests = y.dests := by
  obtain ⟨egress, take⟩ := Part.headRecord_eq_some.mp h
  rcases p.reviewHeads_ring r with e | ⟨z, since, why, head, e⟩
  · exact ⟨y, Part.headRecord_eq_some.mpr ⟨egress, by rw [← e]; exact take⟩, rfl, rfl, rfl⟩
  · rw [e] at take
    injection take with same
    subst same
    exact ⟨z, Part.headRecord_eq_some.mpr ⟨egress, head⟩, rfl, rfl, rfl⟩

theorem Part.Settling.serving {r : RingNo} {d : Slot} {pos : BitVec 16} {p q : Part} (s : p.Settling q)
    (h : p.Serving r d pos) : q.Serving r d pos := by
  have running : p.engine.copy ≠ none := by
    obtain ⟨-, -, c, e, -⟩ := h
    rw [e]
    nofun
  cases s with
  | keepDests head => exact h.keepDests head
  | endBatch copy => exact absurd copy running
  | startCopy copy => exact absurd copy running
  | reviewHeads =>
    refine ⟨fun y head => ?_, h.2⟩
    obtain ⟨z, was, -, -, dests⟩ := Part.reviewHeads_headRecord head
    exact dests ▸ h.1 z was
  | issueIndex free =>
    obtain ⟨dest, batch, c, copy, ring, into, position, block, void, here, due⟩ := h
    exact ⟨dest, batch, c, copy, ring, into, position, block, void, here, .inl (due.resolve_right fun e => absurd (free.symm.trans e) nofun)⟩
  | @issueHeader r' rest free list =>
    obtain ⟨dest, batch, c, copy, ring, into, position, block, void, here, due⟩ := h
    refine ⟨fun y head => ?_, batch, c, copy, ring, into, position, block, void, here,
      .inl (due.resolve_right fun e => absurd (free.symm.trans e) nofun)⟩
    have take := (Part.headRecord_eq_some.mp head).2
    by_cases e : r' = r
    · subst e
      exact absurd ((congrArg Ring.take (Part.setTake_ring_self r' .reading p)).symm.trans take) nofun
    · refine dest y ?_
      rw [← head]
      exact (Part.headRecord_congr (congrArg Ring.take (Part.setTake_ring_ne e .reading p))).symm
  | @issueCopy c₀ a free copy due₀ =>
    obtain ⟨dest, batch, c, copy', ring, into, position, block, void, here, due⟩ := h
    have e : c = c₀ := Option.some.inj (copy'.symm.trans copy)
    subst e
    have read : c.due = .read := due.resolve_right fun e => absurd (free.symm.trans e) nofun
    rw [read] at due₀
    exact ⟨dest, batch, _, rfl, ring, into, position, block, void, here, .inr due₀.symm⟩
  | orderJoins | markInstant => exact h

theorem Part.Settles.serving {r : RingNo} {d : Slot} {pos : BitVec 16} {p q : Part} (s : p.Settles q)
    (h : p.Serving r d pos) : q.Serving r d pos :=
  s.keeps (P := Part.Serving r d pos) (fun _ _ => Part.Settling.serving) h

end Sys2Proof.Machine
end


section
/-! PROOFS. The engine's own events: the service choice, the end of a block read, the hold limit (R107, R109, R111–R115). -/
namespace Sys2Proof.Machine

theorem anyFin_eq_true {n : Nat} {w : Fin n → Bool} : anyFin n w = true ↔ ∃ i, w i = true := by
  unfold anyFin
  simp

/-! ### The service choice -/

/-- What choiceDue asks (R107). -/
theorem Part.choiceDue_iff {p : Part} :
    p.choiceDue = true ↔ p.engine.copy = none ∧ p.engine.batch = none ∧ p.hold = false ∧ anyFin 4 p.classReady = true
      ∧ p.settlesFirst = false := by
  unfold Part.choiceDue
  simp only [Bool.and_eq_true, Bool.not_eq_true', Option.isNone_iff_eq_none, and_assoc]

/-- The engine chooses the lowest class with a READY head and in it the first slot in rotation (R107). -/
theorem Part.chosenRing_of_ready {p : Part} (h : anyFin 4 p.classReady = true) :
    ∃ n c, p.chosenRing = some (egressRing n c) ∧ p.headIs (egressRing n c) .ready = true
      ∧ (∀ (m : Slot) (k : Cls), k.val < c.val → p.headIs (egressRing m k) .ready = false)
      ∧ ∀ m : Slot, p.headIs (egressRing m c) .ready = true →
          (n.val + 11 - p.engine.lastServed[c].val) % 12 ≤ (m.val + 11 - p.engine.lastServed[c].val) % 12 := by
  obtain ⟨c₀, ready₀⟩ := anyFin_eq_true.mp h
  cases cls : firstFin 4 p.classReady with
  | none => exact absurd ready₀ (ne_true_of_eq_false (firstFin_eq_none_iff.mp cls c₀))
  | some c =>
    obtain ⟨ready, lower⟩ := firstFin_eq_some_iff.mp cls
    obtain ⟨m₀, head₀⟩ := anyFin_eq_true.mp ready
    cases slot : firstAfter p.engine.lastServed[c] fun n => p.headIs (egressRing n c) .ready with
    | none => exact absurd head₀ (ne_true_of_eq_false (firstAfter_eq_none_iff.mp slot m₀))
    | some n =>
      obtain ⟨head, first⟩ := firstAfter_eq_some_iff.mp slot
      refine ⟨n, c, ?_, head, fun m k below => ?_, first⟩
      · unfold Part.chosenRing
        rw [cls]
        show (firstAfter p.engine.lastServed[c] fun n => p.headIs (egressRing n c) .ready).map _ = _
        rw [slot]
        rfl
      · exact Bool.eq_false_iff.mpr fun e =>
          absurd (anyFin_eq_true.mpr ⟨m, e⟩) (ne_true_of_eq_false (lower k below))

/-- A READY head has its gate condition met and a ready destination (R105). -/
theorem Part.ready_of_headIs {p : Part} {r : RingNo} (h : p.headIs r .ready = true) :
    ∃ y d, p.headRecord r = some y ∧ y.dests.find? (p.destReady (ringClass r) y) = some d ∧ p.gateMet y = true := by
  unfold Part.headIs at h
  split at h
  · next y head =>
    have ready : p.gateMet y = true ∧ y.dests.any (p.destReady (ringClass r) y) = true := by
      have cond : p.headCondition r y = .ready := beq_iff_eq.mp h
      unfold Part.headCondition at cond
      split at cond
      · cases cond
      · split at cond
        · cases cond
        · split at cond
          · next both => exact Bool.and_eq_true_iff.mp both
          · cases cond
    have found : (y.dests.find? (p.destReady (ringClass r) y)).isSome = true := by
      rw [List.find?_isSome]
      simpa using ready.2
    obtain ⟨d, e⟩ := Option.isSome_iff_exists.mp found
    exact ⟨y, d, head, e, ready.1⟩
  · cases h

/-- The gate that a copy start passes for the first time closes in PULSE mode, as it is OPEN (R105, R109, R158). -/
theorem Part.startCopy_gate_closed {p : Part} {r : RingNo} {h : Head} {d : Slot} {g : GateNo} (gate : h.header.gate = g.val)
    (passed : h.gatePassed = false) (met : p.gateMet h = true) (pulse : p.plan.gates[g].mode = .pulse) :
    (p.startCopy r h d).gates[g].state = .closed := by
  obtain ⟨g, low⟩ := g
  dsimp only at gate
  subst gate
  have opened : p.gates[h.header.gate].state = .opened := by
    unfold Part.gateMet at met
    rw [dif_pos low, passed, Bool.false_or] at met
    exact beq_iff_eq.mp met
  have moved : ∀ q : Part, q.gates = p.gates → (q.modGate ⟨h.header.gate, low⟩ fun x =>
      x.copyStart p.plan.gates[h.header.gate]).gates[h.header.gate]
        = p.gates[h.header.gate].copyStart p.plan.gates[h.header.gate] := by
    intro q e
    refine (Part.modGate_self ⟨h.header.gate, low⟩ _ q).trans ?_
    rw [e]
    rfl
  unfold Part.startCopy
  dsimp only
  rw [dif_pos low, if_neg (ne_true_of_eq_false passed)]
  refine (congrArg Gate.state (moved _ rfl)).trans ?_
  unfold Gate.copyStart
  rw [if_pos]
  exact Bool.and_eq_true_iff.mpr ⟨decide_eq_true opened, decide_eq_true pulse⟩

theorem Part.serving_startCopy {p : Part} {r : RingNo} {c : Cls} {h : Head} {d : Slot} (cls : ringClass r = c)
    (head : p.headRecord r = some h) (mem : d ∈ h.dests) (batch : p.engine.batch = some { ring := r, count := 0 }) :
    (p.startCopy r h d).Serving r d p.rings[ingressRing d c].producer := by
  subst cls
  obtain ⟨egress, take⟩ := Part.headRecord_eq_some.mp head
  unfold Part.Serving
  rw [Part.startCopy_engine]
  refine ⟨fun y head' => ?_, batch, _, rfl, rfl, rfl, rfl, rfl, rfl, rfl, .inl rfl⟩
  obtain ⟨g, ring⟩ := Part.startCopy_ring_self take d
  have take' := (Part.headRecord_eq_some.mp head').2
  rw [ring] at take'
  injection take' with same
  subst same
  exact mem

/-- Settles O39: the ring and the destination chosen are those of R107 and R109, and the end of the event keeps the copy just
started and its batch. -/
theorem serviceChoiceFollowsClassAndRotation : Obligations.ServiceChoiceFollowsClassAndRotation := by
  unfold Obligations.ServiceChoiceFollowsClassAndRotation
  intro s running due
  obtain ⟨n, c, chosen, ready, lower, first⟩ := Part.chosenRing_of_ready (Part.choiceDue_iff.mp due).2.2.2.1
  obtain ⟨h, d, head, dest, met⟩ := Part.ready_of_headIs ready
  have event : s.part.after .serviceChoice =
      ((s.part.modEngine fun e => { e with batch := some { ring := egressRing n c, count := 0 } }).startCopy
        (egressRing n c) h d).settleExchange s.part.engine := by
    rw [Part.after_serviceChoice, Part.whenDue_of_due running due]
    unfold Part.choose
    rw [chosen]
    dsimp only
    unfold Part.serveHead
    rw [show (s.part.modEngine fun e => { e with batch := some { ring := egressRing n c, count := 0 } }).headRecord
      (egressRing n c) = some h from head]
    dsimp only
    rw [show h.dests.find? ((s.part.modEngine fun e => { e with batch := some { ring := egressRing n c, count := 0 } }).destReady
      (ringClass (egressRing n c)) h) = some d from dest]
  obtain ⟨t, run, memory, settles⟩ := exec_settles event nofun
  rw [ringClass_egressRing] at dest
  have served := settles.serving (Part.serving_startCopy (p := s.part.modEngine fun e =>
    { e with batch := some { ring := egressRing n c, count := 0 } }) (ringClass_egressRing n c) head (List.mem_of_find?_eq_some dest) rfl)
  obtain ⟨-, batch, k, copy, ring, into, position, block, void, here, access⟩ := served
  refine ⟨n, c, h, d, t, ready, lower, first, head, dest, run, memory, ?_, batch,
    ⟨k, copy, ring, into, position, block, void, here, access⟩, fun g gate passed pulse => ?_⟩
  · rw [settles.besidesExchange, Part.besidesExchange_startCopy, Part.besidesExchange_modEngine _ _ rfl]
  · have closed := Part.startCopy_gate_closed (p := s.part.modEngine fun e =>
      { e with batch := some { ring := egressRing n c, count := 0 } }) (r := egressRing n c) (d := d) gate passed met pulse
    rcases settles.gate g with same | ⟨-, -, shut⟩
    · rw [same]
      exact closed
    · rw [shut]

end Sys2Proof.Machine
end


section
/-! PROOFS. The end of a block read of the copy, and the hold limit (R99, R108, R111, R112, R114, R115). -/
namespace Sys2Proof.Machine

/-! ### Block reads of the copy -/

/-- A completed read leaves the reads in flight and reaches no more than the alarm unit (R13, R16). -/
theorem Part.besidesAlarms_complete (rest : List Flight) (err : Bool) (p : Part) :
    (p.complete rest err).besidesAlarms = Part.besidesAlarms { p with flights := rest } := by
  unfold Part.complete
  dsimp only
  split
  · exact Part.besidesAlarms_raiseEvent _ _
  · rfl

theorem Part.rings_of_alarms {p q : Part} (h : q.besidesAlarms = p.besidesAlarms) : q.rings = p.rings :=
  (congrArg Part.rings h :)

theorem Part.engine_of_alarms {p q : Part} (h : q.besidesAlarms = p.besidesAlarms) : q.engine = p.engine :=
  (congrArg Part.engine h :)

theorem Part.complete_rings (rest : List Flight) (err : Bool) (p : Part) : (p.complete rest err).rings = p.rings :=
  Part.rings_of_alarms (p := { p with flights := rest }) (Part.besidesAlarms_complete rest err p)

theorem Part.complete_ports (rest : List Flight) (err : Bool) (p : Part) : (p.complete rest err).ports = p.ports :=
  Part.ports_of_alarms (p := { p with flights := rest }) (Part.besidesAlarms_complete rest err p)

theorem Part.complete_headRecord (rest : List Flight) (err : Bool) (p : Part) (r : RingNo) :
    (p.complete rest err).headRecord r = p.headRecord r := by
  unfold Part.headRecord
  rw [Part.complete_rings]

/-- The bytes a good block read makes the copy write (R112). -/
def Part.copyBytes (p : Part) (c : Copy) (data : List Byte) : List Byte :=
  match p.headRecord c.ring with
  | some h => if c.block = 0 then stampHeader (ringSlot c.ring) h data else data
  | none => data

theorem Part.copyBlockRead_of_void {c : Copy} (h : c.void = true) (data : List Byte) (p : Part) :
    p.copyBlockRead c data = p.endCopy := if_pos h

theorem Part.copyBlockRead_of_not_void {c : Copy} (h : c.void = false) (data : List Byte) (p : Part) :
    p.copyBlockRead c data = p.modEngine fun e => { e with copy := some { c with due := .write (p.copyBytes c data) } } :=
  if_neg (ne_true_of_eq_false h)

theorem Part.besidesExchange_copyBlockRead (c : Copy) (data : List Byte) (p : Part) :
    (p.copyBlockRead c data).besidesExchange = p.besidesExchange := by
  cases void : c.void
  · rw [Part.copyBlockRead_of_not_void void, Part.besidesExchange_modEngine _ _ rfl]
  · rw [Part.copyBlockRead_of_void void, Part.besidesExchange_endCopy]

/-- What a failed block read does with its destination: discarded MEMORY, unless the copy was void (R99, R114). -/
theorem Part.copyReadError_cases (c : Copy) (p : Part) :
    (p.copyReadError c = p.endCopy ∧ (c.void = true ∨ p.headRecord c.ring = none))
      ∨ ∃ h, c.void = false ∧ p.headRecord c.ring = some h
        ∧ p.copyReadError c = p.endCopy.keepDests c.ring h .memory (· != c.dest) := by
  unfold Part.copyReadError
  dsimp only
  split
  · next void => exact .inl ⟨rfl, .inl void⟩
  · next void =>
    split
    · next h head => exact .inr ⟨h, Bool.eq_false_iff.mpr void, head, rfl⟩
    · next head => exact .inl ⟨rfl, .inr head⟩

theorem Part.besidesExchange_copyReadError (c : Copy) (p : Part) :
    (p.copyReadError c).besidesExchange = p.besidesExchange := by
  rcases Part.copyReadError_cases c p with ⟨e, -⟩ | ⟨h, -, head, e⟩ <;> rw [e]
  · exact Part.besidesExchange_endCopy p
  · exact (Part.besidesExchange_keepDests (Part.egress_of_headRecord head) _ _ _ _).trans (Part.besidesExchange_endCopy p)

theorem Part.copyReadError_copy (c : Copy) (p : Part) : (p.copyReadError c).engine.copy = none := by
  rcases Part.copyReadError_cases c p with ⟨e, -⟩ | ⟨h, -, head, e⟩ <;> rw [e]
  · rfl
  · rcases Part.keepDests_copy c.ring h .memory (· != c.dest) p.endCopy with e | e <;> rw [e] <;> rfl

/-- The copies discarded MEMORY after a failed block read: one, for a copy that was not void (R99, R104, R114). -/
theorem Part.copyReadError_memory {c : Copy} {p : Part} {h : Head} (head : p.headRecord c.ring = some h)
    (nodup : h.dests.Nodup) (mem : c.dest ∈ h.dests) :
    (p.copyReadError c).ports[ringSlot c.ring].counters.memory
      = p.ports[ringSlot c.ring].counters.memory + (if c.void then 0 else 1) := by
  rcases Part.copyReadError_cases c p with ⟨e, void | none⟩ | ⟨y, void, head', e⟩
  · rw [e, void]
    exact (BitVec.add_zero _).symm
  · exact absurd (none.symm.trans head) nofun
  · obtain rfl : y = h := Option.some.inj (head'.symm.trans head)
    have one : y.dests.length - (y.dests.filter (· != c.dest)).length = 1 := by
      have erased := List.length_erase_of_mem mem
      rw [nodup.erase_eq_filter] at erased
      have positive := List.length_pos_of_mem mem
      omega
    rw [e, Part.keepDests_counters, if_pos rfl, one, void]
    rfl

theorem Part.copyReadDone_of_copy {p : Part} {c : Copy} {data : List Byte} {rest : List Flight}
    (copy : p.engine.copy = some c) (flights : p.flights = { purpose := .copy, data := data } :: rest) (err : Bool) :
    p.copyReadDone err = Part.settleExchange p.engine
      (if err then (p.complete rest err).copyReadError c else (p.complete rest err).copyBlockRead c data) := by
  unfold Part.copyReadDone
  rw [flights, copy]

theorem leBytes_one (v : Nat) : leBytes 1 v = [BitVec.ofNat 8 v] := rfl

theorem leBytes_two (v : Nat) : leBytes 2 v = [BitVec.ofNat 8 v, BitVec.ofNat 8 (v / 256)] := rfl

theorem leBytes_four (v : Nat) :
    leBytes 4 v = [BitVec.ofNat 8 v, BitVec.ofNat 8 (v / 2 ^ 8), BitVec.ofNat 8 (v / 2 ^ 16), BitVec.ofNat 8 (v / 2 ^ 24)] := by
  show [_, BitVec.ofNat 8 (v / 256), BitVec.ofNat 8 (v / 256 / 256), BitVec.ofNat 8 (v / 256 / 256 / 256)] = _
  rw [Nat.div_div_eq_div_mul, Nat.div_div_eq_div_mul] <;> rfl

/-- The two low bytes of a word as R194 stores them. -/
theorem leBytes_two_toNat (w : Word) : leBytes 2 w.toNat = [w.extractLsb' 0 8, w.extractLsb' 8 8] := by
  have low : BitVec.ofNat 8 w.toNat = w.extractLsb' 0 8 := by
    apply BitVec.eq_of_toNat_eq
    simp [BitVec.extractLsb'_toNat]
  have high : BitVec.ofNat 8 (w.toNat / 256) = w.extractLsb' 8 8 := by
    apply BitVec.eq_of_toNat_eq
    simp [BitVec.extractLsb'_toNat, Nat.shiftRight_eq_div_pow]
  rw [leBytes_two, low, high]

/-- The first 16 bytes of a written frame (Table 11-2). -/
theorem stampHeader_eq (n : Slot) (h : Head) (data : List Byte) :
    stampHeader n h data =
      [BitVec.ofNat 8 h.header.dest, BitVec.ofNat 8 h.header.tag, BitVec.ofNat 8 h.header.entries,
       BitVec.ofNat 8 h.header.gate, BitVec.ofNat 8 h.header.length, BitVec.ofNat 8 (h.header.length / 256),
       BitVec.ofNat 8 h.header.sequence, BitVec.ofNat 8 (h.header.sequence / 256), BitVec.ofNat 8 n.val,
       h.taken.epoch, h.taken.seconds.extractLsb' 0 8, h.taken.seconds.extractLsb' 8 8,
       BitVec.ofNat 8 h.taken.ns, BitVec.ofNat 8 (h.taken.ns / 2 ^ 8), BitVec.ofNat 8 (h.taken.ns / 2 ^ 16),
       BitVec.ofNat 8 (h.taken.ns / 2 ^ 24)] ++ data.drop 16 := by
  unfold stampHeader
  rw [leBytes_two_toNat, leBytes_four]
  simp only [leBytes_one, leBytes_two, List.cons_append, List.nil_append]

/-- Settles O40: what each completion makes of the copy, and what the end of the event keeps of it. -/
theorem copyReadBecomesAWrite : Obligations.CopyReadBecomesAWrite := by
  unfold Obligations.CopyReadBecomesAWrite
  intro s c data rest running copy flights done n
  constructor
  · have event : s.part.after (.copyReadComplete false)
        = ((s.part.complete rest false).copyBlockRead c data).settleExchange s.part.engine := by
      rw [Part.after_copyReadComplete, Part.whileRunning_of_running running, Part.copyReadDone_of_copy copy flights]
      exact congrArg _ (if_neg Bool.false_ne_true)
    obtain ⟨t, run, memory, settles⟩ := exec_settles event nofun
    refine ⟨t, run, memory, ?_, ?_, fun void => ?_⟩
    · rw [settles.besidesExchange, Part.besidesExchange_copyBlockRead]
      rfl
    · intro h void head bytes
      have same : (s.part.complete rest false).copyBytes c data = bytes := by
        unfold Part.copyBytes
        rw [Part.complete_headRecord, head]
        dsimp only
        rw [stampHeader_eq]
      rw [Part.copyBlockRead_of_not_void void, same] at settles
      obtain ⟨k, some, ⟨ring, dest, pos, block, voids⟩, due⟩ :=
        settles.copying (c := { c with due := .write bytes }) nofun rfl
      exact ⟨k, some, ring, dest, pos, block, voids.trans void, due⟩
    · rw [Part.copyBlockRead_of_void void] at settles
      exact settles.fresh rfl
  · have event : s.part.after (.copyReadComplete true)
        = ((s.part.complete rest true).copyReadError c).settleExchange s.part.engine := by
      rw [Part.after_copyReadComplete, Part.whileRunning_of_running running, Part.copyReadDone_of_copy copy flights]
      exact congrArg _ (if_pos rfl)
    obtain ⟨t, run, memory, settles⟩ := exec_settles event nofun
    refine ⟨t, run, memory, ?_, settles.fresh (Part.copyReadError_copy c _), fun h head nodup mem => ?_⟩
    · rw [settles.besidesExchange, Part.besidesExchange_copyReadError]
      rfl
    · have counted : t.part.ports[n].counters.memory = _ := (congrArg Counters.memory (settles.counters n) :)
      rw [counted]
      refine (Part.copyReadError_memory ((Part.complete_headRecord _ _ _ _).trans head) nodup mem).trans ?_
      rw [Part.complete_ports]

/-! ### The hold limit -/

theorem Part.headless_retire (r : RingNo) (k : Nat) (p : Part) :
    (p.retire r k).Headless r (p.rings[r].consumer + BitVec.ofNat 16 k) := by
  unfold Part.Headless
  rw [Part.retire_ring_self]
  refine ⟨fun h take => ?_, rfl⟩
  unfold Ring.retired at take
  dsimp only at take
  split at take <;> cases take

/-- The end of the batch of ring `r`, where the batch is that ring's (R108). -/
def Part.endBatchOf (r : RingNo) (p : Part) : Part :=
  match p.engine.batch with
  | some b => if b.ring = r then p.endBatch b else p
  | none => p

theorem Part.besidesExchange_endBatchOf (r : RingNo) (p : Part) : (p.endBatchOf r).besidesExchange = p.besidesExchange := by
  unfold Part.endBatchOf
  split
  · split
    · exact Part.besidesExchange_endBatch _ _
    · rfl
  · rfl

theorem Part.endBatchOf_rings (r : RingNo) (p : Part) : (p.endBatchOf r).rings = p.rings := by
  unfold Part.endBatchOf
  split
  · split <;> rfl
  · rfl

theorem Part.endBatchOf_ports (r : RingNo) (p : Part) : (p.endBatchOf r).ports = p.ports := by
  unfold Part.endBatchOf
  split
  · split <;> rfl
  · rfl

theorem Part.noBatch_endBatchOf {r : RingNo} {b : Batch} {p : Part} (batch : p.engine.batch = some b) (ring : b.ring = r) :
    (p.endBatchOf r).NoBatch (modify p.engine.lastServed (ringClass r) fun _ => ringSlot r) := by
  unfold Part.endBatchOf
  rw [batch]
  dsimp only
  rw [if_pos ring, ← ring]
  exact ⟨rfl, rfl⟩

/-- An expired head loses every destination and is retired, and a batch of its ring ends (R108, R115). -/
theorem Part.expireHead_of_head {r : RingNo} {h : Head} {p : Part} (head : p.headRecord r = some h) (dests : h.dests ≠ []) :
    p.expireHead r
      = ((p.discard .holdExpired (ringSlot r) h.dests.length).retire r h.header.entries).endBatchOf r := by
  have gone : p.keepDests r h .holdExpired (fun _ => false)
      = (p.discard .holdExpired (ringSlot r) h.dests.length).retire r h.header.entries := by
    rcases Part.keepDests_cases r h .holdExpired (fun _ => false) p with ⟨all, -⟩ | ⟨k, -, -, count, e⟩ | ⟨k, some, -, -⟩
    · obtain ⟨d, mem⟩ := List.exists_mem_of_ne_nil _ dests
      cases all d mem
    · rw [e, count]
    · exact absurd (List.filter_eq_nil_iff.mpr fun _ _ => Bool.false_ne_true) some
  unfold Part.expireHead
  rw [head]
  dsimp only
  rw [gone]
  rfl

/-- Settles O41: the head loses every destination, and with them the frame; a batch of the ring has ended before service goes on. -/
theorem holdLimitDiscardsTheHead : Obligations.HoldLimitDiscardsTheHead := by
  unfold Obligations.HoldLimitDiscardsTheHead
  intro s n c h running due head dests r
  have event : s.part.after (.holdExpired n c)
      = (((s.part.discard .holdExpired (ringSlot r) h.dests.length).retire r h.header.entries).endBatchOf r).settleExchange
          s.part.engine := by
    rw [Part.after_holdExpired, Part.whenDue_of_due running due, Part.expireHead_of_head head dests]
  obtain ⟨t, run, memory, settles⟩ := exec_settles event nofun
  obtain ⟨none, consumer⟩ := settles.headless ((Part.headless_retire r h.header.entries
    (s.part.discard .holdExpired (ringSlot r) h.dests.length)).of_ring (by rw [Part.endBatchOf_rings]))
  refine ⟨t, run, memory, ?_, ?_, consumer, ?_, fun b batch ring => ?_⟩
  · rw [settles.besidesExchange, Part.besidesExchange_endBatchOf, Part.besidesExchange_retire (isEgress_egressRing n c),
      Part.besidesExchange_discard]
  · exact Part.Headless.headRecord ⟨none, consumer⟩
  · have counted : t.part.ports[n].counters.holdExpired = _ := (congrArg Counters.holdExpired (settles.counters n) :)
    rw [counted]
    show ((_ : Part).ports[n].counters).holdExpired = _
    rw [Part.endBatchOf_ports, Part.retire_ports, Part.discard_counters, if_pos (ringSlot_egressRing n c)]
    rfl
  · have retired : ((s.part.discard .holdExpired (ringSlot r) h.dests.length).retire r h.header.entries).engine.batch
        = some { b with count := b.count + 1 } := by
      show s.part.engine.batch.map (fun b => if b.ring = r then { b with count := b.count + 1 } else b) = _
      rw [batch]
      exact congrArg _ (if_pos ring)
    obtain ⟨ended, last⟩ := settles.noBatch (Part.noBatch_endBatchOf retired ring)
    refine ⟨ended, ?_⟩
    rw [last, show ringClass r = c from ringClass_egressRing n c, show ringSlot r = n from ringSlot_egressRing n c]
    exact getElem_modify_self _ _ _

end Sys2Proof.Machine
end


section
/-! PROOFS. Index words of the cards (R87, R88, R96, R97). -/
namespace Sys2Proof.Machine

/-! ### Rings within the exchange -/

/-- What stays within the exchange moves no more of a ring than its take state and the consumer index of an egress ring. -/
theorem Part.ring_of_exchange {p q : Part} (h : q.besidesExchange = p.besidesExchange) (r : RingNo) :
    q.rings[r].besidesTake r = p.rings[r].besidesTake r := by
  have rings : mapTable Ring.besidesTake q.rings = mapTable Ring.besidesTake p.rings := congrArg Part.rings h
  have entry : ∀ p : Part, (mapTable Ring.besidesTake p.rings)[r] = p.rings[r].besidesTake r := fun p =>
    getElem_mapTable _ _ _ _
  rw [← entry, ← entry, rings]

theorem Part.producer_of_exchange {p q : Part} (h : q.besidesExchange = p.besidesExchange) (r : RingNo) :
    q.rings[r].producer = p.rings[r].producer :=
  (congrArg Ring.producer (Part.ring_of_exchange h r) :)

theorem Part.high_of_exchange {p q : Part} (h : q.besidesExchange = p.besidesExchange) (r : RingNo) :
    q.rings[r].high = p.rings[r].high :=
  (congrArg Ring.high (Part.ring_of_exchange h r) :)

theorem Part.consumer_of_exchange {p q : Part} (h : q.besidesExchange = p.besidesExchange) {r : RingNo}
    (ingress : isEgress r = false) : q.rings[r].consumer = p.rings[r].consumer := by
  have e : (if isEgress r then 0 else q.rings[r].consumer) = if isEgress r then 0 else p.rings[r].consumer :=
    (congrArg Ring.consumer (Part.ring_of_exchange h r) :)
  rw [ingress] at e
  exact e

theorem RingPlan.present_iff {x : RingPlan} : x.present = true ↔ x.count ≠ 0 := bne_iff_ne

theorem RingPlan.absent_iff {x : RingPlan} : x.present = false ↔ x.count = 0 := by
  unfold RingPlan.present
  simp

/-! ### Producer words (R87, R88) -/

theorem Part.judgeProducer_of_absent {r : RingNo} {p : Part} (h : p.plan.rings[r].count = 0) (v : BitVec 16) :
    p.judgeProducer r v = p := by
  unfold Part.judgeProducer
  rw [RingPlan.absent_iff.mpr h]
  rfl

theorem Part.judgeProducer_of_sound {r : RingNo} {v : BitVec 16} {p : Part} (h : p.plan.rings[r].count ≠ 0)
    (sound : p.producerSound r v = true) : p.judgeProducer r v = (p.takeProducer r v).settleExchange p.engine := by
  unfold Part.judgeProducer
  rw [RingPlan.present_iff.mpr h, if_neg (by decide), if_pos sound]

theorem Part.judgeProducer_of_fault {r : RingNo} {v : BitVec 16} {p : Part} (h : p.plan.rings[r].count ≠ 0)
    (fault : p.producerSound r v = false) : p.judgeProducer r v = p.ringFault (ringSlot r) := by
  unfold Part.judgeProducer
  rw [RingPlan.present_iff.mpr h, if_neg (by decide), if_neg (ne_true_of_eq_false fault)]

theorem Part.producerSound_iff {p : Part} {r : RingNo} {v : BitVec 16} :
    p.producerSound r v = true ↔ (v - p.rings[r].consumer).toNat ≤ p.plan.rings[r].count
      ∧ p.rings[r].take.keeps ≤ (v - p.rings[r].consumer).toNat := by
  unfold Part.producerSound
  rw [Bool.and_eq_true, decide_eq_true_iff, decide_eq_true_iff]

/-- What taking a producer value can do to the take state: list the ring, idle it, or leave it (R87). -/
theorem Part.takeProducer_cases (r : RingNo) (v : BitVec 16) (p : Part) :
    (((p.rings[r].take = .idle ∨ p.rings[r].take = .waiting) ∧ v ≠ p.rings[r].producer ∧ v ≠ p.rings[r].consumer
        ∧ p.admitted (ringSlot r) = true)
      ∧ p.takeProducer r v = (p.modRing r fun x => { x with producer := v }).setTake r .listed)
    ∨ (((p.rings[r].take = .listed ∨ p.rings[r].take = .waiting) ∧ v = p.rings[r].consumer)
      ∧ p.takeProducer r v = (p.modRing r fun x => { x with producer := v }).setTake r .idle)
    ∨ (¬((p.rings[r].take = .idle ∨ p.rings[r].take = .waiting) ∧ v ≠ p.rings[r].producer ∧ v ≠ p.rings[r].consumer
        ∧ p.admitted (ringSlot r) = true)
      ∧ ¬((p.rings[r].take = .listed ∨ p.rings[r].take = .waiting) ∧ v = p.rings[r].consumer)
      ∧ p.takeProducer r v = p.modRing r fun x => { x with producer := v }) := by
  unfold Part.takeProducer
  dsimp only
  split
  · next h => exact .inl ⟨h, rfl⟩
  · next h =>
    split
    · next h' => exact .inr (.inl ⟨h', rfl⟩)
    · next h' => exact .inr (.inr ⟨h, h', rfl⟩)

theorem Part.besidesExchange_takeProducer (r : RingNo) (v : BitVec 16) (p : Part) :
    (p.takeProducer r v).besidesExchange = (p.modRing r fun x => { x with producer := v }).besidesExchange := by
  rcases p.takeProducer_cases r v with ⟨-, e⟩ | ⟨-, e⟩ | ⟨-, -, e⟩ <;> rw [e]
  · exact Part.besidesExchange_setTake _ _ _
  · exact Part.besidesExchange_setTake _ _ _

/-- A ring off the take list. -/
theorem Part.not_mem_takeList_setTake {r : RingNo} {t : Take} (h : t ≠ .listed) (p : Part) :
    r ∉ (p.setTake r t).engine.takeList := fun mem => h ((Part.mem_takeList_setTake_self r t p).mp mem)

/-! ### Consumer words (R96, R97) -/

theorem Part.judgeConsumer_of_absent {r : RingNo} {p : Part} (h : p.plan.rings[r].count = 0) (v : BitVec 16) :
    p.judgeConsumer r v = p := by
  unfold Part.judgeConsumer
  rw [RingPlan.absent_iff.mpr h]
  rfl

theorem Part.judgeConsumer_of_sound {r : RingNo} {v : BitVec 16} {p : Part} (h : p.plan.rings[r].count ≠ 0)
    (sound : (p.rings[r].producer - v).toNat ≤ p.rings[r].occupancy) :
    p.judgeConsumer r v = (((p.modRing r fun x => { x with consumer := v }).reviewHigh r).settleExchange p.engine).report
      [slotPoint (ringSlot r) 3] := by
  unfold Part.judgeConsumer
  rw [RingPlan.present_iff.mpr h, if_neg (by decide), if_pos (show p.consumerSound r v = true from decide_eq_true sound)]

theorem Part.judgeConsumer_of_fault {r : RingNo} {v : BitVec 16} {p : Part} (h : p.plan.rings[r].count ≠ 0)
    (fault : p.rings[r].occupancy < (p.rings[r].producer - v).toNat) : p.judgeConsumer r v = p.ringFault (ringSlot r) := by
  unfold Part.judgeConsumer
  rw [RingPlan.present_iff.mpr h, if_neg (by decide), if_neg]
  exact fun sound => absurd (of_decide_eq_true sound) (by omega)

/-- The review of an ingress ring's high flag (R97). -/
theorem Part.reviewHigh_of_ingress {r : RingNo} (h : isEgress r = false) (p : Part) :
    p.reviewHigh r = p.modRing r fun x =>
      { x with high := p.plan.rings[r].present && highFlag p.plan.rings[r] x.occupancy x.high } :=
  if_neg (ne_true_of_eq_false h)

theorem Part.modRing_modRing (r : RingNo) (f g : Ring → Ring) (p : Part) :
    (p.modRing r f).modRing r g = p.modRing r fun x => g (f x) := by
  unfold Part.modRing modify
  simp

theorem Part.modRing_congr {r : RingNo} {f g : Ring → Ring} {p : Part} (h : f p.rings[r] = g p.rings[r]) :
    p.modRing r f = p.modRing r g := by
  unfold Part.modRing modify
  rw [h]

/-- Settles O34. -/
theorem cardIndexWordsAreJudged : Obligations.CardIndexWordsAreJudged := by
  unfold Obligations.CardIndexWordsAreJudged
  refine ⟨?_, ?_⟩
  · intro s n c v running r x low posted kept q
    have judged : s.part.after (.egressProducer n c v) = q.judgeProducer r low := by
      rw [Part.after_egressProducer, Part.whileRunning_of_running running]
      rfl
    have keeps : kept = q.rings[r].take.keeps := rfl
    refine ⟨fun absent => ?_, fun present fits keeps' => ?_, fun present fault => ?_⟩
    · rw [exec_eq_after (c := .egressProducer n c v) nofun]
      refine congrArg _ (State.modPart_congr ?_)
      rw [judged, Part.judgeProducer_of_absent (p := q) absent]
    · have event : s.part.after (.egressProducer n c v) = (q.takeProducer r low).settleExchange q.engine := by
        rw [judged, Part.judgeProducer_of_sound (p := q) present (Part.producerSound_iff.mpr ⟨fits, keeps ▸ keeps'⟩)]
      obtain ⟨t, run, memory, settles⟩ := exec_settles event nofun
      have moved := Part.modRing_self r (fun y : Ring => { y with producer := low }) q
      have view := settles.besidesExchange.trans (Part.besidesExchange_takeProducer r low q)
      refine ⟨t, run, memory, ?_, fun waits new posts admitted => ?_, fun waits none => ?_, view⟩
      · rw [Part.producer_of_exchange view, moved]
      · rcases q.takeProducer_cases r low with ⟨-, e⟩ | ⟨⟨-, empty⟩, -⟩ | ⟨not, -, -⟩
        · rw [e] at settles
          exact (settles.listed (r := r) ⟨.inl (congrArg Ring.take (Part.setTake_ring_self r .listed _)), rfl⟩).1
        · exact absurd empty posts
        · refine absurd ⟨waits, new, posts, ?_⟩ not
          rw [show ringSlot r = n from ringSlot_egressRing n c]
          exact beq_iff_eq.mpr admitted
      · rcases q.takeProducer_cases r low with ⟨⟨-, -, posts, -⟩, -⟩ | ⟨-, e⟩ | ⟨-, not, -⟩
        · exact absurd none posts
        · rw [e] at settles
          exact (settles.resting (r := r) (t := .idle) nofun
            ⟨congrArg Ring.take (Part.setTake_ring_self r .idle _), rfl, Part.not_mem_takeList_setTake (t := .idle) nofun _⟩).1
        · exact absurd ⟨waits, none⟩ not
    · rw [exec_eq_after (c := .egressProducer n c v) nofun]
      refine congrArg _ (State.modPart_congr ?_)
      have unsound : q.producerSound r low = false := Bool.eq_false_iff.mpr fun sound =>
        fault (keeps ▸ Part.producerSound_iff.mp sound)
      rw [judged, Part.judgeProducer_of_fault (p := q) present unsound, show ringSlot r = n from ringSlot_egressRing n c]
      rfl
  · intro s n c v running r x plan low left q freed
    have judged : s.part.after (.ingressConsumer n c v) = q.judgeConsumer r low := by
      rw [Part.after_ingressConsumer, Part.whileRunning_of_running running]
      rfl
    have ingress : isEgress r = false := isEgress_ingressRing n c
    refine ⟨fun absent => ?_, fun present sound => ?_, fun present fault => ?_⟩
    · rw [exec_eq_after (c := .ingressConsumer n c v) nofun]
      refine congrArg _ (State.modPart_congr ?_)
      rw [judged, Part.judgeConsumer_of_absent (p := q) absent]
    · have reviewed : (q.modRing r fun y => { y with consumer := low }).reviewHigh r = q.modRing r fun _ => freed := by
        rw [Part.reviewHigh_of_ingress ingress, Part.modRing_modRing]
        refine Part.modRing_congr ?_
        show ({ x with consumer := low, high := plan.present && highFlag plan left x.high } : Ring) = freed
        rw [RingPlan.present_iff.mpr present, Bool.true_and]
        rfl
      have event : s.part.after (.ingressConsumer n c v)
          = ((q.modRing r fun _ => freed).settleExchange q.engine).report [slotPoint n 3] := by
        rw [judged, Part.judgeConsumer_of_sound (p := q) present sound, reviewed,
          show ringSlot r = n from ringSlot_ingressRing n c]
      have view := Part.besidesExchange_settleExchange q.engine (q.modRing r fun _ => freed)
      have rings := Part.rings_of_alarms (Part.besidesAlarms_report [slotPoint n 3] ((q.modRing r fun _ => freed).settleExchange q.engine))
      have moved : (q.modRing r fun _ => freed).rings[r] = freed := Part.modRing_self r _ q
      rw [← event] at rings
      refine ⟨_, exec_eq_after (c := .ingressConsumer n c v) nofun s, rfl, ?_, ?_, ?_, fun i ne => ?_, ?_⟩ <;>
        rw [State.modPart_part]
      · rw [rings, Part.consumer_of_exchange view ingress, moved]
      · rw [rings, Part.producer_of_exchange view, moved]
      · rw [rings, Part.high_of_exchange view, moved]
      · rw [event]
        refine (Part.report_point_ne (by simpa using ne) _).trans ?_
        rw [Part.alarm_of_exchange view]
        rfl
      · rw [event, Part.besidesExchange_besidesAlarms, Part.besidesAlarms_report, ← Part.besidesExchange_besidesAlarms, view]
    · rw [exec_eq_after (c := .ingressConsumer n c v) nofun]
      refine congrArg _ (State.modPart_congr ?_)
      rw [judged, Part.judgeConsumer_of_fault (p := q) present fault, show ringSlot r = n from ringSlot_ingressRing n c]
      rfl

end Sys2Proof.Machine
end


section
/-! PROOFS. Settlement (R66, R68, R71): what it makes of a slot's egress rings and counters, and what the rest of its event keeps of
them. -/
namespace Sys2Proof.Machine

/-! ### A loop over things each of which one round changes -/

/-- A loop whose round `i` brings `After i` about from `Before i`, while the other rounds leave both alone. -/
theorem forEach_each {σ : Type} {n : Nat} {f : Fin n → σ → σ} {Before After : Fin n → σ → Prop}
    (self : ∀ i s, Before i s → After i (f i s)) (before : ∀ i j s, i ≠ j → Before j s → Before j (f i s))
    (after : ∀ i j s, i ≠ j → After j s → After j (f i s)) {s : σ} (h : ∀ i, Before i s) (j : Fin n) :
    After j (forEach n f s) := by
  have loop : ∀ (l : List (Fin n)) (s : σ), l.Nodup → (∀ i ∈ l, Before i s) → (j ∉ l → After j s) →
      After j (l.foldl (fun s i => f i s) s) := by
    intro l
    induction l with
    | nil => exact fun s _ _ done => done List.not_mem_nil
    | cons i l ih =>
      intro s nodup due done
      obtain ⟨fresh, nodup⟩ := List.nodup_cons.mp nodup
      refine ih _ nodup (fun k mem => before i k s (fun e => fresh (e ▸ mem)) (due k (List.mem_cons_of_mem _ mem))) fun out => ?_
      by_cases e : i = j
      · subst e
        exact self i s (due i List.mem_cons_self)
      · exact after i j s e (done fun mem => (List.mem_cons.mp mem).elim (fun x => e x.symm) out)
  exact loop _ s (List.nodup_finRange n) (fun i _ => h i) fun out => absurd (List.mem_finRange j) out

/-! ### Dropped heads (R66, R99, R100) -/

/-- How many destinations the head of ring `r` still has. -/
def Part.heldAt (p : Part) (r : RingNo) : Nat :=
  match p.headRecord r with
  | some h => h.dests.length
  | none => 0

theorem Part.heldDests_eq (p : Part) (n : Slot) :
    p.heldDests n = ((List.finRange 4).map fun c => p.heldAt (egressRing n c)).sum := rfl

theorem Part.dropHead_of_none {r : RingNo} {p : Part} (h : p.headRecord r = none) (why : Discard) : p.dropHead r why = p := by
  unfold Part.dropHead
  rw [h]

theorem Part.dropHead_of_some {r : RingNo} {h : Head} {p : Part} (head : p.headRecord r = some h) (why : Discard) :
    p.dropHead r why = ((p.discard why (ringSlot r) h.dests.length).orphanCopy r).setTake r .idle := by
  unfold Part.dropHead
  rw [head]

theorem Part.dropHead_ring_ne {r q : RingNo} (ne : r ≠ q) (why : Discard) (p : Part) :
    (p.dropHead r why).rings[q] = p.rings[q] := by
  cases head : p.headRecord r with
  | none => rw [Part.dropHead_of_none head]
  | some h =>
    rw [Part.dropHead_of_some head, Part.setTake_ring_ne ne]
    rfl

/-- A dropped head leaves its ring's indices and high flag (R99). -/
theorem Part.dropHead_ring_self (r : RingNo) (why : Discard) (p : Part) :
    ∃ t, (p.dropHead r why).rings[r] = { p.rings[r] with take := t } := by
  cases head : p.headRecord r with
  | none => exact ⟨p.rings[r].take, by rw [Part.dropHead_of_none head]⟩
  | some h =>
    rw [Part.dropHead_of_some head, Part.setTake_ring_self]
    exact ⟨.idle, rfl⟩

theorem Part.dropHead_headRecord (r : RingNo) (why : Discard) (p : Part) : (p.dropHead r why).headRecord r = none := by
  cases head : p.headRecord r with
  | none => rwa [Part.dropHead_of_none head]
  | some h =>
    rw [Part.dropHead_of_some head, Option.eq_none_iff_forall_ne_some]
    intro y some
    have take := (Part.headRecord_eq_some.mp some).2
    rw [Part.setTake_ring_self] at take
    cases take

theorem Part.dropHead_counters (r : RingNo) (why : Discard) (p : Part) (m : Slot) :
    (p.dropHead r why).ports[m].counters
      = if ringSlot r = m then p.ports[m].counters.discard why (BitVec.ofNat 32 (p.heldAt r)) else p.ports[m].counters := by
  unfold Part.heldAt
  cases head : p.headRecord r with
  | none =>
    rw [Part.dropHead_of_none head]
    dsimp only
    rw [Counters.discard_zero, ite_self]
  | some h =>
    rw [Part.dropHead_of_some head]
    exact Part.discard_counters why (ringSlot r) m h.dests.length p

theorem Part.dropHead_plan (r : RingNo) (why : Discard) (p : Part) : (p.dropHead r why).plan = p.plan :=
  Part.plan_of_exchange (Part.besidesExchange_dropHead r why p)

theorem egressRing_injective {n : Slot} {c d : Cls} (h : egressRing n c = egressRing n d) : c = d := by
  rw [← ringClass_egressRing n c, h, ringClass_egressRing]

/-! ### Settlement of a slot (R66) -/

/-- Every head of the slot's egress rings is dropped (R66). -/
def Part.dropHeads (n : Slot) (p : Part) : Part := forEach 4 (fun c q => q.dropHead (egressRing n c) .sourceDown) p

/-- Every posted frame of an egress ring is abandoned (R66). -/
def Part.abandonPosted (r : RingNo) (p : Part) : Part :=
  if p.plan.rings[r].present && p.rings[r].producer != p.rings[r].consumer then
    (p.modRing r fun x => { x with consumer := x.producer }).writeIndex r p.rings[r].producer
  else p

/-- Every posted frame of the slot is abandoned (R66). -/
def Part.abandonAll (n : Slot) (p : Part) : Part := forEach 4 (fun c q => q.abandonPosted (egressRing n c)) p

theorem Part.settleSlot_eq (n : Slot) (p : Part) :
    p.settleSlot n = ((p.dropHeads n).abandonAll n).modPort n fun x => { x with settlementOwed := false } := rfl

theorem Part.besidesExchange_dropHeads (n : Slot) (p : Part) : (p.dropHeads n).besidesExchange = p.besidesExchange :=
  forEach_keeps Part.besidesExchange 4 _ (fun _ _ => Part.besidesExchange_dropHead _ _ _) p

theorem Part.besidesExchange_abandonPosted {r : RingNo} (e : isEgress r = true) (p : Part) :
    (p.abandonPosted r).besidesExchange = p.besidesExchange := by
  unfold Part.abandonPosted
  split
  · rw [Part.besidesExchange_writeIndex]
    exact Part.besidesExchange_modRing _ _ _ (by simp [Ring.besidesTake, e])
  · rfl

theorem Part.abandonPosted_ring_ne {r q : RingNo} (ne : r ≠ q) (p : Part) : (p.abandonPosted r).rings[q] = p.rings[q] := by
  unfold Part.abandonPosted
  split
  · exact Part.modRing_ne ne _ p
  · rfl

theorem Part.abandonPosted_ports (r : RingNo) (p : Part) : (p.abandonPosted r).ports = p.ports := by
  unfold Part.abandonPosted
  split <;> rfl

/-- An abandoned ring that is present is empty where its producer stands; its take state stays (R66). -/
theorem Part.abandonPosted_ring_self (r : RingNo) (p : Part) :
    ∃ c, (p.abandonPosted r).rings[r] = { p.rings[r] with consumer := c }
      ∧ (p.plan.rings[r].present = true → c = p.rings[r].producer) := by
  unfold Part.abandonPosted
  split
  · exact ⟨_, Part.modRing_self r _ p, fun _ => rfl⟩
  · next h =>
    refine ⟨_, rfl, fun present => ?_⟩
    rw [present, Bool.true_and, bne_iff_ne, Classical.not_not] at h
    exact h.symm

/-- After the heads of a slot are dropped, none of its egress rings has one, and their indices stand where they stood. -/
theorem Part.dropHeads_ring (n : Slot) (p : Part) (c : Cls) :
    (p.dropHeads n).headRecord (egressRing n c) = none
      ∧ (p.dropHeads n).rings[egressRing n c].producer = p.rings[egressRing n c].producer := by
  refine forEach_each (Before := fun c (q : Part) => q.rings[egressRing n c].producer = p.rings[egressRing n c].producer)
    (After := fun c (q : Part) => q.headRecord (egressRing n c) = none
      ∧ q.rings[egressRing n c].producer = p.rings[egressRing n c].producer)
    (fun i q h => ?_) (fun i j q ne h => ?_) (fun i j q ne h => ?_) (fun _ => rfl) c
  · obtain ⟨t, e⟩ := q.dropHead_ring_self (egressRing n i) .sourceDown
    exact ⟨Part.dropHead_headRecord _ _ _, by rw [e]; exact h⟩
  · rw [Part.dropHead_ring_ne fun e => ne (egressRing_injective e)]
    exact h
  · have same := Part.dropHead_ring_ne (fun e => ne (egressRing_injective e) : egressRing n i ≠ egressRing n j) .sourceDown q
    rw [same, Part.headRecord_congr (congrArg Ring.take same)]
    exact h

/-- The counters of a slot after the heads of its egress rings are dropped (R66, R104). -/
theorem Part.dropHeads_counters (n : Slot) (p : Part) :
    (p.dropHeads n).ports[n].counters
      = p.ports[n].counters.discard .sourceDown (BitVec.ofNat 32 (p.heldDests n)) := by
  have add : ∀ (c : Counters) (a b : Nat), (c.discard .sourceDown (BitVec.ofNat 32 a)).discard .sourceDown (BitVec.ofNat 32 b)
      = c.discard .sourceDown (BitVec.ofNat 32 (a + b)) := by
    intro c a b
    simp only [Counters.discard, BitVec.ofNat_add, BitVec.add_assoc]
  have loop : ∀ (l : List Cls) (q : Part), l.Nodup → (∀ c ∈ l, q.heldAt (egressRing n c) = p.heldAt (egressRing n c)) →
      (l.foldl (fun q c => q.dropHead (egressRing n c) .sourceDown) q).ports[n].counters
        = q.ports[n].counters.discard .sourceDown (BitVec.ofNat 32 ((l.map fun c => p.heldAt (egressRing n c)).sum)) := by
    intro l
    induction l with
    | nil => exact fun q _ _ => (Counters.discard_zero _ _).symm
    | cons c l ih =>
      intro q nodup held
      obtain ⟨fresh, nodup⟩ := List.nodup_cons.mp nodup
      rw [List.foldl_cons, ih _ nodup, Part.dropHead_counters, if_pos (ringSlot_egressRing n c),
        held c List.mem_cons_self, add, List.map_cons, List.sum_cons]
      intro d mem
      have ne : egressRing n c ≠ egressRing n d := fun e => fresh (egressRing_injective e ▸ mem)
      rw [← held d (List.mem_cons_of_mem _ mem)]
      unfold Part.heldAt
      rw [Part.headRecord_congr (congrArg Ring.take (Part.dropHead_ring_ne ne _ q))]
  rw [Part.heldDests_eq]
  exact loop _ p (List.nodup_finRange 4) fun _ _ => rfl

/-- After settlement the slot's egress rings have no head, and those that are present are empty (R66). -/
theorem Part.settleSlot_ring (n : Slot) (p : Part) (c : Cls) :
    (p.settleSlot n).headRecord (egressRing n c) = none
      ∧ (p.plan.rings[egressRing n c].count ≠ 0 →
          (p.settleSlot n).rings[egressRing n c].consumer = p.rings[egressRing n c].producer) := by
  have loop : ((p.dropHeads n).abandonAll n).headRecord (egressRing n c) = none
      ∧ (p.plan.rings[egressRing n c].count ≠ 0 →
        ((p.dropHeads n).abandonAll n).rings[egressRing n c].consumer
          = p.rings[egressRing n c].producer) := by
    unfold Part.abandonAll
    refine forEach_each
      (Before := fun c (q : Part) => q.plan = p.plan ∧ q.headRecord (egressRing n c) = none
        ∧ q.rings[egressRing n c].producer = p.rings[egressRing n c].producer)
      (After := fun c (q : Part) => q.headRecord (egressRing n c) = none ∧ (p.plan.rings[egressRing n c].count ≠ 0 →
        q.rings[egressRing n c].consumer = p.rings[egressRing n c].producer))
      (fun i q h => ?_) (fun i j q ne h => ?_) (fun i j q ne h => ?_)
      (fun c => ⟨Part.plan_of_exchange (Part.besidesExchange_dropHeads n p), p.dropHeads_ring n c⟩) c
    · obtain ⟨plan, none, producer⟩ := h
      obtain ⟨k, e, empty⟩ := q.abandonPosted_ring_self (egressRing n i)
      refine ⟨by rw [Part.headRecord_congr (p := q) (by rw [e])]; exact none, fun present => ?_⟩
      rw [e, ← producer]
      exact empty (by rw [plan]; exact RingPlan.present_iff.mpr present)
    · obtain ⟨plan, none, producer⟩ := h
      have same := Part.abandonPosted_ring_ne (fun e => ne (egressRing_injective e) : egressRing n i ≠ egressRing n j) q
      refine ⟨(Part.plan_of_exchange (Part.besidesExchange_abandonPosted (isEgress_egressRing n i) q)).trans plan, ?_, ?_⟩
      · rwa [Part.headRecord_congr (congrArg Ring.take same)]
      · rwa [same]
    · have same := Part.abandonPosted_ring_ne (fun e => ne (egressRing_injective e) : egressRing n i ≠ egressRing n j) q
      rw [same, Part.headRecord_congr (congrArg Ring.take same)]
      exact h
  rw [Part.settleSlot_eq]
  exact ⟨(Part.headRecord_congr (p := (p.dropHeads n).abandonAll n) (by rw [Part.modPort_rings])).trans loop.1,
    by rw [Part.modPort_rings]; exact loop.2⟩

theorem Part.settleSlot_ports (n : Slot) (p : Part) :
    ((p.dropHeads n).abandonAll n).ports = (p.dropHeads n).ports :=
  forEach_keeps Part.ports 4 _ (fun _ _ => Part.abandonPosted_ports _ _) _

/-- A slot port after its settlement (R66). -/
def Port.settled (x : Port) (held : Nat) : Port :=
  { x with settlementOwed := false, counters := x.counters.discard .sourceDown (BitVec.ofNat 32 held) }

theorem Part.settleSlot_port (n : Slot) (p : Part) : (p.settleSlot n).ports[n] = p.ports[n].settled (p.heldDests n) := by
  have besides : (p.dropHeads n).ports[n].besidesCounters = p.ports[n].besidesCounters :=
    Part.port_of_exchange (Part.besidesExchange_dropHeads n p) n
  have counters := p.dropHeads_counters n
  rw [Part.settleSlot_eq, Part.modPort_self, Part.settleSlot_ports]
  show ({ { (p.dropHeads n).ports[n].besidesCounters with counters := (p.dropHeads n).ports[n].counters } with
    settlementOwed := false } : Port) = _
  rw [besides, counters]
  rfl

/-- The part before a settlement's last change, which is to the port (R66). -/
theorem Part.besidesExchange_abandonAll (n : Slot) (p : Part) :
    ((p.dropHeads n).abandonAll n).besidesExchange = p.besidesExchange :=
  (forEach_keeps Part.besidesExchange 4 _ (fun c q => Part.besidesExchange_abandonPosted (isEgress_egressRing n c) q) _).trans
    (Part.besidesExchange_dropHeads n p)

theorem Part.settleSlot_flights (n : Slot) (p : Part) : (p.settleSlot n).flights = p.flights := by
  rw [Part.settleSlot_eq, Part.modPort_flights, Part.flights_of_exchange (Part.besidesExchange_abandonAll n p)]

theorem Part.settleSlot_plan (n : Slot) (p : Part) : (p.settleSlot n).plan = p.plan := by
  rw [Part.settleSlot_eq, Part.modPort_plan, Part.plan_of_exchange (Part.besidesExchange_abandonAll n p)]

theorem Part.settleSlot_status (n : Slot) (p : Part) : (p.settleSlot n).status = p.status := by
  rw [Part.settleSlot_eq, Part.modPort_status, Part.status_of_exchange (Part.besidesExchange_abandonAll n p)]

theorem Part.modPort_now (n : Slot) (f : Port → Port) (p : Part) : (p.modPort n f).now = p.now := by
  unfold Part.now
  rw [Part.modPort_osc]

theorem Part.settleSlot_now (n : Slot) (p : Part) : (p.settleSlot n).now = p.now := by
  rw [Part.settleSlot_eq, Part.modPort_now, Part.now_of_exchange (Part.besidesExchange_abandonAll n p)]

end Sys2Proof.Machine
end


section
/-! PROOFS. What slot events do to the rings: `Part.Idling` is a change that idles a ring without a head or leaves the exchange
alone, and `Part.Ends` any run of these and of the changes of the end of an event (R65, R101). Then settlement and the end of
REMOVING (R66, R68, R71). -/
namespace Sys2Proof.Machine

/-- A change that makes a ring without a head IDLE, or leaves rings, engine and plan alone. -/
inductive Part.Idling : Part → Part → Prop
  | idle {p : Part} {r : RingNo} (bare : ∀ h, p.rings[r].take ≠ .head h) : Idling p (p.setTake r .idle)
  | same {p q : Part} (rings : q.rings = p.rings) (engine : q.engine = p.engine) (plan : q.plan = p.plan) : Idling p q

/-- A run of such changes. -/
def Part.Idles : Part → Part → Prop := Run Part.Idling

theorem Part.Idles.refl (p : Part) : p.Idles p := Run.refl

theorem Part.Idles.same {p q : Part} (rings : q.rings = p.rings) (engine : q.engine = p.engine) (plan : q.plan = p.plan) :
    p.Idles q := Run.single (.same rings engine plan)

theorem Part.Idles.trans {p q r : Part} (h : p.Idles q) (h' : q.Idles r) : p.Idles r := Run.trans h h'

theorem Part.idles_modPort (n : Slot) (f : Port → Port) (p : Part) : p.Idles (p.modPort n f) := .same rfl rfl rfl

theorem Part.idles_mark (k : RecordNo) (p : Part) : p.Idles (p.mark k) := .same rfl rfl rfl

theorem Part.idles_of_alarms {p q : Part} (h : q.besidesAlarms = p.besidesAlarms) : p.Idles q :=
  .same (Part.rings_of_alarms h) (Part.engine_of_alarms h) (congrArg Part.plan h :)

theorem Part.idles_idleRings (n : Slot) (p : Part) : p.Idles (p.idleRings n) := by
  refine forEach_invariant p.Idles 4 _ (fun c q h => ?_) p (.refl p)
  refine h.trans ?_
  split
  all_goals first
    | next e => exact Run.single (.idle fun y take => absurd (e.symm.trans take) nofun)
    | exact .refl q

theorem Part.idles_setState (n : Slot) (st : SlotState) (p : Part) : p.Idles (p.setState n st) := by
  have changed : p.Idles ((p.modPort n fun x => { x with state := st }).mark (slotRecordNo n)) :=
    (p.idles_modPort n _).trans (Part.idles_mark _ _)
  unfold Part.setState
  dsimp only
  split
  · exact changed.trans ((Part.idles_modPort n _ _).trans (Part.idles_idleRings n _))
  · exact changed

theorem Part.idles_enterEmpty (n : Slot) (p : Part) : p.Idles (p.enterEmpty n) :=
  (p.idles_setState n _).trans (Part.idles_modPort n _ _)

theorem Part.idles_enterTraining (n : Slot) (p : Part) : p.Idles (p.enterTraining n) :=
  (p.idles_setState n _).trans (Part.idles_modPort n _ _)

theorem Part.idles_enterPowering (n : Slot) (p : Part) : p.Idles (p.enterPowering n) := by
  unfold Part.enterPowering
  dsimp only
  split
  · exact ((p.idles_setState n _).trans (Part.idles_modPort n _ _)).trans (Part.idles_enterTraining n _)
  · exact (p.idles_setState n _).trans (Part.idles_modPort n _ _)

theorem Part.idles_enterStandby (n : Slot) (p : Part) : p.Idles (p.enterStandby n) := by
  unfold Part.enterStandby
  dsimp only
  split
  · exact ((p.idles_setState n _).trans (Part.idles_modPort n _ _)).trans (Part.idles_enterPowering n _)
  · exact (p.idles_setState n _).trans (Part.idles_modPort n _ _)

theorem Part.idles_cancelCheck (n : Slot) (p : Part) : p.Idles (p.cancelCheck n) := .same rfl rfl rfl

theorem Part.idles_refuseRequests (n : Slot) (p : Part) : p.Idles (p.refuseRequests n) := .same rfl rfl rfl

theorem Part.idles_dropRequests (n : Slot) (p : Part) : p.Idles (p.dropRequests n) := .same rfl rfl rfl

theorem Part.idles_enterFenced (n : Slot) (why : FenceReason) (off : Bool) (p : Part) : p.Idles (p.enterFenced n why off) := by
  unfold Part.enterFenced
  dsimp only
  refine (((p.idles_setState n .fenced).trans (Part.idles_cancelCheck n _)).trans (?_ : Part.Idles _ _)).trans
    (Part.idles_modPort n _ _)
  generalize (p.setState n .fenced).cancelCheck n = q
  have cut : q.Idles (if off = true then q.modPort n Port.linkDown else q) := by
    split
    · exact Part.idles_modPort n _ _
    · exact .refl q
  refine cut.trans ?_
  generalize (if off = true then q.modPort n Port.linkDown else q) = q'
  split
  · exact Part.idles_refuseRequests n q'
  · exact Part.idles_dropRequests n q'

theorem Part.idles_enterRemoving (n : Slot) (cycle : Bool) (p : Part) : p.Idles (p.enterRemoving n cycle) := by
  unfold Part.enterRemoving
  dsimp only
  exact (((p.idles_setState n _).trans (Part.idles_cancelCheck n _)).trans (Part.idles_dropRequests n _)).trans
    (Part.idles_modPort n _ _)

theorem Part.idles_takeRelease (n : Slot) (p : Part) : p.Idles (p.takeRelease n) := by
  unfold Part.takeRelease
  dsimp only
  refine (p.idles_modPort n Port.freed).trans ?_
  repeat' split
  · exact Part.idles_setState n _ _
  · exact Part.idles_enterTraining n _
  · exact Part.idles_enterPowering n _
  · exact Part.idles_enterStandby n _

/-- A change of the rings at a slot event or at the end of an event. -/
def Part.Ending (p q : Part) : Prop := p.Idling q ∨ p.Settling q

/-- A run of such changes. -/
def Part.Ends : Part → Part → Prop := Run Part.Ending

theorem Part.Ends.trans {p q r : Part} (h : p.Ends q) (h' : q.Ends r) : p.Ends r := Run.trans h h'

theorem Part.Idles.ends {p q : Part} (h : p.Idles q) : p.Ends q := Run.mono (fun _ _ s => Or.inl s) h

theorem Part.Settles.ends {p q : Part} (h : p.Settles q) : p.Ends q := Run.mono (fun _ _ s => Or.inr s) h

theorem Part.Ends.keeps {P : Part → Prop} (idling : ∀ p q, p.Idling q → P p → P q) (settling : ∀ p q, p.Settling q → P p → P q)
    {p q : Part} (h : p.Ends q) (hp : P p) : P q := by
  induction h with
  | refl => exact hp
  | tail _ last ih => exact last.elim (fun s => idling _ _ s ih) fun s => settling _ _ s ih

theorem Part.ends_settleSlots (old : Engine) (p : Part) : p.Ends (p.settleSlots old) := by
  rw [Part.settleSlots_eq]
  have reviewed : p.Idles p.reviewReferences := .same rfl rfl rfl
  exact (reviewed.ends.trans (Part.settles_settleExchange old _).ends).trans
    (Part.idles_of_alarms (Part.besidesAlarms_report _ _)).ends

theorem Part.ends_slotEvent (f : Part → Part) (p : Part) : (f p).Ends (Part.slotEvent f p) := Part.ends_settleSlots _ _

theorem Part.slotEvent_counters (f : Part → Part) (p : Part) (n : Slot) :
    (Part.slotEvent f p).ports[n].counters.besidesDown = (f p).ports[n].counters.besidesDown := by
  unfold Part.slotEvent
  rw [Part.settleSlots_eq, Part.ports_of_alarms (Part.besidesAlarms_report _ _),
    (Part.settles_settleExchange _ _).counters]
  rfl

theorem Counters.besidesDown_sourceDown (c : Counters) : c.besidesDown.sourceDown = c.sourceDown := rfl

theorem Part.Idling.headless {r : RingNo} {c : BitVec 16} {p q : Part} (s : p.Idling q) (h : p.Headless r c) :
    q.Headless r c := by
  cases s with
  | @idle r' bare =>
    by_cases e : r' = r
    · subst e
      have ring := Part.setTake_ring_self r' .idle p
      exact ⟨fun y take => absurd ((congrArg Ring.take ring).symm.trans take) nofun, (congrArg Ring.consumer ring).trans h.2⟩
    · exact h.of_ring (Part.setTake_ring_ne e _ _)
  | same rings engine plan =>
    refine h.of_ring ?_
    rw [rings]

/-- A ring that has lost its head has none at the end of the event, and its consumer stands where it stood. -/
theorem Part.Ends.headless {r : RingNo} {c : BitVec 16} {p q : Part} (s : p.Ends q) (h : p.Headless r c) : q.Headless r c :=
  s.keeps (P := Part.Headless r c) (fun _ _ => Part.Idling.headless) (fun _ _ => Part.Settling.headless) h

/-! ### Settlement -/

/-- What a settlement event leaves, whose operation settles the slot and goes on with a change `g` of its state: the rings and the
discards of the settlement, and the port of the whole. -/
theorem exec_settles_slot {c : Instr} {n : Slot} {f g : Part → Part} {s : State}
    (event : s.part.after c = Part.slotEvent f s.part) (settled : f s.part = g (s.part.settleSlot n))
    (idles : (s.part.settleSlot n).Idles (g (s.part.settleSlot n)))
    (keeps : (f s.part).besidesSlot n = s.part.besidesSlot n)
    (counters : (g (s.part.settleSlot n)).ports[n].counters = (s.part.settleSlot n).ports[n].counters)
    (command : c ≠ .accessGrant) :
    ∃ t, exec c s = .next t ∧ t.memory = s.memory ∧ t.part.besidesSlot n = s.part.besidesSlot n
      ∧ t.part.flights = (g (s.part.settleSlot n)).flights ∧ (g (s.part.settleSlot n)).status.DirtyIn t.part.status
      ∧ t.part.ports[n].besidesCounters = (g (s.part.settleSlot n)).ports[n].besidesCounters
      ∧ t.part.ports[n].counters.sourceDown
          = s.part.ports[n].counters.sourceDown + BitVec.ofNat 32 (s.part.heldDests n)
      ∧ ∀ c : Cls, t.part.headRecord (egressRing n c) = none
          ∧ (s.part.plan.rings[egressRing n c].count ≠ 0 →
              t.part.rings[egressRing n c].consumer = s.part.rings[egressRing n c].producer) := by
  have ends : (s.part.settleSlot n).Ends (s.part.after c) := by
    rw [event]
    exact idles.ends.trans (settled ▸ Part.ends_slotEvent f s.part)
  refine ⟨_, exec_eq_after command s, State.modPart_memory _ _, ?_⟩
  rw [State.modPart_part]
  refine ⟨?_, ?_, ?_, ?_, ?_, fun cls => ?_⟩
  · rw [event]
    exact Part.besidesSlot_slotEvent keeps
  · rw [event, Part.slotEvent_flights, settled]
  · rw [event, ← settled]
    exact Part.dirtyIn_slotEvent f s.part
  · rw [event, Part.slotEvent_port, settled]
  · have same : (s.part.after c).ports[n].counters.sourceDown = (f s.part).ports[n].counters.sourceDown := by
      rw [event, ← Counters.besidesDown_sourceDown, Part.slotEvent_counters, Counters.besidesDown_sourceDown]
    rw [same, settled, counters, Part.settleSlot_port]
    rfl
  · obtain ⟨none, consumer⟩ := s.part.settleSlot_ring n cls
    have after := ends.headless (Part.headless_of_headRecord (isEgress_egressRing n cls) none)
    exact ⟨after.headRecord, fun present => after.2.trans (consumer present)⟩

theorem Port.released_counters (x : Port) (n : Slot) (enabled : Bool) (now : Nat) :
    (x.released n enabled now).counters = x.counters := by
  unfold Port.released
  split
  · split <;> rfl
  · split
    · rfl
    · split <;> rfl

theorem Port.released_settlementOwed (x : Port) (n : Slot) (enabled : Bool) (now : Nat) :
    (x.released n enabled now).settlementOwed = x.settlementOwed := by
  unfold Port.released
  split
  · split <;> rfl
  · split
    · rfl
    · split <;> rfl

theorem Port.released_state (x : Port) (n : Slot) (enabled : Bool) (now : Nat) :
    (x.released n enabled now).state =
      if x.powerRemoved = false then (if x.link = true then .quarantine else .training)
      else if enabled = true ∨ n = 0 then (if x.pwrgd = true then .training else .powering)
      else .standby := by
  unfold Port.released
  by_cases kept : x.powerRemoved = false
  · rw [if_pos kept, if_pos kept]
    split <;> rfl
  · rw [if_neg kept, if_neg kept]
    by_cases on : enabled = true
    · rw [if_pos on, if_pos (.inl on)]
      rfl
    · by_cases zero : n = 0
      · rw [if_neg on, if_pos zero, if_pos (.inr zero)]
        rfl
      · rw [if_neg on, if_neg zero, if_neg (not_or.mpr ⟨on, zero⟩)]
        rfl

/-- A slot port after it left REMOVING (R71). -/
def Port.left (x : Port) (n : Slot) (cycle : Bool) (now : Nat) : Port :=
  let y := { x with powerCycle := false, stateTimer := none }
  if x.presence = false then y.emptied
  else if cycle = true ∨ n = 0 then y.powered now
  else y.stoodBy

/-- What follows the settlement of a slot that leaves REMOVING (R71). -/
def Part.leave (n : Slot) (cycle : Bool) (p : Part) : Part :=
  let q := p.modPort n fun x => { x with powerCycle := false, stateTimer := none }
  if !p.ports[n].presence then q.enterEmpty n
  else if cycle then q.enterPowering n
  else q.enterStandby n

theorem Part.leaveRemoving_eq (n : Slot) (p : Part) : p.leaveRemoving n = (p.settleSlot n).leave n p.ports[n].powerCycle := by
  have presence : (p.settleSlot n).ports[n].presence = p.ports[n].presence := by
    rw [Part.settleSlot_port]
    rfl
  unfold Part.leaveRemoving Part.leave
  rw [presence]

theorem Part.leave_port {n : Slot} {p : Part} (h : p.ports[n].state ≠ .admitted) (cycle : Bool) :
    (p.leave n cycle).ports[n] = p.ports[n].left n cycle p.now := by
  have moved : (p.modPort n fun x => { x with powerCycle := false, stateTimer := none }).ports[n]
      = { p.ports[n] with powerCycle := false, stateTimer := none } := Part.modPort_self _ _ _
  have unserved : (p.modPort n fun x => { x with powerCycle := false, stateTimer := none }).ports[n].state ≠ .admitted := by
    rwa [moved]
  unfold Part.leave Port.left
  dsimp only
  by_cases gone : p.ports[n].presence = false
  · rw [if_pos (by rw [gone]; rfl), if_pos gone, Part.enterEmpty_port unserved, moved]
  · rw [if_neg (by simpa using gone), if_neg gone]
    by_cases on : cycle = true
    · rw [if_pos on, if_pos (.inl on), Part.enterPowering_port unserved, moved]
      rfl
    · rw [if_neg on, Part.enterStandby_port unserved, moved]
      by_cases zero : n = 0
      · rw [if_pos zero, if_pos (.inr zero)]
        rfl
      · rw [if_neg zero, if_neg (not_or.mpr ⟨on, zero⟩)]

theorem Part.leave_flights (n : Slot) (cycle : Bool) (p : Part) : (p.leave n cycle).flights = p.flights := by
  unfold Part.leave
  dsimp only
  split
  · rw [Part.enterEmpty_flights, Part.modPort_flights]
  · split
    · rw [Part.enterPowering_flights, Part.modPort_flights]
    · rw [Part.enterStandby_flights, Part.modPort_flights]

theorem Part.leave_dirty (n : Slot) (cycle : Bool) (p : Part) : (p.leave n cycle).status.dirty[slotRecordNo n] = true := by
  unfold Part.leave
  dsimp only
  split
  · exact Part.enterEmpty_dirty _ _
  · split
    · exact Part.enterPowering_dirty _ _
    · exact Part.enterStandby_dirty _ _

theorem Part.idles_leave (n : Slot) (cycle : Bool) (p : Part) : p.Idles (p.leave n cycle) := by
  unfold Part.leave
  dsimp only
  refine (p.idles_modPort n fun x => { x with powerCycle := false, stateTimer := none }).trans ?_
  split
  · exact Part.idles_enterEmpty n _
  · split
    · exact Part.idles_enterPowering n _
    · exact Part.idles_enterStandby n _

theorem Port.left_counters (x : Port) (n : Slot) (cycle : Bool) (now : Nat) : (x.left n cycle now).counters = x.counters := by
  unfold Port.left
  dsimp only
  split
  · rfl
  · split <;> rfl

/-- Settles O42: the settlement empties the slot's egress rings, and no later change of its event gives one of them a head. -/
theorem settlementAbandonsTheSlotsFrames : Obligations.SettlementAbandonsTheSlotsFrames := by
  unfold Obligations.SettlementAbandonsTheSlotsFrames
  intro s n running x settled
  have port := s.part.settleSlot_port n
  refine ⟨fun due => ?_, fun due => ?_⟩
  · have event : s.part.after (.settlement n) = Part.slotEvent (Part.settleNow n) s.part := by
      rw [Part.after_settlement, Part.whenDue_of_due running due]
    by_cases held : x.state = .fenced ∧ x.releaseHeld = true
    · have now : Part.settleNow n s.part = (s.part.settleSlot n).takeRelease n := if_pos held
      have fenced : (s.part.settleSlot n).ports[n].state = .fenced := by
        rw [port]
        exact held.1
      have unserved : (s.part.settleSlot n).ports[n].state ≠ .admitted := by
        rw [fenced]
        nofun
      have released := Part.takeRelease_port unserved
      obtain ⟨t, run, memory, keeps, flights, dirty, ports, down, rings⟩ :=
        exec_settles_slot (g := Part.takeRelease n) event now (Part.idles_takeRelease n _)
          (by rw [now, Part.besidesSlot_takeRelease, Part.besidesSlot_settleSlot])
          (by rw [released, Port.released_counters]) nofun
      rw [released, port, Part.settleSlot_plan] at ports
      have state := (congrArg Port.state ports :).trans (Port.released_state _ _ _ _)
      refine ⟨t, run, ⟨memory, keeps, ?_, fun _ => dirty _ (Part.takeRelease_dirty _ _), ?_, down, rings⟩, ?_⟩
      · rw [flights, Part.takeRelease_flights, Part.settleSlot_flights]
      · exact (congrArg Port.settlementOwed ports :).trans (Port.released_settlementOwed _ _ _ _)
      · rw [if_pos held]
        exact state
    · have now : Part.settleNow n s.part = s.part.settleSlot n := if_neg held
      obtain ⟨t, run, memory, keeps, flights, dirty, ports, down, rings⟩ :=
        exec_settles_slot (g := id) event now (.refl _) (by rw [now, Part.besidesSlot_settleSlot]) rfl nofun
      rw [id, port] at ports
      have state : t.part.ports[n].state = x.state := (congrArg Port.state ports :)
      refine ⟨t, run, ⟨memory, keeps, flights.trans (Part.settleSlot_flights n _), fun changed => absurd state changed,
        (congrArg Port.settlementOwed ports :), down, rings⟩, ?_⟩
      rw [if_neg held]
      exact state
  · have event : s.part.after (.removingEnd n) = Part.slotEvent (Part.leaveRemoving n) s.part := by
      rw [Part.after_removingEnd, Part.whenDue_of_due running due]
    have removing : x.state = .removing := by
      simp only [Part.removingDue, Bool.and_eq_true, beq_iff_eq] at due
      exact due.1.1.1.1.1
    have unserved : (s.part.settleSlot n).ports[n].state ≠ .admitted := by
      rw [port]
      exact fun e => absurd (removing.symm.trans e) nofun
    have left := Part.leave_port unserved x.powerCycle
    obtain ⟨t, run, memory, keeps, flights, dirty, ports, down, rings⟩ :=
      exec_settles_slot (g := Part.leave n x.powerCycle) event (Part.leaveRemoving_eq n _) (Part.idles_leave n _ _)
        (Part.besidesSlot_leaveRemoving n _) (by rw [left, Port.left_counters]) nofun
    rw [left, port, Part.settleSlot_now] at ports
    refine ⟨t, run, ⟨memory, keeps, ?_, fun _ => dirty _ (Part.leave_dirty _ _ _), ?_, down, rings⟩, ?_⟩
    · rw [flights, Part.leave_flights, Part.settleSlot_flights]
    · refine (congrArg Port.settlementOwed ports :).trans ?_
      unfold Port.left
      dsimp only [Port.besidesCounters]
      split
      · rfl
      · split <;> rfl
    · rw [ports]
      unfold Port.left
      dsimp only
      split
      · next gone => rw [if_pos (show x.presence = false from gone)]; rfl
      · next here =>
        rw [if_neg (show ¬x.presence = false from here)]
        split
        · rfl
        · rfl

end Sys2Proof.Machine
end


section
/-! PROOFS. Admission (R60 to R63, R72, R98, R99): the reset of a slot's rings, what the rest of the event keeps of it, and the
judgement of an admission check. -/
namespace Sys2Proof.Machine

/-! ### Requested index writes -/

/-- The index write `w` is in the queue or waits for the memory port (R103). -/
def Part.Pending (w : IndexWrite) (p : Part) : Prop := w ∈ p.engine.indexQueue ∨ p.engine.waiting = some (.index w)

theorem Part.Pending.of_engine {w : IndexWrite} {p q : Part} (queue : w ∈ p.engine.indexQueue → w ∈ q.engine.indexQueue)
    (waiting : q.engine.waiting = p.engine.waiting) (h : p.Pending w) : q.Pending w :=
  h.imp queue fun e => waiting.trans e

theorem Part.Settling.pending {w : IndexWrite} {p q : Part} (bare : ∀ y, p.rings[w.ring].take ≠ .head y) (s : p.Settling q)
    (h : p.Pending w) : q.Pending w := by
  have free_mem : p.engine.waiting = none → w ∈ p.engine.indexQueue := fun free =>
    h.resolve_right fun e => absurd (free.symm.trans e) nofun
  cases s with
  | @keepDests r y head =>
    have ne : r ≠ w.ring := by
      rintro rfl
      exact bare y (Part.headRecord_eq_some.mp head).2
    exact h.of_engine (Part.mem_indexQueue_keepDests_ne ne y _ _) (Part.keepDests_waiting r y _ _ p)
  | orderJoins stood =>
    exact h.of_engine (joinInOrder_perm IndexWrite.ring stood.writes p.engine.indexQueue).mem_iff.mpr rfl
  | startCopy copy head ready =>
    unfold Part.Pending
    rw [Part.startCopy_engine]
    exact h
  | issueIndex free queue =>
    have mem := free_mem free
    rw [queue] at mem
    exact (List.mem_cons.mp mem).elim (fun e => .inr (by rw [e]; rfl)) .inl
  | issueHeader free list => exact .inl (free_mem free)
  | issueCopy free copy due => exact .inl (free_mem free)
  | endBatch | reviewHeads | markInstant => exact h

/-! ### Rings that were reset (R98) -/

/-- Ring `r` is empty at index 0 and at rest, and the write of 0 to its part-owned word is requested (R98). -/
def Part.WasReset (r : RingNo) (p : Part) : Prop :=
  p.Resting r .idle 0 ∧ p.rings[r].producer = 0 ∧ p.rings[r].high = false ∧ p.Pending { ring := r, value := 0 }

theorem Part.WasReset.ring {r : RingNo} {p : Part} (h : p.WasReset r) :
    p.rings[r] = { producer := 0, consumer := 0, high := false, take := .idle } := by
  obtain ⟨⟨take, consumer, -⟩, producer, high, -⟩ := h
  calc p.rings[r] = { producer := p.rings[r].producer, consumer := p.rings[r].consumer, high := p.rings[r].high,
                      take := p.rings[r].take } := rfl
    _ = _ := by rw [take, consumer, producer, high]

theorem Part.Settling.wasReset {r : RingNo} {p q : Part} (s : p.Settling q) (h : p.WasReset r) : q.WasReset r := by
  obtain ⟨rest, producer, high, pending⟩ := h
  exact ⟨s.resting nofun rest, (Part.producer_of_exchange s.besidesExchange r).trans producer,
    (Part.high_of_exchange s.besidesExchange r).trans high,
    s.pending (fun y e => absurd (rest.1.symm.trans e) nofun) pending⟩

theorem Part.Idling.wasReset {r : RingNo} {p q : Part} (s : p.Idling q) (h : p.WasReset r) : q.WasReset r := by
  cases s with
  | @idle r' bare =>
    obtain ⟨⟨take, consumer, off⟩, producer, high, pending⟩ := h
    by_cases e : r' = r
    · subst e
      have ring := Part.setTake_ring_self r' .idle p
      unfold Part.WasReset Part.Resting
      rw [ring]
      exact ⟨⟨rfl, consumer, Part.not_mem_takeList_setTake (t := .idle) nofun p⟩, producer, high, pending⟩
    · unfold Part.WasReset Part.Resting
      rw [Part.setTake_ring_ne e, Part.mem_takeList_setTake_ne e]
      exact ⟨⟨take, consumer, off⟩, producer, high, pending⟩
  | same rings engine plan =>
    unfold Part.WasReset Part.Resting Part.Pending
    rw [rings, engine]
    exact h

theorem Part.Ends.wasReset {r : RingNo} {p q : Part} (s : p.Ends q) (h : p.WasReset r) : q.WasReset r :=
  s.keeps (P := Part.WasReset r) (fun _ _ => Part.Idling.wasReset) (fun _ _ => Part.Settling.wasReset) h

theorem Part.dropHead_indexQueue (r : RingNo) (why : Discard) (p : Part) :
    (p.dropHead r why).engine.indexQueue = p.engine.indexQueue := by
  cases head : p.headRecord r with
  | none => rw [Part.dropHead_of_none head]
  | some h => rw [Part.dropHead_of_some head]; rfl

theorem Part.dropHead_waiting (r : RingNo) (why : Discard) (p : Part) :
    (p.dropHead r why).engine.waiting = p.engine.waiting := by
  cases head : p.headRecord r with
  | none => rw [Part.dropHead_of_none head]
  | some h => rw [Part.dropHead_of_some head]; rfl

theorem Part.mem_takeList_dropHead_ne {r q : RingNo} (ne : r ≠ q) (why : Discard) (p : Part) :
    q ∈ (p.dropHead r why).engine.takeList ↔ q ∈ p.engine.takeList := by
  cases head : p.headRecord r with
  | none => rw [Part.dropHead_of_none head]
  | some h =>
    rw [Part.dropHead_of_some head, Part.mem_takeList_setTake_ne ne]
    rfl

theorem Part.watched_of_exchange {p q : Part} (h : q.besidesExchange = p.besidesExchange) : q.watched = p.watched :=
  (congrArg Part.watched h :)

/-- A ring with its head dropped and made IDLE, the first part of its reset (R98). -/
def Part.cleared (why : Discard) (r : RingNo) (p : Part) : Part := (p.dropHead r why).setTake r .idle

theorem Part.resetRing_eq (why : Discard) (r : RingNo) (p : Part) :
    p.resetRing why r = (((p.cleared why r).modRing r fun x => { x with producer := 0, consumer := 0, high := false }).setWatched
      (cardOwnedWord r) 0).writeIndex r 0 := rfl

theorem Part.cleared_take (why : Discard) (r : RingNo) (p : Part) : (p.cleared why r).rings[r].take = .idle :=
  congrArg Ring.take (Part.setTake_ring_self r .idle _)

theorem Part.besidesExchange_cleared (why : Discard) (r : RingNo) (p : Part) :
    (p.cleared why r).besidesExchange = p.besidesExchange := by
  unfold Part.cleared
  rw [Part.besidesExchange_setTake, Part.besidesExchange_dropHead]

theorem Part.resetRing_watched (why : Discard) (r : RingNo) (p : Part) :
    (p.resetRing why r).watched = p.watched.set (cardOwnedWord r) 0 := by
  rw [Part.resetRing_eq, ← Part.watched_of_exchange (Part.besidesExchange_cleared why r p)]
  rfl

theorem Part.wasReset_resetRing (why : Discard) (r : RingNo) (p : Part) : (p.resetRing why r).WasReset r := by
  have ring : (p.resetRing why r).rings[r] = { producer := 0, consumer := 0, high := false, take := .idle } := by
    rw [Part.resetRing_eq]
    refine (Part.modRing_self r _ (p.cleared why r)).trans ?_
    rw [Part.cleared_take]
  unfold Part.WasReset Part.Resting
  rw [ring]
  refine ⟨⟨rfl, rfl, ?_⟩, rfl, rfl, .inl ?_⟩
  · exact Part.not_mem_takeList_setTake (r := r) (t := .idle) nofun (p.dropHead r why)
  · exact mem_requestIndex_self (p.cleared why r).engine.indexQueue _

theorem Part.WasReset.resetRing_ne {r r' : RingNo} (ne : r' ≠ r) (why : Discard) {p : Part} (h : p.WasReset r) :
    (p.resetRing why r').WasReset r := by
  have ring : (p.resetRing why r').rings[r] = p.rings[r] := by
    rw [Part.resetRing_eq]
    refine (Part.modRing_ne ne _ (p.cleared why r')).trans ?_
    unfold Part.cleared
    rw [Part.setTake_ring_ne ne, Part.dropHead_ring_ne ne]
  have list : r ∈ (p.resetRing why r').engine.takeList ↔ r ∈ p.engine.takeList :=
    (Part.mem_takeList_setTake_ne ne .idle (p.dropHead r' why)).trans (Part.mem_takeList_dropHead_ne ne why p)
  obtain ⟨⟨take, consumer, off⟩, producer, high, pending⟩ := h
  unfold Part.WasReset Part.Resting
  rw [ring, list]
  refine ⟨⟨take, consumer, off⟩, producer, high, pending.of_engine (fun mem => ?_) (Part.dropHead_waiting r' why p)⟩
  refine mem_requestIndex_ne ne (q := (p.cleared why r').engine.indexQueue) ?_
  have queue : (p.cleared why r').engine.indexQueue = p.engine.indexQueue := Part.dropHead_indexQueue r' why p
  rw [queue]
  exact mem

theorem Part.resetRing_port (why : Discard) (r : RingNo) (p : Part) (n : Slot) :
    (p.resetRing why r).ports[n].besidesCounters = p.ports[n].besidesCounters := by
  rw [Part.resetRing_eq]
  simp only [Part.writeIndex, Part.modEngine_ports, Part.setWatched_ports, Part.modRing_ports]
  exact Part.port_of_exchange (Part.besidesExchange_cleared why r p) n

theorem Part.resetRing_flights (why : Discard) (r : RingNo) (p : Part) : (p.resetRing why r).flights = p.flights := by
  rw [Part.resetRing_eq]
  simp only [Part.writeIndex, Part.modEngine_flights, Part.setWatched_flights, Part.modRing_flights]
  exact Part.flights_of_exchange (Part.besidesExchange_cleared why r p)

theorem Part.resetRing_plan (why : Discard) (r : RingNo) (p : Part) : (p.resetRing why r).plan = p.plan := by
  rw [Part.resetRing_eq]
  simp only [Part.writeIndex, Part.modEngine_plan, Part.setWatched_plan, Part.modRing_plan]
  exact Part.plan_of_exchange (Part.besidesExchange_cleared why r p)

theorem ringNo_ext {r q : RingNo} (slot : ringSlot r = ringSlot q) (cls : ringClass r = ringClass q)
    (dir : isEgress r = isEgress q) : r = q := by
  have s : r.val / 8 = q.val / 8 := congrArg Fin.val slot
  have c : r.val % 8 / 2 = q.val % 8 / 2 := congrArg Fin.val cls
  have d : r.val % 2 = 0 ↔ q.val % 2 = 0 := by
    have same := Bool.eq_iff_iff.mp dir
    unfold isEgress at same
    rwa [beq_iff_eq, beq_iff_eq] at same
  apply Fin.ext
  omega

theorem cardOwnedWord_injective {r q : RingNo} (h : cardOwnedWord r = cardOwnedWord q) : r = q := by
  unfold cardOwnedWord at h
  cases e : isEgress r <;> cases e' : isEgress q <;> simp only [e, e', if_true, if_false, Bool.false_eq_true] at h
  · injection h with slot cls
    exact ringNo_ext slot cls (e.trans e'.symm)
  · cases h
  · cases h
  · injection h with slot cls
    exact ringNo_ext slot cls (e.trans e'.symm)

/-! ### The rings of a slot (R98, R99) -/

/-- The rings of slot `n` in ascending order. -/
def slotRing (n : Slot) (k : Fin 8) : RingNo := ⟨n.val * 8 + k.val, by omega⟩

theorem slotRing_injective {n : Slot} {j k : Fin 8} (h : slotRing n j = slotRing n k) : j = k := by
  have e : n.val * 8 + j.val = n.val * 8 + k.val := congrArg Fin.val h
  exact Fin.ext (by omega)

theorem exists_slotRing {n : Slot} {r : RingNo} (h : ringSlot r = n) : ∃ k, r = slotRing n k := by
  refine ⟨⟨r.val % 8, Nat.mod_lt _ (by decide)⟩, Fin.ext ?_⟩
  have e : r.val / 8 = n.val := congrArg Fin.val h
  show r.val = n.val * 8 + r.val % 8
  omega

/-- Each present ring of the slot is reset (R98). -/
def Part.resetPresent (n : Slot) (p : Part) : Part :=
  forEach 8 (fun k q => if q.plan.rings[slotRing n k].present then q.resetRing .sourceDown (slotRing n k) else q) p

theorem Part.resetSlotRings_eq (n : Slot) (p : Part) : p.resetSlotRings n = ((p.voidInto n).voidFrom n).resetPresent n := rfl

theorem Part.resetPresent_round (r : RingNo) (p : Part) (P : Part → Prop) (reset : P (p.resetRing .sourceDown r)) (still : P p) :
    P (if p.plan.rings[r].present then p.resetRing .sourceDown r else p) := by
  split
  · exact reset
  · exact still

theorem Part.resetPresent_ring (n : Slot) (p : Part) (k : Fin 8) :
    if p.plan.rings[slotRing n k].count ≠ 0 then
      (p.resetPresent n).WasReset (slotRing n k) ∧ (p.resetPresent n).watched.get (cardOwnedWord (slotRing n k)) = 0
    else (p.resetPresent n).watched.get (cardOwnedWord (slotRing n k)) = p.watched.get (cardOwnedWord (slotRing n k)) := by
  have apart : ∀ {j k : Fin 8}, j ≠ k → slotRing n j ≠ slotRing n k := fun ne e => ne (slotRing_injective e)
  unfold Part.resetPresent
  refine forEach_each (s := p)
    (Before := fun k (q : Part) => q.plan = p.plan
      ∧ q.watched.get (cardOwnedWord (slotRing n k)) = p.watched.get (cardOwnedWord (slotRing n k)))
    (After := fun k (q : Part) => if p.plan.rings[slotRing n k].count ≠ 0 then
        q.WasReset (slotRing n k) ∧ q.watched.get (cardOwnedWord (slotRing n k)) = 0
      else q.watched.get (cardOwnedWord (slotRing n k)) = p.watched.get (cardOwnedWord (slotRing n k)))
    (fun i q h => ?_) (fun i j q ne h => ?_) (fun i j q ne h => ?_) (fun _ => ⟨rfl, rfl⟩) k
  · obtain ⟨plan, word⟩ := h
    rw [plan]
    by_cases present : p.plan.rings[slotRing n i].count ≠ 0
    · rw [if_pos present, if_pos (RingPlan.present_iff.mpr present), Part.resetRing_watched, Watched.get_set_self]
      exact ⟨Part.wasReset_resetRing _ _ _, rfl⟩
    · rw [if_neg present, if_neg (fun e => present (RingPlan.present_iff.mp e))]
      exact word
  · by_cases present : q.plan.rings[slotRing n i].present = true
    · rw [if_pos present, Part.resetRing_plan, Part.resetRing_watched,
        Watched.get_set_ne _ _ _ _ fun e => apart ne (cardOwnedWord_injective e)]
      exact h
    · rw [if_neg present]
      exact h
  · by_cases present : q.plan.rings[slotRing n i].present = true
    case neg =>
      rw [if_neg present]
      exact h
    rw [if_pos present, Part.resetRing_watched, Watched.get_set_ne _ _ _ _ fun e => apart ne (cardOwnedWord_injective e)]
    split
    · next present =>
      rw [if_pos present] at h
      exact ⟨h.1.resetRing_ne (apart ne) _, h.2⟩
    · next absent =>
      rw [if_neg absent] at h
      exact h

theorem Part.besidesExchange_voided (n : Slot) (p : Part) : ((p.voidInto n).voidFrom n).besidesExchange = p.besidesExchange := by
  rw [Part.besidesExchange_voidFrom, Part.besidesExchange_voidInto]

theorem Part.resetSlotRings_port (n : Slot) (p : Part) (m : Slot) :
    (p.resetSlotRings n).ports[m].besidesCounters = p.ports[m].besidesCounters := by
  rw [Part.resetSlotRings_eq, ← Part.port_of_exchange (Part.besidesExchange_voided n p) m]
  refine forEach_keeps (fun q : Part => q.ports[m].besidesCounters) 8 _ (fun k q => ?_) _
  exact Part.resetPresent_round (slotRing n k) q (fun u => u.ports[m].besidesCounters = q.ports[m].besidesCounters)
    (Part.resetRing_port _ _ _ _) rfl

theorem Part.resetSlotRings_flights (n : Slot) (p : Part) : (p.resetSlotRings n).flights = p.flights := by
  rw [Part.resetSlotRings_eq, ← Part.flights_of_exchange (Part.besidesExchange_voided n p)]
  refine forEach_keeps Part.flights 8 _ (fun k q => ?_) _
  exact Part.resetPresent_round (slotRing n k) q (fun u => u.flights = q.flights) (Part.resetRing_flights _ _ _) rfl

theorem Part.plan_of_besidesAdmission {n : Slot} {p q : Part} (h : q.besidesAdmission n = p.besidesAdmission n) :
    q.plan = p.plan := (congrArg Part.plan h :)

theorem Part.now_of_besidesAdmission {n : Slot} {p q : Part} (h : q.besidesAdmission n = p.besidesAdmission n) :
    q.now = p.now := (congrArg Part.now h :)

theorem Port.state_of_besidesCounters {x y : Port} (h : y.besidesCounters = x.besidesCounters) : y.state = x.state :=
  (congrArg Port.state h :)

/-! ### The end of the admission delay (R63) -/

/-- A slot port after its admission at service-clock time `now`, with heartbeat key `key` (R63, R72). -/
def Port.admittedBy (x : Port) (key : Word) (now : Nat) : Port :=
  { x with
    state := .admitted, stateTimer := none, violations := 0, identityShown := true, settlementOwed := false
    heartbeat := { supervising := true, expected := key, lastValid := none, windowStart := now, lost := false }
    strobe := { x.strobe with armed := true } }

theorem Port.besidesCounters_admittedBy {x y : Port} (h : y.besidesCounters = x.besidesCounters) (key : Word) (now : Nat) :
    (y.admittedBy key now).besidesCounters = (x.admittedBy key now).besidesCounters :=
  (congrArg (Port.admittedBy · key now) h :)

/-- The admission of a slot after the reset of its rings (R63). -/
def Part.enterAdmitted (n : Slot) (p : Part) : Part :=
  (((p.setState n .admitted).startHeartbeat n).armStrobe n).modPort n fun x =>
    { x with stateTimer := none, violations := 0, identityShown := true, settlementOwed := false }

theorem Part.admitSlot_eq (n : Slot) (p : Part) : p.admitSlot n = (p.resetSlotRings n).enterAdmitted n := rfl

theorem Part.enterAdmitted_port {n : Slot} {p : Part} (h : p.ports[n].state ≠ .admitted) :
    (p.enterAdmitted n).ports[n] = p.ports[n].admittedBy p.plan.slots[n].key p.now := by
  have plan : (p.setState n .admitted).plan = p.plan := Part.plan_of_besidesSlot (Part.besidesSlot_setState n .admitted p)
  have now : (p.setState n .admitted).now = p.now := Part.now_of_besidesSlot (Part.besidesSlot_setState n .admitted p)
  have port : (p.setState n .admitted).ports[n] = { p.ports[n] with state := .admitted } := by
    rw [Part.setState_port, Port.restated_of_not_admitted h]
  unfold Part.enterAdmitted
  rw [Part.modPort_self]
  unfold Part.armStrobe
  rw [Part.modPort_self]
  unfold Part.startHeartbeat
  rw [Part.modPort_self, port, plan, now]
  rfl

theorem Part.enterAdmitted_flights (n : Slot) (p : Part) : (p.enterAdmitted n).flights = p.flights := by
  unfold Part.enterAdmitted Part.armStrobe Part.startHeartbeat
  rw [Part.modPort_flights, Part.modPort_flights, Part.modPort_flights, Part.setState_flights]

theorem Part.enterAdmitted_dirty (n : Slot) (p : Part) : (p.enterAdmitted n).status.dirty[slotRecordNo n] = true :=
  Part.setState_dirty n .admitted p

theorem Part.idles_enterAdmitted (n : Slot) (p : Part) : p.Idles (p.enterAdmitted n) := by
  unfold Part.enterAdmitted Part.armStrobe Part.startHeartbeat
  exact ((Part.idles_setState n .admitted _).trans (Part.idles_modPort n _ _)).trans
    ((Part.idles_modPort n _ _).trans (Part.idles_modPort n _ _))

theorem Part.enterAdmitted_watched (n : Slot) (p : Part) : (p.enterAdmitted n).watched = p.watched := by
  unfold Part.enterAdmitted Part.armStrobe Part.startHeartbeat
  rw [Part.modPort_watched, Part.modPort_watched, Part.modPort_watched,
    Part.watched_of_besidesSlot (Part.besidesSlot_setState n .admitted _)]

theorem Part.admitSlot_port {n : Slot} {p : Part} (h : p.ports[n].state ≠ .admitted) :
    (p.admitSlot n).ports[n].besidesCounters
      = (p.ports[n].admittedBy p.plan.slots[n].key p.now).besidesCounters := by
  have reset := p.resetSlotRings_port n n
  have view := Part.besidesAdmission_resetSlotRings n p
  rw [Part.admitSlot_eq, Part.enterAdmitted_port (by rwa [Port.state_of_besidesCounters reset]), Part.plan_of_besidesAdmission view,
    Part.now_of_besidesAdmission view]
  exact Port.besidesCounters_admittedBy reset _ _

theorem Part.admitSlot_flights (n : Slot) (p : Part) : (p.admitSlot n).flights = p.flights := by
  rw [Part.admitSlot_eq, Part.enterAdmitted_flights, Part.resetSlotRings_flights]

theorem Part.admitSlot_dirty (n : Slot) (p : Part) : (p.admitSlot n).status.dirty[slotRecordNo n] = true := by
  rw [Part.admitSlot_eq]
  exact Part.enterAdmitted_dirty n _

/-- The rings of a slot at the end of its admission delay (R98). -/
theorem Part.admitSlot_ring {n : Slot} {r : RingNo} (slot : ringSlot r = n) {p q : Part} (ends : (p.admitSlot n).Ends q)
    (watched : q.watched = (p.admitSlot n).watched) :
    if p.plan.rings[r].count ≠ 0 then q.WasReset r ∧ q.watched.get (cardOwnedWord r) = 0
    else q.watched.get (cardOwnedWord r) = p.watched.get (cardOwnedWord r) := by
  obtain ⟨k, rfl⟩ := exists_slotRing slot
  have voided := Part.besidesExchange_voided n p
  have rings := Part.resetPresent_ring n ((p.voidInto n).voidFrom n) k
  rw [Part.plan_of_exchange voided, ← Part.resetSlotRings_eq, Part.watched_of_exchange voided] at rings
  rw [Part.admitSlot_eq] at ends watched
  rw [watched, Part.enterAdmitted_watched]
  split
  · next present =>
    rw [if_pos present] at rings
    exact ⟨((Part.idles_enterAdmitted n _).ends.trans ends).wasReset rings.1, rings.2⟩
  · next absent =>
    rw [if_neg absent] at rings
    exact rings

/-- Settles O47. -/
theorem admissionResetsTheSlotsRings : Obligations.AdmissionResetsTheSlotsRings := by
  unfold Obligations.AdmissionResetsTheSlotsRings
  intro s n running due x
  have event : s.part.after (.admitDelayExpiry n) = Part.slotEvent (Part.admitSlot n) s.part := by
    rw [Part.after_admitDelayExpiry, Part.whenDue_of_due running due]
  have unserved : s.part.ports[n].state ≠ .admitted := by
    simp only [Part.admitDue, Bool.and_eq_true, beq_iff_eq] at due
    exact fun e => absurd (due.1.symm.trans e) nofun
  have view := Part.besidesSlot_settleSlots n s.part.engine (s.part.admitSlot n)
  refine ⟨_, exec_eq_after (c := .admitDelayExpiry n) nofun s, State.modPart_memory _ _, ?_⟩
  rw [State.modPart_part, event]
  refine ⟨?_, ?_, ?_, ?_, fun r slot => ?_⟩
  · exact (Part.besidesAdmission_of_slot n view).trans (Part.besidesAdmission_admitSlot n _)
  · rw [Part.slotEvent_flights, Part.admitSlot_flights]
  · exact Part.dirtyIn_slotEvent _ _ _ (Part.admitSlot_dirty n s.part)
  · rw [Part.slotEvent_port, Part.admitSlot_port unserved]
    rfl
  · have rings := Part.admitSlot_ring slot (Part.ends_slotEvent (Part.admitSlot n) s.part) (Part.watched_of_besidesSlot view)
    split
    · next present =>
      rw [if_pos present] at rings
      obtain ⟨reset, word⟩ := rings
      exact ⟨reset.ring, word, reset.2.2.2⟩
    · next absent =>
      rw [if_neg absent] at rings
      exact rings

end Sys2Proof.Machine
end


section
/-! PROOFS. The admission check (R60 to R62) and the completion of card READs (R2, R3, R10, R16). -/
namespace Sys2Proof.Machine

/-! ### Entry to ADMITTING (R62) -/

theorem Part.setState_plan (n : Slot) (st : SlotState) (p : Part) : (p.setState n st).plan = p.plan :=
  Part.plan_of_besidesSlot (Part.besidesSlot_setState n st p)

/-- The change of an entry to ADMITTING before its admission delay (R62). -/
def Part.awaitAdmission (n : Slot) (p : Part) : Part :=
  (p.setState n .admitting).modPort n fun x => { x with stateTimer := some p.now }

theorem Part.enterAdmitting_eq (n : Slot) (p : Part) :
    p.enterAdmitting n = if p.plan.slots[n].admitDelay = 0 then (p.awaitAdmission n).admitSlot n else p.awaitAdmission n := rfl

theorem Part.awaitAdmission_port {n : Slot} {p : Part} (h : p.ports[n].state ≠ .admitted) :
    (p.awaitAdmission n).ports[n] = { p.ports[n] with state := .admitting, stateTimer := some p.now } := by
  unfold Part.awaitAdmission
  rw [Part.modPort_self, Part.setState_port, Port.restated_of_not_admitted h]

theorem Part.awaitAdmission_now (n : Slot) (p : Part) : (p.awaitAdmission n).now = p.now := by
  unfold Part.awaitAdmission
  rw [Part.modPort_now, Part.setState_now]

theorem Part.awaitAdmission_plan (n : Slot) (p : Part) : (p.awaitAdmission n).plan = p.plan := by
  unfold Part.awaitAdmission
  rw [Part.modPort_plan, Part.setState_plan]

theorem Part.enterAdmitting_port {n : Slot} {p : Part} (h : p.ports[n].state ≠ .admitted) :
    (p.enterAdmitting n).ports[n].besidesCounters = Port.besidesCounters
      (if p.plan.slots[n].admitDelay ≠ 0 then { p.ports[n] with state := .admitting, stateTimer := some p.now }
       else p.ports[n].admittedBy p.plan.slots[n].key p.now) := by
  rw [Part.enterAdmitting_eq]
  by_cases delay : p.plan.slots[n].admitDelay = 0
  · have admitting : (p.awaitAdmission n).ports[n].state ≠ .admitted := by
      rw [Part.awaitAdmission_port h]
      nofun
    rw [if_pos delay, if_neg (Classical.not_not.mpr delay), Part.admitSlot_port admitting, Part.awaitAdmission_port h,
      Part.awaitAdmission_plan, Part.awaitAdmission_now]
    rfl
  · rw [if_neg delay, if_pos delay, Part.awaitAdmission_port h]

theorem Part.enterAdmitting_flights (n : Slot) (p : Part) : (p.enterAdmitting n).flights = p.flights := by
  have waits : (p.awaitAdmission n).flights = p.flights := Part.setState_flights n .admitting p
  rw [Part.enterAdmitting_eq]
  split
  · rw [Part.admitSlot_flights, waits]
  · exact waits

theorem Part.enterAdmitting_dirty (n : Slot) (p : Part) : (p.enterAdmitting n).status.dirty[slotRecordNo n] = true := by
  rw [Part.enterAdmitting_eq]
  split
  · exact Part.admitSlot_dirty n _
  · exact Part.setState_dirty n .admitting p

/-! ### The admission check (R60, R61) -/

/-- The part with the check of slot `n` ended and its status record dirty (R54, R60). -/
def Part.endCheck (n : Slot) (p : Part) : Part := (p.modPort n fun x => { x with check := none }).mark (slotRecordNo n)

/-- The part after an admission check whose identity has no fault, before the entry to ADMITTING (R60). -/
def Part.passCheck (n : Slot) (bytes : List Byte) (p : Part) : Part :=
  (p.endCheck n).modPort n fun x =>
    { x with identity := some (readIdentity bytes), identityShown := false, admitResult := .passed }

theorem Part.judgeCheck_of_error (n : Slot) (bytes : List Byte) (p : Part) :
    p.judgeCheck n true bytes = (p.endCheck n).modPort n fun x => { x with admitResult := .memory } := by
  unfold Part.judgeCheck
  dsimp only
  rw [if_pos rfl]
  rfl

theorem Part.judgeCheck_of_fault {n : Slot} {bytes : List Byte} {p : Part} {why : AdmitResult}
    (fault : identityFault p.plan.slots[n] (readIdentity bytes) = some why) :
    p.judgeCheck n false bytes = (p.endCheck n).modPort n fun x => { x with admitResult := why } := by
  unfold Part.judgeCheck
  dsimp only
  rw [if_neg Bool.false_ne_true, fault]
  rfl

theorem Part.judgeCheck_of_pass {n : Slot} {bytes : List Byte} {p : Part}
    (pass : identityFault p.plan.slots[n] (readIdentity bytes) = none) :
    p.judgeCheck n false bytes = (p.passCheck n bytes).enterAdmitting n := by
  unfold Part.judgeCheck
  dsimp only
  rw [if_neg Bool.false_ne_true, pass]
  rfl

theorem Part.endCheck_port (n : Slot) (p : Part) : (p.endCheck n).ports[n] = { p.ports[n] with check := none } :=
  Part.modPort_self n _ p

theorem Part.endCheck_dirty (n : Slot) (p : Part) : (p.endCheck n).status.dirty[slotRecordNo n] = true :=
  Status.mark_dirty_self p.status (slotRecordNo n)

theorem Part.besidesSlot_endCheck (n : Slot) (p : Part) : (p.endCheck n).besidesSlot n = p.besidesSlot n := by
  unfold Part.endCheck
  rw [Part.besidesSlot_mark, Part.besidesSlot_modPort]

theorem Part.passCheck_port (n : Slot) (bytes : List Byte) (p : Part) :
    (p.passCheck n bytes).ports[n] = { p.ports[n] with
      check := none, identity := some (readIdentity bytes), identityShown := false, admitResult := .passed } := by
  unfold Part.passCheck
  rw [Part.modPort_self, Part.endCheck_port]

theorem Part.passCheck_now (n : Slot) (bytes : List Byte) (p : Part) : (p.passCheck n bytes).now = p.now := rfl

theorem Part.passCheck_plan (n : Slot) (bytes : List Byte) (p : Part) : (p.passCheck n bytes).plan = p.plan := rfl

/-- What the judgement of a check makes of the port, when the slot is in QUARANTINE (R60 to R62). -/
theorem Part.judgeCheck_port {n : Slot} {p : Part} (h : p.ports[n].state ≠ .admitted) (err : Bool) (bytes : List Byte) :
    (p.judgeCheck n err bytes).ports[n].besidesCounters = Port.besidesCounters
      (if err = true then { p.ports[n] with check := none, admitResult := .memory }
       else match identityFault p.plan.slots[n] (readIdentity bytes) with
        | some why => { p.ports[n] with check := none, admitResult := why }
        | none =>
          let passed := { p.ports[n] with
            check := none, identity := some (readIdentity bytes), identityShown := false, admitResult := .passed }
          if p.plan.slots[n].admitDelay ≠ 0 then { passed with state := .admitting, stateTimer := some p.now }
          else passed.admittedBy p.plan.slots[n].key p.now) := by
  cases err with
  | true => rw [Part.judgeCheck_of_error, Part.modPort_self, Part.endCheck_port, if_pos (rfl : true = true)]
  | false =>
    rw [if_neg Bool.false_ne_true]
    cases fault : identityFault p.plan.slots[n] (readIdentity bytes) with
    | some why => rw [Part.judgeCheck_of_fault fault, Part.modPort_self, Part.endCheck_port]
    | none =>
      have unserved : (p.passCheck n bytes).ports[n].state ≠ .admitted := by rwa [Part.passCheck_port]
      rw [Part.judgeCheck_of_pass fault, Part.enterAdmitting_port unserved, Part.passCheck_port, Part.passCheck_now,
        Part.passCheck_plan]

theorem Part.judgeCheck_flights (n : Slot) (err : Bool) (bytes : List Byte) (p : Part) :
    (p.judgeCheck n err bytes).flights = p.flights := by
  cases err with
  | true => rw [Part.judgeCheck_of_error]; rfl
  | false =>
    cases fault : identityFault p.plan.slots[n] (readIdentity bytes) with
    | some why => rw [Part.judgeCheck_of_fault fault]; rfl
    | none => rw [Part.judgeCheck_of_pass fault, Part.enterAdmitting_flights]; rfl

theorem Part.judgeCheck_dirty (n : Slot) (err : Bool) (bytes : List Byte) (p : Part) :
    (p.judgeCheck n err bytes).status.dirty[slotRecordNo n] = true := by
  cases err with
  | true =>
    rw [Part.judgeCheck_of_error]
    exact Part.endCheck_dirty n p
  | false =>
    cases fault : identityFault p.plan.slots[n] (readIdentity bytes) with
    | some why =>
      rw [Part.judgeCheck_of_fault fault]
      exact Part.endCheck_dirty n p
    | none =>
      rw [Part.judgeCheck_of_pass fault]
      exact Part.enterAdmitting_dirty n _

theorem Part.besidesAdmission_judgeCheck (n : Slot) (err : Bool) (bytes : List Byte) (p : Part) :
    (p.judgeCheck n err bytes).besidesAdmission n = p.besidesAdmission n := by
  have ended : (p.endCheck n).besidesAdmission n = p.besidesAdmission n :=
    Part.besidesAdmission_of_slot n (Part.besidesSlot_endCheck n p)
  have moved : ∀ f, ((p.endCheck n).modPort n f).besidesAdmission n = p.besidesAdmission n := fun f =>
    (Part.besidesAdmission_of_slot n (Part.besidesSlot_modPort n f _)).trans ended
  cases err with
  | true =>
    rw [Part.judgeCheck_of_error]
    exact moved _
  | false =>
    cases fault : identityFault p.plan.slots[n] (readIdentity bytes) with
    | some why =>
      rw [Part.judgeCheck_of_fault fault]
      exact moved _
    | none =>
      rw [Part.judgeCheck_of_pass fault, Part.besidesAdmission_enterAdmitting]
      exact moved _

theorem Part.checkReadDone_of_check {p : Part} {n : Slot} {live : Bool} {data : List Byte} {rest : List Flight}
    (flights : p.flights = { purpose := .check n live, data := data } :: rest) (err : Bool) :
    p.checkReadDone err = if live = true then ((p.complete rest err).judgeCheck n err data).settleSlots p.engine
      else p.complete rest err := by
  unfold Part.checkReadDone
  rw [flights]

theorem memoryErrorPoint_unsettled : memoryErrorPoint ∉ settledPoints := by
  have apart : settledPoints.contains memoryErrorPoint = false := by decide +kernel
  exact fun h => absurd (apart.symm.trans (List.contains_iff_mem.mpr h)) nofun

/-- A read that completes with an error has raised MEMORY_ERROR at this instant (R16). -/
theorem Part.complete_memoryError (rest : List Flight) (p : Part) :
    (p.complete rest true).alarm.points[memoryErrorPoint].raw = true
      ∧ (p.complete rest true).alarm.points[memoryErrorPoint].lastEvent = some p.now :=
  ⟨Part.raiseEvent_raw memoryErrorPoint { p with flights := rest },
    Part.raiseEvent_lastEvent memoryErrorPoint { p with flights := rest }⟩

theorem identityFault_eq (plan : SlotPlan) (x : Identity) :
    identityFault plan x = if plan.expectedKind ≠ 0 ∧ x.kind ≠ plan.expectedKind then some .kind
      else if x.revision < plan.minRevision then some .revision else none := rfl

/-- Settles O48. -/
theorem admissionCheckIsJudged : Obligations.AdmissionCheckIsJudged := by
  unfold Obligations.AdmissionCheckIsJudged
  intro s n live err data rest running flights x plan done after kind revision passed
  have completed : s.part.complete rest err = after := rfl
  have done' : s.part.after (.admissionCheckReadComplete err) = if live = true then
      ((s.part.complete rest err).judgeCheck n err data).settleSlots s.part.engine else s.part.complete rest err := by
    rw [Part.after_admissionCheckReadComplete, Part.whileRunning_of_running running, Part.checkReadDone_of_check flights]
  refine ⟨fun dead => ?_, fun alive quarantine => ?_⟩
  · rw [exec_eq_after (c := .admissionCheckReadComplete err) nofun]
    refine congrArg _ (State.modPart_congr ?_)
    rw [done', if_neg (ne_true_of_eq_false dead), completed]
  · have event : s.part.after (.admissionCheckReadComplete err)
        = ((s.part.complete rest err).judgeCheck n err data).settleSlots s.part.engine := by
      rw [done', if_pos alive]
    have view : (s.part.complete rest err).besidesAlarms = done.besidesAlarms := Part.besidesAlarms_complete rest err s.part
    have port : (s.part.complete rest err).ports[n] = x := congrArg (·[n]) (Part.complete_ports rest err s.part)
    have slots : (s.part.complete rest err).plan = s.part.plan := (congrArg Part.plan view :)
    have now : (s.part.complete rest err).now = s.part.now := (congrArg Part.now view :)
    have unserved : (s.part.complete rest err).ports[n].state ≠ .admitted := by
      rw [port, quarantine]
      nofun
    refine ⟨_, exec_eq_after (c := .admissionCheckReadComplete err) nofun s, State.modPart_memory _ _, ?_⟩
    rw [State.modPart_part, event]
    refine ⟨?_, ?_, ?_, fun error => ?_, ?_⟩
    · rw [← completed, Part.besidesAdmission_of_slot n (Part.besidesSlot_settleSlots n _ _), Part.besidesAdmission_judgeCheck]
    · rw [Part.settleSlots_flights, Part.judgeCheck_flights]
      exact Part.flights_of_alarms view
    · exact Part.dirtyIn_settleSlots _ _ _ (Part.judgeCheck_dirty n err data _)
    · subst error
      rw [show ∀ p : Part, (p.settleSlots s.part.engine).alarm.points[memoryErrorPoint] = p.alarm.points[memoryErrorPoint] from
        fun p => Part.settleSlots_point memoryErrorPoint_unsettled _ p, Part.judgeCheck_of_error]
      exact Part.complete_memoryError rest s.part
    · rw [Part.settleSlots_port, Part.judgeCheck_port unserved, port, slots, now, identityFault_eq]
      refine congrArg Port.besidesCounters ?_
      split
      · rfl
      · by_cases wrong : plan.expectedKind ≠ 0 ∧ kind ≠ plan.expectedKind
        · rw [if_pos wrong, if_pos (show s.part.plan.slots[n].expectedKind ≠ 0
            ∧ (readIdentity data).kind ≠ s.part.plan.slots[n].expectedKind from wrong)]
        · rw [if_neg wrong, if_neg (show ¬(s.part.plan.slots[n].expectedKind ≠ 0
            ∧ (readIdentity data).kind ≠ s.part.plan.slots[n].expectedKind) from wrong)]
          by_cases old : revision < plan.minRevision
          · rw [if_pos old, if_pos (show (readIdentity data).revision < s.part.plan.slots[n].minRevision from old)]
          · rw [if_neg old, if_neg (show ¬(readIdentity data).revision < s.part.plan.slots[n].minRevision from old)]
            rfl

end Sys2Proof.Machine
end


section
/-! PROOFS. The completion of card READs and the sending of responses (R2, R3, R10, R16). -/
namespace Sys2Proof.Machine

/-- The responses a completed card READ makes: one or none (R10). -/
def Port.answers (x : Port) (tag : Tag) (fenced dropped err : Bool) (data : List Byte) : List Response :=
  if dropped = true then []
  else if fenced = true ∨ x.state = .fenced then [.refusal tag .fenced]
  else if x.state = .quarantine ∨ x.state = .admitting ∨ x.state = .admitted then
    (if err = true then [.refusal tag .memory] else [.readData tag data])
  else []

/-- A slot port after the completion of a card READ of it that makes the responses `made` (R3, R10). -/
def Port.answered (x : Port) (tag : Tag) (made : List Response) : Port :=
  { x with
    unsent := x.unsent ++ made
    tags := if made = [] then x.tags.filter (· != tag) else x.tags }

theorem readResponse_toList (x : Port) (tag : Tag) (fenced dropped err : Bool) (data : List Byte) :
    (readResponse x.state fenced dropped err tag data).toList = x.answers tag fenced dropped err data := by
  have fences : (fenced || x.state == .fenced) = true ↔ fenced = true ∨ x.state = .fenced := by simp
  unfold readResponse Port.answers
  by_cases gone : dropped = true
  · rw [if_pos gone, if_pos gone]
    rfl
  · rw [if_neg gone, if_neg gone]
    by_cases refused : fenced = true ∨ x.state = .fenced
    · rw [if_pos (fences.mpr refused), if_pos refused]
      rfl
    · rw [if_neg (fun e => refused (fences.mp e)), if_neg refused]
      by_cases linked : x.state = .quarantine ∨ x.state = .admitting ∨ x.state = .admitted
      · rw [if_pos (SlotState.linked_iff.mpr linked), if_pos linked]
        split <;> rfl
      · rw [if_neg (fun e => linked (SlotState.linked_iff.mp e)), if_neg linked]
        rfl

theorem Part.completeCard_eq (n : Slot) (tag : Tag) (fenced dropped err : Bool) (data : List Byte) (p : Part) :
    p.completeCard n tag fenced dropped err data
      = p.modPort n fun y => y.answered tag (p.ports[n].answers tag fenced dropped err data) := by
  rw [← readResponse_toList]
  unfold Part.completeCard
  cases readResponse p.ports[n].state fenced dropped err tag data with
  | some r => exact Part.modPort_congr rfl
  | none =>
    refine Part.modPort_congr ?_
    show _ = ({ p.ports[n] with unsent := p.ports[n].unsent ++ [], tags := _ } : Port)
    rw [List.append_nil]
    rfl

/-! ### What the passing of a period leaves of the ports -/

theorem Part.issueEngine_ports (p : Part) : p.issueEngine.ports = p.ports := by
  unfold Part.issueEngine
  dsimp only
  repeat' split
  all_goals rfl

theorem Part.closeInstant_ports (p : Part) : p.closeInstant.ports = p.ports := by
  unfold Part.closeInstant
  rw [Part.issueEngine_ports, Part.modEngine_ports]

theorem Part.passPeriod_ports (p : Part) : p.passPeriod.ports = p.ports := by
  show (p.whileRunning Part.closeInstant).ports = p.ports
  unfold Part.whileRunning
  split
  · exact Part.closeInstant_ports p
  · rfl

theorem Part.advance_ports (p : Part) : p.advance.ports = p.ports := by
  unfold Part.advance
  dsimp only
  split
  · exact Part.passPeriod_ports p
  · exact Part.passPeriod_ports p

theorem Part.turnover_ports (p : Part) : p.turnover.ports = p.ports := by
  unfold Part.turnover
  dsimp only
  split
  · exact Part.passPeriod_ports p
  · exact Part.passPeriod_ports p

/-- The slot that sends has a response made and not yet sent (R2). -/
theorem Part.unsent_of_sendDue {p : Part} {n : Slot} (h : p.sendDue = some n) :
    ∃ r rest, p.ports[n].unsent = r :: rest := by
  have waits := (firstFin_eq_some_iff.mp h).1
  cases e : p.ports[n].unsent with
  | nil =>
    rw [e] at waits
    cases waits
  | cons r rest => exact ⟨r, rest, rfl⟩

/-- With nothing waiting and nothing due, a step sends a response that waits to be sent. -/
theorem State.step_of_send {s : State} {n : Slot} (empty : s.pending = []) (idle : s.part.dueStep = none)
    (send : s.part.sendDue = some n) : step s = .next (s.modPart (Part.modPort n Port.sendOldest)) := by
  unfold step Sys2Proof.Machine.idle
  simp only [empty, idle, send]

/-- With nothing to send either, a step lets the oscillator period pass. -/
theorem State.step_of_rest {s : State} (empty : s.pending = []) (idle : s.part.dueStep = none)
    (send : s.part.sendDue = none) :
    step s = if s.part.turnoverDue then exec .secondTurnover s else .next (s.modPart Part.advance) := by
  unfold step Sys2Proof.Machine.idle
  simp only [empty, idle, send]

/-- Settles O30. -/
theorem cardReadCompletionAnswers : Obligations.CardReadCompletionAnswers := by
  unfold Obligations.CardReadCompletionAnswers
  refine ⟨?_, fun s empty idle => ?_⟩
  · intro s n tag fenced dropped err data rest running flights x made done
    rw [exec_eq_after (c := .readCompletion err) nofun]
    refine congrArg _ (State.modPart_congr ?_)
    have port : (s.part.complete rest err).ports[n] = x := congrArg (·[n]) (Part.complete_ports rest err s.part)
    rw [Part.after_readCompletion, Part.whileRunning_of_running running]
    unfold Part.cardReadDone
    rw [flights]
    dsimp only
    rw [Part.completeCard_eq, port]
    rfl
  · cases send : s.part.sendDue with
    | some n =>
      obtain ⟨r, rest, waits⟩ := Part.unsent_of_sendDue send
      have sent := State.step_of_send empty idle send
      refine .inl ⟨n, r, rest, waits, sent.trans (congrArg _ (State.modPart_congr (Part.modPort_congr ?_)))⟩
      unfold Port.sendOldest
      rw [waits]
    | none =>
      have passed := State.step_of_rest empty idle send
      refine .inr ?_
      by_cases turn : s.part.turnoverDue = true
      · refine ⟨_, (passed.trans (if_pos turn)).trans (exec_eq_after (c := .secondTurnover) nofun s), ?_⟩
        rw [State.modPart_part, Part.after_secondTurnover, if_pos turn, Part.turnover_ports]
      · refine ⟨_, passed.trans (if_neg turn), ?_⟩
        rw [State.modPart_part, Part.advance_ports]

end Sys2Proof.Machine
end


section
/-! PROOFS. The grant of a card's WRITE: its bytes in memory and its watched words handed over (R9, R13, R18, R19). -/
namespace Sys2Proof.Machine

/-! ### An observation leaves reset control alone -/

theorem Part.running_of_control {p q : Part} (h : q.control = p.control) : q.running = p.running := by
  unfold Part.running
  rw [h]

theorem Part.control_of_exchange {p q : Part} (h : q.besidesExchange = p.besidesExchange) : q.control = p.control :=
  (congrArg Part.control h :)

theorem Part.control_of_alarms {p q : Part} (h : q.besidesAlarms = p.besidesAlarms) : q.control = p.control :=
  (congrArg Part.control h :)

theorem Part.control_of_besidesSlot {n : Slot} {p q : Part} (h : q.besidesSlot n = p.besidesSlot n) : q.control = p.control :=
  (congrArg Part.control h :)

theorem Part.slotEvent_control {n : Slot} {f : Part → Part} {p : Part} (h : (f p).besidesSlot n = p.besidesSlot n) :
    (Part.slotEvent f p).control = p.control := Part.control_of_besidesSlot (Part.besidesSlot_slotEvent h)

theorem Part.ringFault_control (n : Slot) (p : Part) : (p.ringFault n).control = p.control :=
  Part.control_of_alarms (p := p.modPort n _) (Part.besidesAlarms_raiseEvent _ _)

theorem Part.judgeProducer_control (r : RingNo) (v : BitVec 16) (p : Part) : (p.judgeProducer r v).control = p.control := by
  unfold Part.judgeProducer
  split
  · rfl
  · split
    · rw [Part.control_of_exchange (Part.besidesExchange_settleExchange _ _),
        Part.control_of_exchange (Part.besidesExchange_takeProducer r v p), Part.modRing_control]
    · exact Part.ringFault_control _ p

theorem Part.reviewHigh_control (r : RingNo) (p : Part) : (p.reviewHigh r).control = p.control := by
  unfold Part.reviewHigh
  split <;> rfl

theorem Part.judgeConsumer_control (r : RingNo) (v : BitVec 16) (p : Part) : (p.judgeConsumer r v).control = p.control := by
  unfold Part.judgeConsumer
  split
  · rfl
  · split
    · rw [Part.control_of_alarms (Part.besidesAlarms_report _ _),
        Part.control_of_exchange (Part.besidesExchange_settleExchange _ _), Part.reviewHigh_control, Part.modRing_control]
    · exact Part.ringFault_control _ p

theorem Part.judgeHeartbeat_control (n : Slot) (v : Word) (p : Part) : (p.judgeHeartbeat n v).control = p.control := by
  unfold Part.judgeHeartbeat
  dsimp only
  split
  · rw [Part.control_of_alarms (Part.besidesAlarms_report _ _),
      Part.control_of_exchange (Part.besidesExchange_settleExchange _ _), Part.modPort_control]
  · split
    · rfl
    · exact Part.slotEvent_control (Part.besidesSlot_loseHeartbeat n _ p)

theorem Part.fenceCommand_control (n : Slot) (p : Part) : (p.fenceCommand n).control = p.control := by
  unfold Part.fenceCommand
  split
  · exact Part.slotEvent_control (Part.besidesSlot_fenceKeepingPower n _ p)
  · rfl

theorem Part.releaseCommand_control (n : Slot) (p : Part) : (p.releaseCommand n).control = p.control := by
  unfold Part.releaseCommand
  split
  · split
    · rfl
    · exact Part.slotEvent_control (Part.besidesSlot_takeRelease n p)
  · split
    · exact Part.slotEvent_control (Part.besidesSlot_enterPowering n p)
    · rfl
  · rfl

/-- A watched word's owner never touches reset control (R18, R192). -/
theorem Part.observe_control (k : WatchedWord) (v : Word) (p : Part) : (p.observe k v).control = p.control := by
  cases k with
  | egressProducer n c => exact Part.judgeProducer_control _ _ (p.setWatched (.egressProducer n c) v)
  | ingressConsumer n c => exact Part.judgeConsumer_control _ _ (p.setWatched (.ingressConsumer n c) v)
  | heartbeat n =>
    show (if (p.setWatched (.heartbeat n) v).ports[n].heartbeat.supervising then
      (p.setWatched (.heartbeat n) v).judgeHeartbeat n v else p.setWatched (.heartbeat n) v).control = _
    split
    · exact Part.judgeHeartbeat_control n v _
    · rfl
  | admitWord n =>
    show (p.observeAdmit n v).control = _
    unfold Part.observeAdmit
    dsimp only
    split <;> rfl
  | apply => rfl
  | logConsumer =>
    show (p.observeLogConsumer v).control = _
    unfold Part.observeLogConsumer
    dsimp only
    split <;> rfl
  | cutoff => exact Part.control_of_alarms (p := p.setWatched .cutoff v) (Part.besidesAlarms_setCutoff _ _)
  | seconds => rfl
  | slotCommand n =>
    show (p.observeSlotCommand n v).control = _
    unfold Part.observeSlotCommand
    dsimp only
    split
    · exact Part.fenceCommand_control n _
    · split
      · exact Part.releaseCommand_control n _
      · rfl

theorem Part.observe_running (k : WatchedWord) (v : Word) (p : Part) : (p.observe k v).running = p.running :=
  Part.running_of_control (Part.observe_control k v p)

/-! ### Handing words over -/

/-- While the part runs, handing a word over is its owner's observation of it (R18). -/
theorem State.handOver_of_running {s : State} (running : s.part.running = true) (k : WatchedWord) (v : Word) :
    s.handOver k v = s.modPart (Part.observe k v) := by
  have command : ∀ c : Instr, c ≠ .accessGrant → s.part.after c = s.part.observe k v →
      (match exec c s with
        | .next t => t
        | _ => s) = s.modPart (Part.observe k v) := by
    intro c ne same
    rw [exec_eq_after ne]
    exact State.modPart_congr same
  have runs : ∀ f, s.part.whileRunning f = f s.part := Part.whileRunning_of_running running
  unfold State.handOver
  cases k with
  | slotCommand n =>
    show (match (if v = 1 then some (Instr.fence n) else if v = 2 then some (Instr.release n) else none) with
      | some c => _
      | none => _) = _
    by_cases one : v = 1
    · rw [if_pos one]
      exact command (.fence n) nofun (by rw [Part.after_fence, runs, one]; rfl)
    · rw [if_neg one]
      by_cases two : v = 2
      · rw [if_pos two]
        exact command (.release n) nofun (by rw [Part.after_release, runs, two]; rfl)
      · rw [if_neg two]
        refine State.modPart_congr ?_
        show _ = Part.observeSlotCommand n v s.part
        unfold Part.observeSlotCommand
        rw [if_neg one, if_neg two]
  | egressProducer n c => exact command (.egressProducer n c v) nofun (by rw [Part.after_egressProducer, runs]; rfl)
  | ingressConsumer n c => exact command (.ingressConsumer n c v) nofun (by rw [Part.after_ingressConsumer, runs]; rfl)
  | heartbeat n => exact command (.heartbeat n v) nofun (by rw [Part.after_heartbeat, runs]; rfl)
  | admitWord n => exact command (.admitWord n v) nofun (by rw [Part.after_admitWord, runs]; rfl)
  | apply => exact command (.apply v) nofun (by rw [Part.after_apply, runs]; rfl)
  | logConsumer => exact command (.logConsumer v) nofun (by rw [Part.after_logConsumer, runs]; rfl)
  | cutoff => exact command (.cutoff v) nofun (by rw [Part.after_cutoff, runs]; rfl)
  | seconds => exact command (.seconds v) nofun (by rw [Part.after_seconds, runs]; rfl)

/-- The owners of the words `words` of a WRITE observe them, one after the other (R18). -/
def Part.observeWords (words : List (Nat × WatchedWord)) (start : Nat) (data : List Byte) (p : Part) : Part :=
  words.foldl (fun q x => q.observe x.2 (mergeWord (q.watched.get x.2) x.1 start data)) p

theorem Part.observeWrite_eq (start : Nat) (data : List Byte) (p : Part) :
    p.observeWrite start data = if observedWords start data.length = [] then p
      else p.handingOver (Part.observeWords (observedWords start data.length) start data) := by
  unfold Part.observeWrite
  split
  · next none => rw [if_pos none]
  · next none => rw [if_neg none]; rfl

/-- The words of a WRITE handed over one by one are its observation by the part alone (R18). -/
theorem State.handOver_words (words : List (Nat × WatchedWord)) (start : Nat) (data : List Byte) (s : State)
    (running : s.part.running = true) :
    words.foldl (fun u x => u.handOver x.2 (mergeWord (u.part.watched.get x.2) x.1 start data)) s
      = s.modPart (Part.observeWords words start data) := by
  induction words generalizing s with
  | nil => rfl
  | cons x words ih =>
    rw [List.foldl_cons, State.handOver_of_running running, ih]
    · rfl
    · rw [State.modPart_part, Part.observe_running]
      exact running

/-! ### Merged words (R18) -/

theorem mergedByte_eq (copy : Word) (a start : Nat) (data : List Byte) (i : Nat) :
    mergedByte copy a start data i = if start ≤ a + i ∧ a + i < start + data.length then data.getD (a + i - start) 0
      else copy.extractLsb' (8 * i) 8 := by
  have byte : BitVec.ofNat 8 (copy.toNat / 256 ^ i) = copy.extractLsb' (8 * i) 8 := by
    apply BitVec.eq_of_toNat_eq
    rw [BitVec.extractLsb'_toNat, Nat.shiftRight_eq_div_pow, BitVec.toNat_ofNat, Nat.pow_mul]
  unfold mergedByte
  rw [byte]

/-- Byte `i` of a word made of four bytes (R194). -/
theorem extractLsb'_ofLe (f : Nat → Byte) {i : Nat} (h : i < 4) :
    (BitVec.ofNat 32 (ofLe ((List.range 4).map f))).extractLsb' (8 * i) 8 = f i := by
  have word : ofLe ((List.range 4).map f)
      = (f 0).toNat + 256 * ((f 1).toNat + 256 * ((f 2).toNat + 256 * ((f 3).toNat + 256 * 0))) := rfl
  have b0 := (f 0).isLt
  have b1 := (f 1).isLt
  have b2 := (f 2).isLt
  have b3 := (f 3).isLt
  apply BitVec.eq_of_toNat_eq
  rw [BitVec.extractLsb'_toNat, Nat.shiftRight_eq_div_pow, BitVec.toNat_ofNat, word]
  obtain rfl | rfl | rfl | rfl : i = 0 ∨ i = 1 ∨ i = 2 ∨ i = 3 := by omega
  all_goals omega

/-- Settles O26. -/
theorem grantedWriteIsStoredAndObserved : Obligations.GrantedWriteIsStoredAndObserved := by
  unfold Obligations.GrantedWriteIsStoredAndObserved
  refine ⟨?_, fun copy a start data i low => ?_⟩
  · intro s n tag addr data rest running card check head stored words opened handed t
    have granted : exec .accessGrant s = .next (stored.modPart fun p => p.observeWrite addr.toNat data) := by
      rw [exec_accessGrant_of_running running, State.grant_of_card card, State.grantCard_of_request check head]
      have ports : ((s.part.modPort n fun x =>
            { x with queue := rest, credits := if x.link then x.credits + 1 else x.credits }).modPort n fun x =>
              { x with tags := x.tags.filter (· != tag) })
          = s.part.modPort n fun x =>
            { x with queue := rest, credits := if x.link then x.credits + 1 else x.credits, tags := x.tags.filter (· != tag) } :=
        Part.modPort_modPort n _ _ _
      refine congrArg _ ?_
      show State.modPart _ { memory := s.memory.write addr.toNat data, pending := s.pending, part := { ((s.part.modPort n fun x =>
            { x with queue := rest, credits := if x.link then x.credits + 1 else x.credits }).modPort n fun x =>
              { x with tags := x.tags.filter (· != tag) }) with arbiter := { lastGroup := .card, lastSlot := n } } } = _
      rw [ports]
      rfl
    have ends : stored.modPart (fun p => p.observeWrite addr.toNat data) = t := by
      have eq := Part.observeWrite_eq addr.toNat data stored.part
      by_cases none : words = []
      · exact (State.modPart_eq_self (eq.trans (if_pos none))).trans (if_pos none).symm
      · refine (State.modPart_congr (g := Part.handingOver (Part.observeWords words addr.toNat data))
          (eq.trans (if_neg none))).trans (Eq.trans ?_ (if_neg none).symm)
        have folded : handed = _ := State.handOver_words words addr.toNat data opened running
        rw [folded]
        rfl
    have memory : t.memory = s.memory.write addr.toNat data := by
      rw [← ends]
      rfl
    refine ⟨granted.trans (congrArg _ ends), fun a out => ?_, fun canonical i bound => ?_⟩
    · rw [memory]
      exact Memory.get_write_out _ _ _ _ out
    · rw [memory]
      exact Memory.get_write_in canonical _ _ _ bound
  · unfold mergeWord
    rw [extractLsb'_ofLe _ low, mergedByte_eq]

end Sys2Proof.Machine
end


section
/-! PROOFS. The end of a header read (R90 to R94): what the end of its event keeps of a head, and what it makes of each case. -/
namespace Sys2Proof.Machine

/-! ### Heads at the end of an event -/

/-- Two heads of one frame: they differ in what was found of their condition and of their gate. -/
def Head.sameFrame (y z : Head) : Prop := z.header = y.header ∧ z.taken = y.taken ∧ z.dests = y.dests

theorem Part.keepsDown_of_copyingTo {p q : Part} (view : q.besidesExchange = p.besidesExchange) {r : RingNo} {y z : Head}
    (same : y.sameFrame z) {d : Slot} (copying : p.copyingTo r d = true → q.copyingTo r d = true)
    (h : p.keepsDown r y d = true) : q.keepsDown r z d = true := by
  unfold Part.keepsDown at *
  rw [Part.admitted_of_exchange view, Part.plan_of_exchange view, same.1]
  simp only [Bool.or_eq_true] at *
  exact h.imp_left (Or.imp_right copying)

/-- Ring `r` keeps the head `y` of one frame, whose destinations the rules of this instant all keep, with its consumer at `c`. -/
def Part.Keeping (r : RingNo) (y : Head) (c : BitVec 16) (p : Part) : Prop :=
  ∃ z, p.rings[r].take = .head z ∧ y.sameFrame z ∧ p.rings[r].consumer = c ∧ r ∉ p.engine.takeList
    ∧ ∀ d ∈ z.dests, p.keepsDown r z d = true

/-- What a change keeps of a head it does not retire: it is the same frame still. -/
theorem Part.Keeping.of_ring {r : RingNo} {y : Head} {c : BitVec 16} {p q : Part} (h : p.Keeping r y c)
    (view : q.besidesExchange = p.besidesExchange)
    (ring : ∀ z, p.rings[r].take = .head z → ∃ z', z.sameFrame z' ∧ q.rings[r] = { p.rings[r] with take := .head z' })
    (list : r ∈ q.engine.takeList → r ∈ p.engine.takeList)
    (copying : ∀ d, p.copyingTo r d = true → q.copyingTo r d = true) : q.Keeping r y c := by
  obtain ⟨z, take, ⟨header, taken, dests⟩, consumer, off, kept⟩ := h
  obtain ⟨z', same, e⟩ := ring z take
  refine ⟨z', by rw [e], ⟨same.1.trans header, same.2.1.trans taken, same.2.2.trans dests⟩, by rw [e]; exact consumer,
    fun mem => off (list mem), fun d mem => ?_⟩
  exact Part.keepsDown_of_copyingTo view same (copying d) (kept d (same.2.2 ▸ mem))

theorem Head.sameFrame_refl (y : Head) : y.sameFrame y := ⟨rfl, rfl, rfl⟩

theorem Part.copyingTo_congr {p q : Part} (h : q.engine.copy = p.engine.copy) (r : RingNo) (d : Slot) :
    q.copyingTo r d = p.copyingTo r d := by
  unfold Part.copyingTo
  rw [h]

/-- The retirement of another ring's frame leaves the copies of this ring's head (R99). -/
theorem Part.copyingTo_keepDests_ne {r r' : RingNo} (ne : r' ≠ r) (y : Head) (why : Discard) (keep : Slot → Bool) (p : Part)
    (d : Slot) : (p.keepDests r' y why keep).copyingTo r d = p.copyingTo r d := by
  rcases Part.keepDests_copy r' y why keep p with e | e
  · exact Part.copyingTo_congr e r d
  · unfold Part.copyingTo
    rw [e]
    cases p.engine.copy with
    | none => rfl
    | some c =>
      dsimp only [Option.map_some]
      by_cases of : c.ring = r'
      · have other : (c.ring == r) = false := beq_eq_false_iff_ne.mpr fun e => ne (of.symm.trans e)
        rw [if_pos of]
        simp only [other, Bool.false_and]
      · rw [if_neg of]

/-- A frame whose destinations are all kept stays as it is. -/
theorem Part.keepDests_of_all {r : RingNo} {y : Head} {keep : Slot → Bool} (all : ∀ d ∈ y.dests, keep d = true) (why : Discard)
    (p : Part) : p.keepDests r y why keep = p := by
  rcases Part.keepDests_cases r y why keep p with ⟨-, e⟩ | ⟨-, some, none, -, -⟩ | ⟨-, -, -, -⟩
  · exact e
  · rw [List.filter_eq_self.mpr all] at none
    exact absurd none some
  · unfold Part.keepDests
    rw [List.filter_eq_self.mpr all]
    exact if_pos rfl

theorem Part.Settling.keeping {r : RingNo} {y : Head} {c : BitVec 16} {p q : Part} (s : p.Settling q) (h : p.Keeping r y c) :
    q.Keeping r y c := by
  have view := s.besidesExchange
  have same : q.rings[r] = p.rings[r] →
      ∀ z, p.rings[r].take = .head z → ∃ z', z.sameFrame z' ∧ q.rings[r] = { p.rings[r] with take := .head z' } :=
    fun e z take => ⟨z, z.sameFrame_refl, by rw [e, ← take]⟩
  cases s with
  | @keepDests r' z head =>
    by_cases e : r' = r
    · subst e
      obtain ⟨z', take, rest⟩ := h
      obtain rfl : z' = z := by
        have take' := (Part.headRecord_eq_some.mp head).2
        rw [take] at take'
        injection take'
      rw [Part.keepDests_of_all rest.2.2.2]
      exact ⟨z', take, rest⟩
    · exact h.of_ring view (same (Part.keepDests_ring_ne e z _ _ p)) (Part.mem_takeList_keepDests_ne e z _ _ p).mp
        fun d copying => by rwa [Part.copyingTo_keepDests_ne e]
  | orderJoins stood => exact h.of_ring view (same rfl) (Part.mem_takeList_orderJoins r stood p).mp fun _ => id
  | @startCopy r' z d copy head ready =>
    refine h.of_ring view (fun z' take => ?_) (by rw [Part.startCopy_engine]; exact id) fun d' copying => ?_
    · by_cases e : r' = r
      · subst e
        obtain ⟨g, ring⟩ := Part.startCopy_ring_self (Part.headRecord_eq_some.mp head).2 d
        have take' := (Part.headRecord_eq_some.mp head).2
        rw [take] at take'
        injection take' with frame
        subst frame
        exact ⟨{ z' with gatePassed := g }, ⟨rfl, rfl, rfl⟩, ring⟩
      · exact same (Part.startCopy_ring_ne e z d p) z' take
    · unfold Part.copyingTo at copying
      rw [copy] at copying
      cases copying
  | reviewHeads =>
    refine h.of_ring view (fun z take => ?_) id fun _ => id
    rcases p.reviewHeads_ring r with e | ⟨z', since, why, take', e⟩
    · exact same e z take
    · rw [take] at take'
      injection take' with frame
      subst frame
      exact ⟨{ z with blockedSince := since, blockReason := why }, ⟨rfl, rfl, rfl⟩, e⟩
  | @issueHeader r' rest free list =>
    obtain ⟨z, take, frame, consumer, off, kept⟩ := h
    have ne : r' ≠ r := by
      rintro rfl
      exact off (by rw [list]; exact List.mem_cons_self)
    exact Part.Keeping.of_ring ⟨z, take, frame, consumer, off, kept⟩ view (same (Part.setTake_ring_ne ne .reading p))
      (Part.mem_takeList_setTake_ne ne .reading p).mp fun _ => id
  | @issueCopy c' a free copy due =>
    refine h.of_ring view (same rfl) id fun d copying => ?_
    unfold Part.copyingTo at *
    rw [copy] at copying
    exact copying
  | endBatch | markInstant | issueIndex => exact h.of_ring view (same rfl) id fun _ => id

theorem Part.Settles.keeping {r : RingNo} {y : Head} {c : BitVec 16} {p q : Part} (s : p.Settles q) (h : p.Keeping r y c) :
    q.Keeping r y c :=
  s.keeps (P := Part.Keeping r y c) (fun _ _ => Part.Settling.keeping) h

/-- Ring `r` has a head that still owes a copy to `d`, a slot that is ADMITTED. -/
def Part.Holding (r : RingNo) (d : Slot) (p : Part) : Prop :=
  p.admitted d = true ∧ r ∉ p.engine.takeList ∧ ∃ y, p.headRecord r = some y ∧ d ∈ y.dests

theorem Part.Holding.of_head {r : RingNo} {d : Slot} {p q : Part} (h : p.Holding r d)
    (view : q.besidesExchange = p.besidesExchange) (list : r ∈ q.engine.takeList → r ∈ p.engine.takeList)
    (head : ∀ y, p.headRecord r = some y → d ∈ y.dests → ∃ z, q.headRecord r = some z ∧ d ∈ z.dests) : q.Holding r d := by
  obtain ⟨admitted, off, y, some, mem⟩ := h
  exact ⟨(Part.admitted_of_exchange view d).trans admitted, fun m => off (list m), head y some mem⟩

theorem Part.Settling.holding {r : RingNo} {d : Slot} {p q : Part} (s : p.Settling q) (h : p.Holding r d) : q.Holding r d := by
  have view := s.besidesExchange
  have same : q.rings[r] = p.rings[r] → ∀ y, p.headRecord r = some y → d ∈ y.dests → ∃ z, q.headRecord r = some z ∧ d ∈ z.dests :=
    fun e y some mem => ⟨y, (Part.headRecord_congr (congrArg Ring.take e)).trans some, mem⟩
  cases s with
  | @keepDests r' z head =>
    by_cases e : r' = r
    · subst e
      obtain ⟨admitted, off, y, some, mem⟩ := h
      obtain rfl : y = z := Option.some.inj (some.symm.trans head)
      have kept : d ∈ y.dests.filter (p.keepsDown r' y) := List.mem_filter.mpr ⟨mem, by simp [Part.keepsDown, admitted]⟩
      rcases Part.keepDests_cases r' y .destDown (p.keepsDown r' y) p with ⟨-, e⟩ | ⟨k, -, none, -, -⟩ | ⟨k, -, -, e⟩
      · rw [e]
        exact ⟨admitted, off, y, some, mem⟩
      · rw [none] at kept
        exact absurd kept List.not_mem_nil
      · rw [e]
        refine ⟨?_, off, { y with dests := y.dests.filter (p.keepsDown r' y) }, ?_, kept⟩
        · rw [← e, Part.admitted_of_exchange view]
          exact admitted
        exact Part.headRecord_eq_some.mpr ⟨Part.egress_of_headRecord head, congrArg Ring.take (Part.modRing_self r' _ _)⟩
    · exact h.of_head view (Part.mem_takeList_keepDests_ne e z _ _ p).mp (same (Part.keepDests_ring_ne e z _ _ p))
  | orderJoins stood => exact h.of_head view (Part.mem_takeList_orderJoins r stood p).mp (same rfl)
  | @startCopy r' z d' copy head ready =>
    refine h.of_head view (by rw [Part.startCopy_engine]; exact id) fun y some mem => ?_
    by_cases e : r' = r
    · subst e
      obtain rfl : y = z := Option.some.inj (some.symm.trans head)
      obtain ⟨egress, take⟩ := Part.headRecord_eq_some.mp head
      obtain ⟨g, ring⟩ := Part.startCopy_ring_self take d'
      exact ⟨{ y with gatePassed := g }, Part.headRecord_eq_some.mpr ⟨egress, by rw [ring]⟩, mem⟩
    · exact same (Part.startCopy_ring_ne e z d' p) y some mem
  | reviewHeads =>
    refine h.of_head view id fun y some mem => ?_
    rcases p.reviewHeads_ring r with e | ⟨z', since, why, take', e⟩
    · exact same e y some mem
    · obtain ⟨egress, take⟩ := Part.headRecord_eq_some.mp some
      rw [take] at take'
      injection take' with frame
      subst frame
      exact ⟨{ y with blockedSince := since, blockReason := why }, Part.headRecord_eq_some.mpr ⟨egress, by rw [e]⟩, mem⟩
  | @issueHeader r' rest free list =>
    obtain ⟨admitted, off, head⟩ := h
    have ne : r' ≠ r := by
      rintro rfl
      exact off (by rw [list]; exact List.mem_cons_self)
    exact Part.Holding.of_head ⟨admitted, off, head⟩ view (Part.mem_takeList_setTake_ne ne .reading p).mp
      (same (Part.setTake_ring_ne ne .reading p))
  | endBatch | markInstant | issueIndex | issueCopy => exact h.of_head view id (same rfl)

theorem Part.Settles.holding {r : RingNo} {d : Slot} {p q : Part} (s : p.Settles q) (h : p.Holding r d) : q.Holding r d :=
  s.keeps (P := Part.Holding r d) (fun _ _ => Part.Settling.holding) h

/-- At the end of an event a ring has no head but one it had before, and that one with no more destinations. -/
theorem Part.Settling.head_origin {r : RingNo} {p q : Part} (s : p.Settling q) {z : Head} (head : q.headRecord r = some z) :
    ∃ y, p.headRecord r = some y ∧ z.header = y.header ∧ z.taken = y.taken ∧ z.dests ⊆ y.dests := by
  have same : q.rings[r] = p.rings[r] →
      ∃ y, p.headRecord r = some y ∧ z.header = y.header ∧ z.taken = y.taken ∧ z.dests ⊆ y.dests :=
    fun e => ⟨z, (Part.headRecord_congr (congrArg Ring.take e)).symm.trans head, rfl, rfl, List.Subset.refl _⟩
  cases s with
  | @keepDests r' y some =>
    by_cases e : r' = r
    · subst e
      rcases Part.keepDests_cases r' y .destDown (p.keepsDown r' y) p with ⟨-, e⟩ | ⟨k, -, -, -, e⟩ | ⟨k, -, -, e⟩ <;>
        rw [e] at head
      · exact ⟨z, head, rfl, rfl, List.Subset.refl _⟩
      · exact absurd (((Part.headless_retire r' _ _).headRecord).symm.trans head) nofun
      · have take := (Part.headRecord_eq_some.mp head).2
        rw [Part.modRing_self] at take
        injection take with frame
        subst frame
        exact ⟨y, some, rfl, rfl, List.filter_sublist.subset⟩
    · exact same (Part.keepDests_ring_ne e y _ _ p)
  | @startCopy r' y d copy some ready =>
    by_cases e : r' = r
    · subst e
      obtain ⟨g, ring⟩ := Part.startCopy_ring_self (Part.headRecord_eq_some.mp some).2 d
      have take := (Part.headRecord_eq_some.mp head).2
      rw [ring] at take
      injection take with frame
      subst frame
      exact ⟨y, some, rfl, rfl, List.Subset.refl _⟩
    · exact same (Part.startCopy_ring_ne e y d p)
  | reviewHeads =>
    obtain ⟨y, some, header, taken, dests⟩ := Part.reviewHeads_headRecord head
    exact ⟨y, some, header.symm, taken.symm, dests ▸ List.Subset.refl _⟩
  | @issueHeader r' rest free list =>
    by_cases e : r' = r
    · subst e
      have take := (Part.headRecord_eq_some.mp head).2
      exact absurd ((congrArg Ring.take (Part.setTake_ring_self r' .reading p)).symm.trans take) nofun
    · exact same (Part.setTake_ring_ne e .reading p)
  | orderJoins | endBatch | markInstant | issueIndex | issueCopy => exact same rfl

theorem Part.Settles.head_origin {r : RingNo} {p q : Part} (s : p.Settles q) {z : Head} (head : q.headRecord r = some z) :
    ∃ y, p.headRecord r = some y ∧ z.header = y.header ∧ z.taken = y.taken ∧ z.dests ⊆ y.dests := by
  induction s generalizing z with
  | refl => exact ⟨z, head, rfl, rfl, List.Subset.refl _⟩
  | tail _ last ih =>
    obtain ⟨x, mid, header, taken, dests⟩ := last.head_origin head
    obtain ⟨y, some, header', taken', dests'⟩ := ih mid
    exact ⟨y, some, header.trans header', taken.trans taken', List.Subset.trans dests dests'⟩

end Sys2Proof.Machine
end


section
/-! PROOFS. HEADER_READ_COMPLETE (R90 to R94, R104). -/
namespace Sys2Proof.Machine

/-! ### The take of a frame (R92, R93) -/

theorem entriesFor_eq (n : Nat) : entriesFor n = if n ≤ 112 then 1 else 1 + (n - 112 + 127) / 128 := rfl

theorem FrameHeader.malformed_iff (h : FrameHeader) (n : Slot) :
    h.malformed n = true ↔ (12 ≤ h.dest ∧ h.dest ≤ 254) ∨ h.dest = n.val ∨ h.entries = 0 ∨ 16 < h.entries ∨ h.length = 0
      ∨ 2032 < h.length ∨ h.entries ≠ (if h.length ≤ 112 then 1 else 1 + (h.length - 112 + 127) / 128)
      ∨ (8 ≤ h.gate ∧ h.gate ≤ 254) := by
  unfold FrameHeader.malformed
  rw [entriesFor_eq]
  simp only [Bool.or_eq_true, Bool.and_eq_true, decide_eq_true_iff, beq_iff_eq, bne_iff_ne, or_assoc]

/-- The destinations that have the ring for a frame (R93). -/
def Part.presentDests (p : Part) (c : Cls) (set : List Slot) : List Slot :=
  set.filter fun d => p.plan.rings[ingressRing d c].present

/-- The destinations whose ring can hold a frame (R93). -/
def Part.fittingDests (p : Part) (c : Cls) (entries : Nat) (set : List Slot) : List Slot :=
  (p.presentDests c set).filter fun d => entries ≤ p.plan.rings[ingressRing d c].count

/-- The counts of a take: the copies owed, and those that never can be made (R92, R93). -/
def Part.chargeTake (r : RingNo) (h : FrameHeader) (p : Part) : Part :=
  let n := ringSlot r
  let set := p.destinations n (ringClass r) h
  let present := p.presentDests (ringClass r) set
  let fits := p.fittingDests (ringClass r) h.entries set
  let p := p.modCounters n fun k => { k with owed := k.owed + BitVec.ofNat 32 set.length }
  let p := if present.length = set.length then p else p.discard .destDown n (set.length - present.length)
  if fits.length = present.length then p else p.discard .oversize n (present.length - fits.length)

/-- The head record of a frame just taken (R92). -/
def Part.takenHead (p : Part) (r : RingNo) (h : FrameHeader) : Head :=
  { header := h, taken := p.cabinetTime
    dests := p.fittingDests (ringClass r) h.entries (p.destinations (ringSlot r) (ringClass r) h)
    blockedSince := none, blockReason := .none, gatePassed := false }

/-- What a change of the counters alone leaves. -/
def Part.sameRings (p q : Part) : Prop := q.rings = p.rings ∧ q.besidesExchange = p.besidesExchange

theorem Part.sameRings_discard (why : Discard) (n : Slot) (k : Nat) (p : Part) : p.sameRings (p.discard why n k) :=
  ⟨Part.discard_rings why n k p, Part.besidesExchange_discard why n k p⟩

theorem Part.sameRings.trans {p q r : Part} (h : p.sameRings q) (h' : q.sameRings r) : p.sameRings r :=
  ⟨h'.1.trans h.1, h'.2.trans h.2⟩

theorem Part.sameRings_chargeTake (r : RingNo) (h : FrameHeader) (p : Part) : p.sameRings (p.chargeTake r h) := by
  have counted : p.sameRings (p.modCounters (ringSlot r) fun k =>
      { k with owed := k.owed + BitVec.ofNat 32 (p.destinations (ringSlot r) (ringClass r) h).length }) :=
    ⟨rfl, Part.besidesExchange_modCounters _ _ p⟩
  have cut : ∀ (q : Part) (a b : Nat) (why : Discard), p.sameRings q →
      p.sameRings (if a = b then q else q.discard why (ringSlot r) (b - a)) := by
    intro q a b why same
    split
    · exact same
    · exact same.trans (Part.sameRings_discard _ _ _ q)
  exact cut _ _ _ .oversize (cut _ _ _ .destDown counted)

theorem Part.chargeTake_owed (r : RingNo) (h : FrameHeader) (p : Part) :
    (p.chargeTake r h).ports[ringSlot r].counters.owed = p.ports[ringSlot r].counters.owed
      + BitVec.ofNat 32 (p.destinations (ringSlot r) (ringClass r) h).length := by
  have counted : (p.modCounters (ringSlot r) fun k =>
      { k with owed := k.owed + BitVec.ofNat 32 (p.destinations (ringSlot r) (ringClass r) h).length }).ports[ringSlot r].counters.owed
        = p.ports[ringSlot r].counters.owed + BitVec.ofNat 32 (p.destinations (ringSlot r) (ringClass r) h).length := by
    unfold Part.modCounters
    rw [Part.modPort_self]
  have cut : ∀ (q : Part) (a b : Nat) (why : Discard),
      (if a = b then q else q.discard why (ringSlot r) (b - a)).ports[ringSlot r].counters.owed
        = q.ports[ringSlot r].counters.owed := by
    intro q a b why
    split
    · rfl
    · rw [Part.discard_counters, if_pos rfl]
      cases why <;> rfl
  exact (cut _ _ _ .oversize).trans ((cut _ _ _ .destDown).trans counted)

/-- A frame with no destination that can hold it is retired, and any other becomes the head (R92, R93). -/
theorem Part.takeFrame_eq (r : RingNo) (h : FrameHeader) (p : Part) :
    p.takeFrame r h = if (p.takenHead r h).dests = [] then (p.chargeTake r h).retire r h.entries
      else (p.chargeTake r h).setTake r (.head (p.takenHead r h)) := by
  have time : (p.chargeTake r h).cabinetTime = p.cabinetTime := (congrArg Part.cabinetTime (p.sameRings_chargeTake r h).2 :)
  have taken : p.takeFrame r h = if (p.takenHead r h).dests = [] then (p.chargeTake r h).retire r h.entries
      else (p.chargeTake r h).setTake r (.head { p.takenHead r h with taken := (p.chargeTake r h).cabinetTime }) := rfl
  rw [taken, time]
  rfl

theorem Part.besidesExchange_takeFrame {r : RingNo} (egress : isEgress r = true) (h : FrameHeader) (p : Part) :
    (p.takeFrame r h).besidesExchange = p.besidesExchange := by
  rw [Part.takeFrame_eq]
  split
  · rw [Part.besidesExchange_retire egress, (p.sameRings_chargeTake r h).2]
  · rw [Part.besidesExchange_setTake, (p.sameRings_chargeTake r h).2]

theorem Part.takeFrame_owed (r : RingNo) (h : FrameHeader) (p : Part) :
    (p.takeFrame r h).ports[ringSlot r].counters.owed = p.ports[ringSlot r].counters.owed
      + BitVec.ofNat 32 (p.destinations (ringSlot r) (ringClass r) h).length := by
  rw [Part.takeFrame_eq, ← Part.chargeTake_owed]
  split
  · exact congrArg (fun ports : Vector Port 12 => ports[ringSlot r].counters.owed) (Part.retire_ports r h.entries _)
  · rfl

/-- The slots owed a copy of a frame, in one list (R93). -/
theorem Part.destinations_eq (p : Part) (n : Slot) (c : Cls) (h : FrameHeader) :
    p.destinations n c h = (List.finRange 12).filter fun d =>
      if h.dest = 255 then d != n && p.admitted d && p.plan.rings[ingressRing d c].count != 0 else d.val == h.dest := by
  unfold Part.destinations
  by_cases broadcast : h.dest = 255
  · rw [if_pos broadcast]
    refine List.filter_congr fun d _ => ?_
    rw [if_pos broadcast]
    rfl
  · rw [if_neg broadcast]
    refine List.filter_congr fun d _ => ?_
    rw [if_neg broadcast]

theorem Part.mem_fittingDests {p : Part} {c : Cls} {entries : Nat} {set : List Slot} {d : Slot} :
    d ∈ p.fittingDests c entries set ↔ d ∈ set ∧ p.plan.rings[ingressRing d c].count ≠ 0
      ∧ entries ≤ p.plan.rings[ingressRing d c].count := by
  unfold Part.fittingDests Part.presentDests
  rw [List.mem_filter, List.mem_filter, decide_eq_true_iff, RingPlan.present_iff, and_assoc]

/-! ### The end of a header read (R90) -/

/-- Every posted entry of a ring with a malformed header is abandoned, before the event (R91). -/
def Part.abandonRing (r : RingNo) (p : Part) : Part :=
  ((((p.modRing r fun x => { x with consumer := x.producer }).writeIndex r p.rings[r].producer).modCounters (ringSlot r) fun k =>
    { k with malformed := k.malformed + 1 }).setTake r .idle)

theorem Part.malformedHeader_eq (r : RingNo) (p : Part) :
    p.malformedHeader r = (p.abandonRing r).raiseEvent (ringFaultPoint (ringSlot r)) := rfl

theorem Part.besidesExchange_abandonRing {r : RingNo} (egress : isEgress r = true) (p : Part) :
    (p.abandonRing r).besidesExchange = p.besidesExchange := by
  unfold Part.abandonRing
  rw [Part.besidesExchange_setTake, Part.besidesExchange_modCounters, Part.besidesExchange_writeIndex]
  exact Part.besidesExchange_modRing _ _ _ (by simp [Ring.besidesTake, egress])

/-- An event is taken the same whatever the exchange holds. -/
theorem Part.raiseEvent_besidesExchange (i : Point) (p : Part) :
    (p.raiseEvent i).besidesExchange = p.besidesExchange.raiseEvent i := rfl

theorem Part.headerReadDone_of_header {p : Part} {r : RingNo} {data : List Byte} {rest : List Flight}
    (flights : p.flights = { purpose := .header r, data := data } :: rest) (err : Bool) :
    p.headerReadDone err = ((p.complete rest err).headerDone r err data).settleExchange p.engine := by
  unfold Part.headerReadDone
  rw [flights]

theorem Part.headerDone_of_not_reading {p : Part} {r : RingNo} (h : p.rings[r].take ≠ .reading) (err : Bool) (data : List Byte) :
    p.headerDone r err data = p := if_pos h

theorem Part.headerDone_of_unread {p : Part} {r : RingNo} {err : Bool} {data : List Byte} (reading : p.rings[r].take = .reading)
    (unread : err = true ∨ ((readHeader data).malformed (ringSlot r) = false
      ∧ p.rings[r].occupancy < (readHeader data).entries)) : p.headerDone r err data = p.setTake r .waiting := by
  unfold Part.headerDone
  rw [if_neg (Classical.not_not.mpr reading)]
  rcases unread with failed | ⟨sound, short⟩
  · rw [if_pos failed]
  · by_cases failed : err = true
    · rw [if_pos failed]
    · rw [if_neg failed, if_neg (ne_true_of_eq_false sound), if_pos short]

theorem Part.headerDone_of_malformed {p : Part} {r : RingNo} {data : List Byte} (reading : p.rings[r].take = .reading)
    (malformed : (readHeader data).malformed (ringSlot r) = true) : p.headerDone r false data = p.malformedHeader r := by
  unfold Part.headerDone
  rw [if_neg (Classical.not_not.mpr reading), if_neg Bool.false_ne_true, if_pos malformed]

theorem Part.headerDone_of_sound {p : Part} {r : RingNo} {data : List Byte} (reading : p.rings[r].take = .reading)
    (sound : (readHeader data).malformed (ringSlot r) = false) (posted : (readHeader data).entries ≤ p.rings[r].occupancy) :
    p.headerDone r false data = p.takeFrame r (readHeader data) := by
  unfold Part.headerDone
  rw [if_neg (Classical.not_not.mpr reading), if_neg Bool.false_ne_true, if_neg (ne_true_of_eq_false sound),
    if_neg (Nat.not_lt.mpr posted)]

theorem Counters.owed_of_besidesDown {a b : Counters} (h : a.besidesDown = b.besidesDown) : a.owed = b.owed :=
  (congrArg Counters.owed h :)

theorem Counters.malformed_of_besidesDown {a b : Counters} (h : a.besidesDown = b.besidesDown) : a.malformed = b.malformed :=
  (congrArg Counters.malformed h :)

theorem Part.headless_setTake {r : RingNo} {t : Take} (bare : ∀ y, t ≠ .head y) (p : Part) :
    (p.setTake r t).Headless r p.rings[r].consumer := by
  unfold Part.Headless
  rw [Part.setTake_ring_self]
  exact ⟨bare, rfl⟩

/-! ### What the end of the event keeps of a take -/

section taken
variable {q t : Part} {r : RingNo} {h : FrameHeader}

theorem Part.Settles.taken_owed (settles : (q.takeFrame r h).Settles t) :
    t.ports[ringSlot r].counters.owed = q.ports[ringSlot r].counters.owed
      + BitVec.ofNat 32 (q.destinations (ringSlot r) (ringClass r) h).length :=
  (Counters.owed_of_besidesDown (settles.counters (ringSlot r))).trans (Part.takeFrame_owed r h q)

theorem Part.Settles.taken_head (settles : (q.takeFrame r h).Settles t) {y : Head} (head : t.headRecord r = some y) :
    y.header = h ∧ y.taken = q.cabinetTime ∧ y.dests ⊆ (q.takenHead r h).dests := by
  obtain ⟨z, some, header, taken, dests⟩ := settles.head_origin head
  rw [Part.takeFrame_eq] at some
  split at some
  · exact absurd ((Part.headless_retire r _ _).headRecord.symm.trans some) nofun
  · have take := (Part.headRecord_eq_some.mp some).2
    rw [Part.setTake_ring_self] at take
    injection take with frame
    subst frame
    exact ⟨header, taken, dests⟩

theorem Part.Settles.taken_holds (settles : (q.takeFrame r h).Settles t) (egress : isEgress r = true) {d : Slot}
    (fit : d ∈ (q.takenHead r h).dests) (up : q.admitted d = true) : ∃ y, t.headRecord r = some y ∧ d ∈ y.dests := by
  have some : (q.takenHead r h).dests ≠ [] := fun e => List.not_mem_nil (e ▸ fit)
  rw [Part.takeFrame_eq, if_neg some] at settles
  have holds : ((q.chargeTake r h).setTake r (.head (q.takenHead r h))).Holding r d := by
    refine ⟨?_, Part.not_mem_takeList_setTake (t := .head _) nofun _, _,
      Part.headRecord_eq_some.mpr ⟨egress, congrArg Ring.take (Part.setTake_ring_self _ _ _)⟩, fit⟩
    rw [Part.admitted_of_exchange (Part.besidesExchange_setTake _ _ _),
      Part.admitted_of_exchange (q.sameRings_chargeTake r h).2]
    exact up
  exact (settles.holding holds).2.2

theorem Part.Settles.taken_retired (settles : (q.takeFrame r h).Settles t) (empty : (q.takenHead r h).dests = []) :
    t.headRecord r = none ∧ t.rings[r].consumer = q.rings[r].consumer + BitVec.ofNat 16 h.entries := by
  rw [Part.takeFrame_eq, if_pos empty] at settles
  have ends := settles.headless (Part.headless_retire r h.entries (q.chargeTake r h))
  refine ⟨ends.headRecord, ends.2.trans ?_⟩
  rw [(q.sameRings_chargeTake r h).1]

end taken

theorem Part.abandonRing_ring (r : RingNo) (p : Part) :
    (p.abandonRing r).rings[r] = { p.rings[r] with consumer := p.rings[r].producer, take := .idle } := by
  refine (Part.setTake_ring_self r .idle _).trans ?_
  show ({ (p.modRing r fun x => { x with consumer := x.producer }).rings[r] with take := Take.idle } : Ring) = _
  rw [Part.modRing_self]

theorem Part.abandonRing_malformed (r : RingNo) (p : Part) :
    (p.abandonRing r).ports[ringSlot r].counters.malformed = p.ports[ringSlot r].counters.malformed + 1 := by
  have ports : (p.abandonRing r).ports = (p.modPort (ringSlot r) fun x =>
      { x with counters := { x.counters with malformed := x.counters.malformed + 1 } }).ports := rfl
  have port := Part.modPort_self (ringSlot r)
    (fun x : Port => { x with counters := { x.counters with malformed := x.counters.malformed + 1 } }) p
  exact (congrArg (fun v : Vector Port 12 => v[ringSlot r].counters.malformed) ports).trans
    (congrArg (fun x : Port => x.counters.malformed) port)

theorem Part.Settles.abandoned {q t : Part} {r : RingNo}
    (settles : (q.malformedHeader r).Settles t) (egress : isEgress r = true) :
    t.rings[r].take = .idle ∧ t.rings[r].consumer = q.rings[r].producer
      ∧ t.ports[ringSlot r].counters.malformed = q.ports[ringSlot r].counters.malformed + 1
      ∧ t.besidesExchange = (q.raiseEvent (ringFaultPoint (ringSlot r))).besidesExchange := by
  rw [Part.malformedHeader_eq] at settles
  have alarms := Part.besidesAlarms_raiseEvent (ringFaultPoint (ringSlot r)) (q.abandonRing r)
  have rests : ((q.abandonRing r).raiseEvent (ringFaultPoint (ringSlot r))).Resting r .idle q.rings[r].producer := by
    unfold Part.Resting
    rw [Part.rings_of_alarms alarms, Part.engine_of_alarms alarms, Part.abandonRing_ring]
    exact ⟨rfl, rfl, Part.not_mem_takeList_setTake (t := .idle) nofun _⟩
  have ends := settles.resting (t := .idle) nofun rests
  have counters := settles.counters (ringSlot r)
  rw [Part.ports_of_alarms alarms] at counters
  refine ⟨ends.1, ends.2.1, (Counters.malformed_of_besidesDown counters).trans (Part.abandonRing_malformed r q), ?_⟩
  rw [settles.besidesExchange, Part.raiseEvent_besidesExchange, Part.besidesExchange_abandonRing egress,
    ← Part.raiseEvent_besidesExchange]

/-- Settles O38: the first case of R90 that applies, and what the end of the event keeps of it. -/
theorem headerReadIsActedOn : Obligations.HeaderReadIsActedOn := by
  unfold Obligations.HeaderReadIsActedOn
  intro s r data rest err running sound egress flights n x h done after malformed occupancy into owed
  have completed : s.part.complete rest err = after := rfl
  have view : after.besidesAlarms = done.besidesAlarms := Part.besidesAlarms_complete rest err s.part
  have rings : after.rings = s.part.rings := Part.rings_of_alarms (p := done) view
  have engine : after.engine = s.part.engine := Part.engine_of_alarms (p := done) view
  have ports : after.ports = s.part.ports := Part.ports_of_alarms (p := done) view
  have plan : after.plan = s.part.plan := (congrArg Part.plan view :)
  have ring : after.rings[r] = x := congrArg (·[r]) rings
  have listed : x.take ≠ .listed → r ∉ after.engine.takeList := by
    intro unlisted mem
    rw [engine] at mem
    exact unlisted (sound.2.1 r mem)
  have event : s.part.after (.headerReadComplete err) = (after.headerDone r err data).settleExchange s.part.engine := by
    rw [Part.after_headerReadComplete, Part.whileRunning_of_running running, Part.headerReadDone_of_header flights, completed]
  have bad : malformed ↔ h.malformed n = true := (FrameHeader.malformed_iff h n).symm
  obtain ⟨t, run, memory, settles⟩ := exec_settles event nofun
  refine ⟨t, run, memory, fun still => ?_, fun reading unread => ?_, fun reading read broken => ?_,
    fun reading read whole posted => ?_⟩
  · rw [Part.headerDone_of_not_reading (by rwa [ring])] at settles
    have counters := settles.counters n
    rw [ports] at counters
    refine ⟨settles.besidesExchange, Counters.owed_of_besidesDown counters, Counters.malformed_of_besidesDown counters,
      fun quiet => ?_, fun waits => ?_, fun y head kept => ?_⟩
    · have rests : after.Resting r x.take x.consumer :=
        ⟨congrArg Ring.take ring, congrArg Ring.consumer ring, listed (by rcases quiet with e | e <;> rw [e] <;> nofun)⟩
      have ends := settles.resting (by rcases quiet with e | e <;> rw [e] <;> nofun) rests
      exact ⟨ends.1, ends.2.1⟩
    · exact settles.listed ⟨.inl ((congrArg Ring.take ring).trans waits), congrArg Ring.consumer ring⟩
    · have keeping : after.Keeping r y x.consumer := by
        refine ⟨y, (congrArg Ring.take ring).trans head, y.sameFrame_refl, congrArg Ring.consumer ring,
          listed (by rw [head]; nofun), fun d mem => ?_⟩
        have same : after.keepsDown r y d = s.part.keepsDown r y d := by
          unfold Part.keepsDown Part.admitted Part.copyingTo
          rw [ports, engine, plan]
        rw [same]
        exact kept d mem
      obtain ⟨z, take, ⟨header, taken, dests⟩, consumer, -⟩ := settles.keeping keeping
      exact ⟨consumer, z, take, header, taken, dests⟩
  · have waits : after.headerDone r err data = after.setTake r .waiting := by
      refine Part.headerDone_of_unread ((congrArg Ring.take ring).trans reading) (unread.imp_right fun ⟨whole, short⟩ => ?_)
      exact ⟨Bool.eq_false_iff.mpr fun e => whole (bad.mpr e), by rw [ring]; exact short⟩
    rw [waits] at settles
    have rests : (after.setTake r .waiting).Resting r .waiting x.consumer := by
      unfold Part.Resting
      rw [Part.setTake_ring_self, ring]
      exact ⟨rfl, rfl, Part.not_mem_takeList_setTake (t := .waiting) nofun _⟩
    have ends := settles.resting (t := .waiting) nofun rests
    exact ⟨ends.1, ends.2.1, settles.besidesExchange.trans (Part.besidesExchange_setTake _ _ _)⟩
  · subst read
    rw [Part.headerDone_of_malformed ((congrArg Ring.take ring).trans reading) (bad.mp broken)] at settles
    obtain ⟨take, consumer, counted, besides⟩ := settles.abandoned egress
    rw [ports] at counted
    exact ⟨take, consumer.trans (congrArg Ring.producer ring), counted, besides⟩
  · subst read
    have sound' : h.malformed (ringSlot r) = false := Bool.eq_false_iff.mpr fun e => whole (bad.mpr e)
    rw [Part.headerDone_of_sound ((congrArg Ring.take ring).trans reading) sound' (by rw [ring]; exact posted)] at settles
    have admitted : ∀ d, after.admitted d = s.part.admitted d := by
      intro d
      unfold Part.admitted
      rw [ports]
    have set : after.destinations (ringSlot r) (ringClass r) h = owed := by
      rw [Part.destinations_eq, plan]
      simp only [admitted]
      rfl
    have fits : ∀ d, d ∈ (after.takenHead r h).dests ↔ d ∈ owed ∧ (into d).count ≠ 0 ∧ h.entries ≤ (into d).count := by
      intro d
      rw [← set]
      refine Part.mem_fittingDests.trans ?_
      rw [plan]
    have time : after.cabinetTime = s.part.cabinetTime := (congrArg Part.cabinetTime view :)
    have charged := settles.taken_owed
    rw [ports, set] at charged
    refine ⟨settles.besidesExchange.trans (Part.besidesExchange_takeFrame egress h after), charged, fun y head => ?_,
      fun d mem up present enough => settles.taken_holds egress ((fits d).mpr ⟨mem, present, enough⟩) ((admitted d).trans up),
      fun none => ?_⟩
    · obtain ⟨header, taken, dests⟩ := settles.taken_head head
      exact ⟨header, taken.trans time, fun d mem => ((fits d).mp (dests mem)).1⟩
    · have empty : (after.takenHead r h).dests = [] := by
        rw [List.eq_nil_iff_forall_not_mem]
        intro d mem
        obtain ⟨owes, -, enough⟩ := (fits d).mp mem
        exact absurd (none d owes) (Nat.not_lt.mpr enough)
      obtain ⟨head, consumer⟩ := settles.taken_retired empty
      exact ⟨head, consumer.trans (congrArg (fun x => x.consumer + _) ring)⟩

end Sys2Proof.Machine
end


section
/-! PROOFS. The grant of a copy's ingress producer word (R95, R97, R104, R113). -/
namespace Sys2Proof.Machine

/-! ### A head whose destinations the rules of this instant sweep (R116, R117) -/

/-- Ring `r`, which had the head `y` with its consumer at `c`, keeps the destinations `left` of it, or has retired the frame
where there are none. -/
def Part.Leaves (r : RingNo) (y : Head) (left : List Slot) (c : BitVec 16) (p : Part) : Prop :=
  if left = [] then p.Headless r (c + BitVec.ofNat 16 y.header.entries)
    ∧ p.Pending { ring := r, value := c + BitVec.ofNat 16 y.header.entries }
  else p.Keeping r { y with dests := left } c

theorem Part.leaves_retire {r : RingNo} {y : Head} {c : BitVec 16} {p : Part} (consumer : p.rings[r].consumer = c) :
    (p.retire r y.header.entries).Leaves r y [] c := by
  subst consumer
  refine (if_pos rfl).mpr ⟨Part.headless_retire r _ p, .inl ?_⟩
  rw [Part.retire_indexQueue]
  exact mem_requestIndex_self _ _

theorem Part.Settling.leaves {r : RingNo} {y : Head} {left : List Slot} {c : BitVec 16} {p q : Part} (s : p.Settling q)
    (h : p.Leaves r y left c) : q.Leaves r y left c := by
  unfold Part.Leaves at *
  split at h
  · next none =>
    rw [if_pos none]
    exact ⟨s.headless h.1, s.pending (w := { ring := r, value := _ }) h.1.1 h.2⟩
  · next some =>
    rw [if_neg some]
    exact s.keeping h

theorem Part.Settles.leaves {r : RingNo} {y : Head} {left : List Slot} {c : BitVec 16} {p q : Part} (s : p.Settles q)
    (h : p.Leaves r y left c) : q.Leaves r y left c :=
  s.keeps (P := Part.Leaves r y left c) (fun _ _ => Part.Settling.leaves) h

/-- The destinations that the rules of this instant keep while no copy of the head is in progress (R116, R117). -/
def Part.keepsUp (p : Part) (r : RingNo) (y : Head) (d : Slot) : Bool :=
  p.admitted d || (y.header.dest != 255 && p.plan.classes[ringClass r].policy == .hold)

theorem Part.keepsDown_of_quiet {p : Part} (quiet : p.engine.copy = none) (r : RingNo) (y : Head) (d : Slot) :
    p.keepsDown r y d = p.keepsUp r y d := by
  unfold Part.keepsDown Part.keepsUp Part.copyingTo
  rw [quiet]
  simp only [Bool.or_false]

/-- Ring `r` has the head `y` and its consumer at `c`, and no copy is in progress, in a part that `p` is but for the
exchange. -/
def Part.Swept (p : Part) (r : RingNo) (y : Head) (c : BitVec 16) (q : Part) : Prop :=
  q.besidesExchange = p.besidesExchange ∧ q.engine.copy = none ∧ r ∉ q.engine.takeList ∧ q.rings[r].take = .head y
    ∧ q.rings[r].consumer = c

theorem Part.Swept.keepDests {p q : Part} {r : RingNo} {y : Head} {c : BitVec 16} (egress : isEgress r = true)
    (some : y.dests ≠ []) (h : p.Swept r y c q) :
    (q.keepDests r y .destDown (q.keepsDown r y)).Leaves r y (y.dests.filter (p.keepsUp r y)) c := by
  obtain ⟨view, quiet, off, take, consumer⟩ := h
  have up : q.keepsDown r y = p.keepsUp r y := by
    funext d
    rw [Part.keepsDown_of_quiet quiet]
    unfold Part.keepsUp
    rw [Part.admitted_of_exchange view, Part.plan_of_exchange view]
  have left : ∀ l, ∀ d ∈ y.dests.filter (p.keepsUp r y), q.keepsDown r { y with dests := l } d = true := by
    intro l d mem
    have := (List.mem_filter.mp mem).2
    rw [← up] at this
    exact this
  rcases Part.keepDests_cases r y .destDown (q.keepsDown r y) q with ⟨all, e⟩ | ⟨k, -, none, -, e⟩ | ⟨k, remain, -, e⟩
  · have same : y.dests.filter (p.keepsUp r y) = y.dests := by
      rw [← up]
      exact List.filter_eq_self.mpr all
    rw [e, same]
    exact (if_neg some).mpr ⟨y, take, ⟨rfl, rfl, rfl⟩, consumer, off, all⟩
  · rw [e, ← up, none]
    exact Part.leaves_retire (p := q.discard .destDown (ringSlot r) k) consumer
  · rw [e]
    by_cases none : y.dests.filter (p.keepsUp r y) = []
    · exact absurd (up ▸ none) remain
    · refine (if_neg none).mpr ⟨_, congrArg Ring.take (Part.modRing_self r _ _), ⟨rfl, rfl, by rw [up]⟩, ?_, off, ?_⟩
      · exact (congrArg Ring.consumer (Part.modRing_self r _ _)).trans consumer
      · intro d mem
        rw [up] at mem
        exact Part.keepsDown_of_copyingTo (p := q) (y := { y with dests := y.dests.filter (p.keepsUp r y) })
          ((Part.besidesExchange_modRing _ _ _ (by simp [Ring.besidesTake, egress])).trans (Part.besidesExchange_discard _ _ _ q))
          ⟨rfl, rfl, rfl⟩ id (left _ d mem)

/-- The destination rules sweep a head with no copy of it in progress (R116, R117). -/
theorem Part.sweepDests_leaves {p : Part} {r : RingNo} {y : Head} (head : p.headRecord r = some y) (some : y.dests ≠ [])
    (quiet : p.engine.copy = none) (off : r ∉ p.engine.takeList) :
    p.sweepDests.Leaves r y (y.dests.filter (p.keepsUp r y)) p.rings[r].consumer := by
  obtain ⟨egress, take⟩ := Part.headRecord_eq_some.mp head
  let c := p.rings[r].consumer
  refine forEach_each (Before := fun i q => i = r → p.Swept r y c q)
    (After := fun i q => i = r → q.Leaves r y (y.dests.filter (p.keepsUp r y)) c) (fun i q h e => ?_) (fun i j q ne h e => ?_)
    (fun i j q ne h e => ?_) (fun i _ => ⟨rfl, quiet, off, take, rfl⟩) r rfl
  · subst e
    have swept := h rfl
    rw [Part.headRecord_eq_some.mpr ⟨egress, swept.2.2.2.1⟩]
    exact swept.keepDests egress some
  · subst e
    obtain ⟨view, quiet, off, take, consumer⟩ := h rfl
    split
    · next z other =>
      have ring := Part.keepDests_ring_ne ne z .destDown (q.keepsDown i z) q
      refine ⟨(Part.Settling.keepDests other).besidesExchange.trans view, ?_,
        fun mem => off ((Part.mem_takeList_keepDests_ne ne z _ _ q).mp mem), ?_, ?_⟩
      · rcases Part.keepDests_copy i z .destDown (q.keepsDown i z) q with e | e <;> rw [e, quiet]
        rfl
      · exact (congrArg Ring.take ring).trans take
      · exact (congrArg Ring.consumer ring).trans consumer
    · exact ⟨view, quiet, off, take, consumer⟩
  · have leaves := h e
    split
    · next other => exact (Part.Settling.keepDests other).leaves leaves
    · exact leaves

/-! ### The delivery (R95, R97, R104, R113) -/

/-- The destination ring of a delivered frame, and the counts of it, with the copy ended (R95, R97, R104). -/
def Part.stowed (c : Copy) (h : Head) (p : Part) : Part :=
  let into := ingressRing c.dest (ringClass c.ring)
  let p := p.modRing into fun x => { x with producer := x.producer + BitVec.ofNat 16 h.header.entries }
  let p := p.reviewHigh into
  let p := p.modCounters (ringSlot c.ring) fun k => { k with delivered := k.delivered + 1 }
  let p := p.modCounters c.dest fun k => { k with received := k.received + 1 }
  p.endCopy

/-- The destinations of a head but the one its frame was delivered to (R113). -/
def Part.keepOthers (c : Copy) (h : Head) (p : Part) : Part :=
  if h.dests.filter (· != c.dest) = [] then p.retire c.ring h.header.entries
  else p.modRing c.ring fun x => { x with take := .head { h with dests := h.dests.filter (· != c.dest) } }

theorem Part.deliver_of_head {c : Copy} {h : Head} {p : Part} (head : p.headRecord c.ring = some h) :
    p.deliver c = (p.stowed c h).keepOthers c h := by
  unfold Part.deliver
  rw [head]
  rfl

/-- The destination ring with the delivered frame (R95, R97). -/
def Part.filled (p : Part) (c : Copy) (h : Head) : Ring :=
  let into := ingressRing c.dest (ringClass c.ring)
  let x := { p.rings[into] with producer := p.rings[into].producer + BitVec.ofNat 16 h.header.entries }
  { x with high := p.plan.rings[into].present && highFlag p.plan.rings[into] x.occupancy x.high }

theorem Part.stowed_rings (c : Copy) (h : Head) (p : Part) :
    (p.stowed c h).rings = (p.modRing (ingressRing c.dest (ringClass c.ring)) fun _ => p.filled c h).rings := by
  have filled : (p.stowed c h).rings = ((p.modRing (ingressRing c.dest (ringClass c.ring)) fun x =>
      { x with producer := x.producer + BitVec.ofNat 16 h.header.entries }).reviewHigh
        (ingressRing c.dest (ringClass c.ring))).rings := rfl
  rw [filled, Part.reviewHigh_of_ingress (isEgress_ingressRing _ _), Part.modRing_modRing]
  exact congrArg Part.rings (Part.modRing_congr rfl)

theorem Part.stowed_engine (c : Copy) (h : Head) (p : Part) : (p.stowed c h).engine = { p.engine with copy := none } := by
  have ended : (p.stowed c h).engine = { ((p.modRing (ingressRing c.dest (ringClass c.ring)) fun x =>
      { x with producer := x.producer + BitVec.ofNat 16 h.header.entries }).reviewHigh
        (ingressRing c.dest (ringClass c.ring))).engine with copy := none } := rfl
  rw [ended, Part.reviewHigh_of_ingress (isEgress_ingressRing _ _)]
  rfl

theorem Part.besidesExchange_stowed (c : Copy) (h : Head) (p : Part) :
    (p.stowed c h).besidesExchange
      = (p.modRing (ingressRing c.dest (ringClass c.ring)) fun _ => p.filled c h).besidesExchange := by
  unfold Part.stowed
  dsimp only
  rw [Part.reviewHigh_of_ingress (isEgress_ingressRing _ _), Part.modRing_modRing]
  refine (Part.besidesExchange_modEngine _ _ rfl).trans ?_
  rw [Part.besidesExchange_modCounters, Part.besidesExchange_modCounters]
  exact congrArg Part.besidesExchange (Part.modRing_congr rfl)

theorem Part.stowed_ports (c : Copy) (h : Head) (p : Part) :
    (p.stowed c h).ports = ((p.modCounters (ringSlot c.ring) fun k => { k with delivered := k.delivered + 1 }).modCounters c.dest
      fun k => { k with received := k.received + 1 }).ports := by
  unfold Part.stowed
  dsimp only
  rw [Part.reviewHigh_of_ingress (isEgress_ingressRing _ _)]
  rfl

theorem Part.modCounters_port (n m : Slot) (f : Counters → Counters) (p : Part) :
    (p.modCounters n f).ports[m].counters = if m = n then f p.ports[m].counters else p.ports[m].counters := by
  unfold Part.modCounters
  split
  · next e => subst e; rw [Part.modPort_self]
  · next ne => rw [Part.modPort_ne (Ne.symm ne)]

theorem Part.stowed_counters (c : Copy) (h : Head) (p : Part) (n : Slot) :
    (p.stowed c h).ports[n].counters.delivered = p.ports[n].counters.delivered + (if n = ringSlot c.ring then 1 else 0)
      ∧ (p.stowed c h).ports[n].counters.received = p.ports[n].counters.received + (if n = c.dest then 1 else 0) := by
  have port := congrArg (fun v : Vector Port 12 => v[n].counters) (p.stowed_ports c h)
  rw [port, Part.modCounters_port, Part.modCounters_port]
  constructor <;> split <;> split <;> simp

theorem Part.keepOthers_ports (c : Copy) (h : Head) (p : Part) : (p.keepOthers c h).ports = p.ports := by
  unfold Part.keepOthers
  split
  · exact Part.retire_ports _ _ p
  · rfl

theorem Part.besidesExchange_keepOthers {c : Copy} (egress : isEgress c.ring = true) (h : Head) (p : Part) :
    (p.keepOthers c h).besidesExchange = p.besidesExchange := by
  unfold Part.keepOthers
  split
  · exact Part.besidesExchange_retire egress _ p
  · exact Part.besidesExchange_modRing _ _ _ rfl

theorem ingressRing_ne_of_egress {r : RingNo} (egress : isEgress r = true) (d : Slot) (c : Cls) : ingressRing d c ≠ r := by
  rintro rfl
  rw [isEgress_ingressRing] at egress
  cases egress

/-- What a delivery and the rules of its instant leave of the head (R113, R116, R117). -/
theorem Part.sweepDests_deliver_leaves {c : Copy} {h : Head} {p : Part} (head : p.headRecord c.ring = some h)
    (off : c.ring ∉ p.engine.takeList) :
    (p.deliver c).sweepDests.Leaves c.ring h ((h.dests.filter (· != c.dest)).filter (p.keepsUp c.ring h))
      p.rings[c.ring].consumer := by
  obtain ⟨egress, take⟩ := Part.headRecord_eq_some.mp head
  have ring : (p.stowed c h).rings[c.ring] = p.rings[c.ring] := by
    have := congrArg (fun v : Vector Ring 96 => v[c.ring]) (p.stowed_rings c h)
    exact this.trans (Part.modRing_ne (ingressRing_ne_of_egress egress _ _) _ p)
  rw [Part.deliver_of_head head]
  unfold Part.keepOthers
  split
  · next none =>
    rw [none]
    refine (Part.settles_sweepDests _).leaves ?_
    exact Part.leaves_retire (congrArg Ring.consumer ring)
  · next some =>
    let y : Head := { h with dests := h.dests.filter (· != c.dest) }
    let q := (p.stowed c h).modRing c.ring fun x => { x with take := .head y }
    have view : q.besidesExchange = (p.stowed c h).besidesExchange := Part.besidesExchange_modRing _ _ _ rfl
    have has : q.headRecord c.ring = .some y :=
      Part.headRecord_eq_some.mpr ⟨egress, congrArg Ring.take (Part.modRing_self c.ring _ _)⟩
    have engine : q.engine = { p.engine with copy := none } := p.stowed_engine c h
    have leaves := Part.sweepDests_leaves has some (by rw [engine]) (by rw [engine]; exact off)
    have up : q.keepsUp c.ring y = p.keepsUp c.ring h := by
      funext d
      have besides := view.trans (p.besidesExchange_stowed c h)
      unfold Part.keepsUp
      rw [Part.admitted_of_exchange besides, Part.plan_of_exchange besides]
      rfl
    have consumer : q.rings[c.ring].consumer = p.rings[c.ring].consumer := by
      have same := congrArg Ring.consumer (Part.modRing_self c.ring (fun x => { x with take := .head y }) (p.stowed c h))
      have before : (p.stowed c h).rings[c.ring].consumer = p.rings[c.ring].consumer := congrArg Ring.consumer ring
      exact same.trans before
    rw [up, consumer] at leaves
    exact leaves

theorem Counters.delivered_of_besidesDown {a b : Counters} (h : a.besidesDown = b.besidesDown) :
    a.delivered = b.delivered := (congrArg Counters.delivered h :)

theorem Counters.received_of_besidesDown {a b : Counters} (h : a.besidesDown = b.besidesDown) :
    a.received = b.received := (congrArg Counters.received h :)

/-- Settles O29: the delivery, and what the end of its event keeps of the frame. -/
theorem grantedProducerWordDelivers : Obligations.GrantedProducerWordDelivers := by
  unfold Obligations.GrantedProducerWordDelivers
  intro s c h running sound engine waits copy head into old plan new left past
  obtain ⟨egress, take⟩ := Part.headRecord_eq_some.mp head
  let q := s.engineServed.part
  have rings : q.rings = s.part.rings := rfl
  have head' : q.headRecord c.ring = some h := (Part.headRecord_congr (q := q) (p := s.part) rfl).trans head
  have off : c.ring ∉ s.part.engine.takeList := fun mem => absurd (take.symm.trans (sound.2.1 _ mem)) nofun
  have leaves := (Part.settles_settleRest s.part.engine _).leaves (Part.sweepDests_deliver_leaves head' off)
  rw [← Part.settleExchange_eq] at leaves
  have view : ((q.deliver c).settleExchange s.part.engine).besidesExchange
      = (q.modRing into fun _ => q.filled c h).besidesExchange := by
    rw [Part.besidesExchange_settleExchange, Part.deliver_of_head head', Part.besidesExchange_keepOthers egress,
      Part.besidesExchange_stowed]
  have moved : (q.modRing into fun _ => q.filled c h).rings[into] = q.filled c h := Part.modRing_self into _ q
  have alarms := Part.besidesAlarms_report [slotPoint c.dest 3] ((q.deliver c).settleExchange s.part.engine)
  have reported := Part.rings_of_alarms alarms
  refine ⟨_, exec_grant_copyProducer running engine waits copy, ?_, ?_, ?_, ?_, fun n => ?_, ?_, fun i ne => ?_, ?_⟩
  · rw [State.modPart_memory]
    have value : q.deliveredProducer c = c.destPos + BitVec.ofNat 16 h.header.entries := by
      unfold Part.deliveredProducer
      rw [head']
    rw [← value]
    rfl
  all_goals rw [State.modPart_part, State.store_part]
  · rw [reported, Part.producer_of_exchange view, moved]
    rfl
  · rw [reported, Part.consumer_of_exchange view (isEgress_ingressRing _ _), moved]
    rfl
  · rw [reported, Part.high_of_exchange view, moved]
    rfl
  · obtain ⟨delivered, received⟩ := q.stowed_counters c h n
    have stowed : (q.deliver c).ports = (q.stowed c h).ports := by rw [Part.deliver_of_head head', Part.keepOthers_ports]
    have counters := (Part.settles_settleExchange s.part.engine (q.deliver c)).counters n
    have ports : q.ports = s.part.ports := rfl
    rw [stowed] at counters
    rw [Part.ports_of_alarms alarms, ← ports, ← delivered, ← received]
    exact ⟨Counters.delivered_of_besidesDown counters, Counters.received_of_besidesDown counters⟩
  · have kept : (h.dests.filter (· != c.dest)).filter (q.keepsUp c.ring h) = left := by
      rw [List.filter_filter]
      exact List.filter_congr fun d _ => Bool.and_comm _ _
    rw [kept] at leaves
    unfold Part.Leaves at leaves
    split at leaves
    · next none =>
      rw [if_pos none, Part.engine_of_alarms alarms, reported, Part.headRecord_congr (congrArg (fun v : Vector Ring 96 => v[c.ring].take) reported)]
      exact ⟨leaves.1.headRecord, leaves.1.2, leaves.2⟩
    · next some =>
      rw [if_neg some]
      obtain ⟨z, take', ⟨header, taken, dests⟩, -⟩ := leaves
      refine ⟨z, Part.headRecord_eq_some.mpr ⟨egress, ?_⟩, header, taken, dests⟩
      rw [reported]
      exact take'
  · refine (Part.report_point_ne (by simpa using ne) _).trans ?_
    rw [Part.alarm_of_exchange view]
    rfl
  · rw [Part.besidesExchange_besidesAlarms, alarms, ← Part.besidesExchange_besidesAlarms, view]
    rfl

end Sys2Proof.Machine
end


section
/-! PROOFS. The end of a plan read (R42 to R45, R48, R49, R52). -/
namespace Sys2Proof.Machine

/-- The loader with a good block read, the last or not (R42, R52). -/
def Loader.took (l : Loader) (data : List Byte) (last : Bool) : Loader :=
  { l with
    image := l.image ++ [data]
    generation := if l.generation.isNone then some (field data 0 2) else l.generation
    block := if last then l.block else l.block + 1
    readWaiting := !last }

theorem Part.planBlockRead_of_more {p : Part} (h : p.loader.block + 1 < 65) (data : List Byte) :
    p.planBlockRead data = p.modLoader fun l => l.took data false := by
  have more : ¬ Config.planBlocks ≤ p.loader.block + 1 := Nat.not_le.mpr h
  unfold Part.planBlockRead
  simp only [more]
  rfl

theorem Part.planBlockRead_of_last {p : Part} (h : 65 ≤ p.loader.block + 1) (data : List Byte) :
    p.planBlockRead data = (p.modLoader fun l => l.took data true).validatePlan := by
  have last : Config.planBlocks ≤ p.loader.block + 1 := h
  unfold Part.planBlockRead
  simp only [last]
  rfl

theorem Part.validatePlan_of_fault {p : Part} {sec : PlanSection} {entry : Nat}
    (h : structuralFault p.loader.image (p.loader.generation.getD 0) = some (sec, entry)) :
    p.validatePlan = p.rejectPlan sec entry := by
  unfold Part.validatePlan
  rw [h]

theorem Part.validatePlan_of_sound {p : Part} (h : structuralFault p.loader.image (p.loader.generation.getD 0) = none) :
    p.validatePlan = (p.modLoader fun l =>
      { l with phase := .waiting, staged := some (readPlan p.loader.image).1, clamps := (readPlan p.loader.image).2 }).settleExchange
        p.engine := by
  unfold Part.validatePlan
  rw [h]

/-- The loader at rest after an operation with the result `r`, before a pending apply (R45, R49). -/
def Loader.ended (l : Loader) (r : PlanResult) : Loader :=
  { l with
    phase := .idle, generation := none, block := 0, readWaiting := false, image := [], staged := none, clamps := 0
    result := r }

theorem Loader.finish_eq (l : Loader) (r : PlanResult) :
    l.finish r = (match l.pendingApply with
      | none => l.ended r
      | some g => { l.ended r with
          phase := .reading, kind := .apply, generation := some g, readWaiting := true, pendingApply := none } : Loader) := by
  unfold Loader.finish Loader.ended Loader.begin_
  cases pending : l.pendingApply <;> rfl

theorem Part.loader_of_alarms {p q : Part} (h : q.besidesAlarms = p.besidesAlarms) : q.loader = p.loader :=
  (congrArg Part.loader h :)

theorem Part.now_of_alarms {p q : Part} (h : q.besidesAlarms = p.besidesAlarms) : q.now = p.now :=
  (congrArg Part.now h :)

/-- The loader and the plan result of a rejection, before its event (R45, R49). -/
def Part.rejected (sec : PlanSection) (entry : Nat) (p : Part) : Part :=
  (p.modLoader fun l => l.finish (p.planResult .rejected sec entry 0 p.plan.generation)).mark 1

theorem Part.rejectPlan_eq (sec : PlanSection) (entry : Nat) (p : Part) :
    p.rejectPlan sec entry = (p.rejected sec entry).raiseEvent planRejectedPoint := rfl

theorem Part.besidesAlarms_rejectPlan (sec : PlanSection) (entry : Nat) (p : Part) :
    (p.rejectPlan sec entry).besidesAlarms = Part.besidesAlarms (p.modLoader fun l =>
      l.finish (p.planResult .rejected sec entry 0 p.plan.generation)) :=
  Part.besidesAlarms_raiseEvent _ _

theorem Part.rejectPlan_dirty (sec : PlanSection) (entry : Nat) (p : Part) :
    (p.rejectPlan sec entry).status.dirty[(1 : RecordNo).val] = true :=
  Part.dirtyIn_raiseEvent planRejectedPoint (p.rejected sec entry) 1 (Status.mark_dirty_self _ 1)

theorem Part.rejectPlan_point_ne {i : Point} (h : i ≠ planRejectedPoint) (sec : PlanSection) (entry : Nat) (p : Part) :
    (p.rejectPlan sec entry).alarm.points[i.val] = p.alarm.points[i.val] :=
  Part.raiseEvent_point_ne (Ne.symm h) (p.rejected sec entry)

theorem Part.complete_now (rest : List Flight) (err : Bool) (p : Part) : (p.complete rest err).now = p.now :=
  Part.now_of_alarms (p := { p with flights := rest }) (Part.besidesAlarms_complete rest err p)

theorem Part.complete_point_ne {i : Point} {err : Bool} (h : err = false ∨ i ≠ memoryErrorPoint) (rest : List Flight) (p : Part) :
    (p.complete rest err).alarm.points[i.val] = p.alarm.points[i.val] := by
  unfold Part.complete
  dsimp only
  split
  · next failed =>
    have ne := h.resolve_left fun e => absurd (failed.symm.trans e) nofun
    exact Part.raiseEvent_point_ne (Ne.symm ne) _
  · rfl

theorem Part.planReadDone_of_plan {p : Part} {data : List Byte} {rest : List Flight}
    (flights : p.flights = { purpose := .plan, data := data } :: rest) (err : Bool) :
    p.planReadDone err = if err then (p.complete rest err).rejectPlan .memory (p.complete rest err).loader.block
      else (p.complete rest err).planBlockRead data := by
  unfold Part.planReadDone
  rw [flights]

/-- Settles O35: the cases of R42, R43 and R45. -/
theorem planReadAdvancesTheOperation : Obligations.PlanReadAdvancesTheOperation := by
  unfold Obligations.PlanReadAdvancesTheOperation
  intro s data rest err running flights l image generation fault done
  have event : s.part.after (.planReadComplete err) = s.part.planReadDone err := by
    rw [Part.after_planReadComplete, Part.whileRunning_of_running running]
  rw [Part.planReadDone_of_plan flights] at event
  have taken : err = false → ∀ last, l.took data last
      = { l with image := image, generation := generation, block := if last then l.block else l.block + 1, readWaiting := !last } := by
    rintro rfl last
    unfold Loader.took
    show _ = ({ l with image := image, generation := if false = false ∧ l.generation = none then _ else _, block := _, readWaiting := _ } : Loader)
    cases l.generation <;> rfl
  refine ⟨fun good more => ?_, ?_, fun good last sound => ?_⟩
  · rw [exec_eq_after (c := .planReadComplete err) nofun]
    refine congrArg _ (State.modPart_congr ?_)
    have took := taken good false
    subst good
    rw [event, if_neg Bool.false_ne_true]
    rw [show s.part.complete rest false = done from rfl, Part.planBlockRead_of_more (p := done) more]
    show ({ done with loader := l.took data false } : Part) = _
    rw [took]
    rfl
  · intro sec entry finished failed ended
    obtain ⟨x, image', b, w, rejects, view, loader, sounds, error⟩ : ∃ x : Part, ∃ image' b w,
        s.part.after (.planReadComplete err) = x.rejectPlan sec entry
          ∧ x.besidesAlarms = Part.besidesAlarms { done with loader := x.loader }
          ∧ x.loader = { l with image := image', generation := generation, block := b, readWaiting := w }
          ∧ (∀ i : Point, (err = false ∨ i ≠ memoryErrorPoint) → x.alarm.points[i.val] = s.part.alarm.points[i.val])
          ∧ (err = true → x.alarm.points[memoryErrorPoint.val].raw = true
              ∧ x.alarm.points[memoryErrorPoint.val].lastEvent = some s.part.now) := by
      by_cases bad : err = true
      · obtain ⟨rfl, rfl⟩ := Prod.mk.inj (Option.some.inj ((if_pos bad).symm.trans failed))
        have kept : generation = l.generation := if_neg fun h => Bool.false_ne_true (h.1.symm.trans bad)
        have view := Part.besidesAlarms_complete rest err s.part
        have loader : (s.part.complete rest err).loader = l := Part.loader_of_alarms (p := done) view
        refine ⟨s.part.complete rest err, l.image, l.block, l.readWaiting, ?_, ?_, ?_,
          fun i ne => Part.complete_point_ne ne rest s.part, fun _ => ?_⟩
        · rw [event, if_pos bad, loader]
        · rw [loader]
          exact view
        · rw [loader, kept]
        · subst bad
          exact ⟨Part.raiseEvent_raw memoryErrorPoint done, Part.raiseEvent_lastEvent memoryErrorPoint done⟩
      · have good : err = false := Bool.eq_false_iff.mpr bad
        have took := taken good true
        have fault' : structuralFault image (generation.getD 0) = some (sec, entry) := (if_neg bad).symm.trans failed
        subst good
        refine ⟨done.modLoader fun _ => l.took data true, image, l.block, false, ?_, rfl, took, fun _ _ => rfl, nofun⟩
        rw [event, if_neg Bool.false_ne_true, show s.part.complete rest false = done from rfl,
          Part.planBlockRead_of_last (p := done) (finished.resolve_left nofun)]
        refine Part.validatePlan_of_fault ?_
        show structuralFault (l.took data true).image ((l.took data true).generation.getD 0) = _
        rw [took]
        exact fault'
    have control : x.control = s.part.control := (congrArg Part.control view :)
    have plan : x.plan = s.part.plan := (congrArg Part.plan view :)
    have now : x.now = s.part.now := (congrArg Part.now view :)
    have result : x.loader.ended (x.planResult .rejected sec entry 0 x.plan.generation) = ended := by
      unfold Part.planResult
      rw [loader, control, plan]
      rfl
    have rejected := x.besidesAlarms_rejectPlan sec entry
    refine ⟨_, exec_eq_after (c := .planReadComplete err) nofun s, rfl, ?_, ?_, ?_, ?_, fun bad => ?_, fun i ne other => ?_, ?_⟩ <;>
      rw [State.modPart_part, rejects]
    · rw [Part.loader_of_alarms rejected]
      show x.loader.finish _ = _
      rw [Loader.finish_eq, result, loader] <;> rfl
    · exact Part.rejectPlan_dirty sec entry x
    · exact Part.raiseEvent_raw planRejectedPoint (x.rejected sec entry)
    · refine (Part.raiseEvent_lastEvent planRejectedPoint (x.rejected sec entry)).trans ?_
      rw [← now]
      rfl
    · have same := Part.rejectPlan_point_ne (i := memoryErrorPoint) (by decide) sec entry x
      have point := error bad
      rw [← same] at point
      exact point
    · exact (Part.rejectPlan_point_ne ne sec entry x).trans (sounds i other)
    · rw [rejected, Part.loader_of_alarms rejected]
      exact congrArg (fun y : Part =>
        { y with loader := x.loader.finish (x.planResult .rejected sec entry 0 x.plan.generation) }) view
  · have took := taken good true
    subst good
    have settled : s.part.after (.planReadComplete false)
        = ((done.modLoader fun _ => { l.took data true with
            phase := .waiting, staged := some (readPlan image).1, clamps := (readPlan image).2 }).settleExchange done.engine) := by
      rw [event, if_neg Bool.false_ne_true, show s.part.complete rest false = done from rfl, Part.planBlockRead_of_last (p := done) last,
        Part.validatePlan_of_sound]
      · rfl
      · show structuralFault (l.took data true).image ((l.took data true).generation.getD 0) = none
        rw [took]
        exact sound
    refine ⟨_, exec_eq_after (c := .planReadComplete false) nofun s, rfl, ?_⟩
    rw [State.modPart_part, settled, Part.besidesExchange_settleExchange, took]
    rfl

end Sys2Proof.Machine
end


section
/-! PROOFS. The checks of a plan image (R35 to R40, R43, R44, Table 3-8): what each range check makes of a value, when each
structural check fails, and the clamps of each entry. -/
namespace Sys2Proof.Machine

/-! ### Range checks (R44) -/

theorem clampRange_fst {lo hi : Nat} (h : lo ≤ hi) (v : Nat) : (clampRange lo hi v).1 = max lo (min hi v) := by
  unfold clampRange
  split
  · exact (by omega : lo = max lo (min hi v))
  · split
    · exact (by omega : hi = max lo (min hi v))
    · exact (by omega : v = max lo (min hi v))

/-- The clamp counted for a value outside its range (R44). -/
def missed (lo hi v : Nat) : Nat := if v < lo ∨ hi < v then 1 else 0

theorem clampRange_snd (lo hi v : Nat) : (clampRange lo hi v).2 = missed lo hi v := by
  unfold clampRange missed
  split
  · next low => rw [if_pos (.inl low)]
  · next low =>
    split
    · next high => rw [if_pos (.inr high)]
    · next high => rw [if_neg (not_or.mpr ⟨low, high⟩)]

theorem missed_of_le {hi v : Nat} (h : v ≤ hi) : missed 0 hi v = 0 := if_neg (by omega)

theorem missed_of_lt {hi v : Nat} (h : hi < v) : missed 0 hi v = 1 := if_pos (.inr h)

theorem tickKindOf_eq (v : Nat) :
    tickKindOf v = ([none, some .second, some .frame, some .subframe, some .half, some .prog].getD v none, missed 0 5 v) := by
  match v with
  | 0 | 1 | 2 | 3 | 4 | 5 => rfl
  | k + 6 =>
    rw [missed_of_lt (by omega)]
    rfl

theorem policyOf_eq (v : Nat) : policyOf v = (if v = 1 then .drop else .hold, missed 0 1 v) := by
  match v with
  | 0 | 1 => rfl
  | k + 2 =>
    rw [missed_of_lt (by omega), if_neg (by omega)]
    rfl

theorem gateModeOf_eq (v : Nat) : gateModeOf v = (if v = 1 then .window else .pulse, missed 0 1 v) := by
  match v with
  | 0 | 1 => rfl
  | k + 2 =>
    rw [missed_of_lt (by omega), if_neg (by omega)]
    rfl

theorem priorityOf_eq (v : Nat) : priorityOf v = (if v = 1 then .b else .a, missed 0 1 v) := by
  match v with
  | 0 | 1 => rfl
  | k + 2 =>
    rw [missed_of_lt (by omega), if_neg (by omega)]
    rfl

theorem severityOf_eq (v : Nat) :
    severityOf v = ([Severity.critical, .major, .minor, .warning].getD v .major, missed 0 3 v) := by
  match v with
  | 0 | 1 | 2 | 3 => rfl
  | k + 4 =>
    rw [missed_of_lt (by omega)]
    rfl

theorem ownerOf_eq_some_iff {code : Nat} {n : Slot} : ownerOf code = some n ↔ code = n.val := by
  unfold ownerOf
  split
  · exact Option.some_inj.trans Fin.ext_iff
  · exact iff_of_false nofun (by omega)

theorem memorySizeOf_eq (v : Nat) : memorySizeOf v = if v ≤ 4 then some (2 ^ 26 * 2 ^ v) else none := by
  match v with
  | 0 | 1 | 2 | 3 | 4 => rfl
  | k + 5 =>
    rw [if_neg (by omega)]
    rfl

/-- The divisors of 1,000,000 are the products of the powers 0–6 of 2 and of 5 (R39). -/
theorem mem_progDivisors {d : Nat} : d ∈ progDivisors ↔ d ∣ 1000000 := by
  constructor
  · have all : ∀ d ∈ progDivisors, d ∣ 1000000 := by decide +kernel
    exact all d
  · intro divides
    have small : ∀ e, e < 1001 → e ∣ 1000000 → e ∈ progDivisors ∧ 1000000 / e ∈ progDivisors := by decide +kernel
    by_cases low : d < 1001
    · exact (small d low divides).1
    · obtain ⟨e, product⟩ := divides
      have below : e < 1001 := by
        refine Nat.lt_of_not_le fun high => ?_
        have := Nat.mul_le_mul (Nat.le_of_not_lt low) high
        omega
      have cofactor := (small e below ⟨d, product.trans (Nat.mul_comm d e)⟩).2
      have positive : 0 < e := Nat.pos_of_ne_zero fun zero => by
        rw [zero] at product
        cases product
      rwa [product, Nat.mul_div_cancel _ positive] at cofactor

theorem foldl_max_spec (l : List Nat) (a : Nat) : (l.foldl max a = a ∨ l.foldl max a ∈ l) ∧ a ≤ l.foldl max a
    ∧ ∀ d ∈ l, d ≤ l.foldl max a := by
  induction l generalizing a with
  | nil => exact ⟨.inl rfl, (Nat.le_refl _), nofun⟩
  | cons x l ih =>
    obtain ⟨is, above, all⟩ := ih (max a x)
    rw [List.foldl_cons]
    refine ⟨?_, Nat.le_trans (Nat.le_max_left a x) above, fun d mem => ?_⟩
    · rcases is with e | mem
      · rcases Nat.le_total x a with le | le
        · exact .inl (e.trans (Nat.max_eq_left le))
        · exact .inr (by rw [e, Nat.max_eq_right le]; exact List.mem_cons_self)
      · exact .inr (List.mem_cons_of_mem _ mem)
    · rcases List.mem_cons.mp mem with rfl | mem
      · exact Nat.le_trans (Nat.le_max_right a d) above
      · exact all d mem

/-- The PROG period of an image: the largest divisor of 1,000,000 not above the clamped value (R39). -/
theorem clampProg_fst (v : Nat) :
    (clampProg v).1 ∣ 1000000 ∧ (clampProg v).1 ≤ max 10 (min 1000000 v)
      ∧ ∀ d, d ∣ 1000000 → d ≤ max 10 (min 1000000 v) → d ≤ (clampProg v).1 := by
  have range := clampRange_fst (show 10 ≤ 1000000 by decide) v
  obtain ⟨is, above, all⟩ := foldl_max_spec (progDivisors.filter (· ≤ (clampRange 10 1000000 v).1)) 1
  refine ⟨?_, ?_, fun d divides low => all d ?_⟩
  · rcases is with e | mem
    · rw [show (clampProg v).1 = 1 from e]
      exact Nat.one_dvd _
    · exact mem_progDivisors.mp (List.mem_filter.mp mem).1
  · rcases is with e | mem
    · rw [show (clampProg v).1 = 1 from e]
      omega
    · exact range ▸ of_decide_eq_true (List.mem_filter.mp mem).2
  · rw [List.mem_filter, decide_eq_true_iff, range]
    exact ⟨mem_progDivisors.mpr divides, low⟩

theorem clampProg_snd (v : Nat) : (clampProg v).2 = if v < 10 ∨ 1000000 % v ≠ 0 then 1 else 0 := by
  obtain ⟨divides, below, all⟩ := clampProg_fst v
  have counted : (clampProg v).2 = if (clampProg v).1 = v then 0 else 1 := rfl
  rw [counted]
  by_cases outside : v < 10 ∨ 1000000 % v ≠ 0
  · rw [if_pos outside, if_neg fun same => ?_]
    rcases outside with low | not
    · have ten := all 10 (by decide) (by omega)
      omega
    · exact not (Nat.mod_eq_zero_of_dvd (same ▸ divides))
  · obtain ⟨high, whole⟩ := not_or.mp outside
    have dvd := Nat.dvd_of_mod_eq_zero (Classical.not_not.mp whole)
    have le := Nat.le_of_dvd (by decide) dvd
    have high' := all v dvd (by omega)
    rw [if_neg outside, if_pos (by omega)]

theorem clampCapacity_fst (v : Nat) : (clampCapacity v).1 = if v = 0 then 0 else max 16 (min 1024 v) := by
  unfold clampCapacity
  split
  · rfl
  · exact clampRange_fst (by decide) v

theorem clampCapacity_snd (v : Nat) : (clampCapacity v).2 = if v = 0 then 0 else missed 16 1024 v := by
  unfold clampCapacity
  split
  · rfl
  · exact clampRange_snd _ _ v

theorem clampSum_eq (n : Nat) (f : Fin n → Nat) : clampSum n f = ((List.finRange n).map f).sum := by
  unfold clampSum
  rw [List.sum_eq_foldl, List.foldl_map]

/-! ### When a structural check fails (Table 3-8) -/

theorem ringCountValid_iff {count : Nat} : ringCountValid count = true ↔ ∃ k, 4 ≤ k ∧ k ≤ 12 ∧ count = 2 ^ k := by
  unfold ringCountValid
  constructor
  · intro valid
    have all : ∀ c ∈ [16, 32, 64, 128, 256, 512, 1024, 2048, 4096], ∃ k, 4 ≤ k ∧ k ≤ 12 ∧ c = 2 ^ k := by
      have powers : [16, 32, 64, 128, 256, 512, 1024, 2048, 4096] = (List.range 9).map fun i => 2 ^ (i + 4) := by decide
      rw [powers]
      intro c mem
      obtain ⟨i, low, rfl⟩ := List.mem_map.mp mem
      have := List.mem_range.mp low
      exact ⟨i + 4, by omega, by omega, rfl⟩
    exact all count (List.contains_iff_mem.mp valid)
  · rintro ⟨k, low, high, rfl⟩
    obtain ⟨i, rfl⟩ := Nat.exists_eq_add_of_le low
    have all : ∀ i, i < 9 → [16, 32, 64, 128, 256, 512, 1024, 2048, 4096].contains (2 ^ (4 + i)) = true := by decide
    exact all i (by omega)

theorem overlap_iff {base size base' size' : Nat} : overlap base size base' size' = true ↔ ¬ Apart base size base' size' := by
  rw [← overlap_eq_false_iff, Bool.not_eq_false]

theorem ringFails_iff {img : PlanImage} {memory : Nat} {r : RingNo} :
    ringFails img memory r = true ↔ (rawRing img r).count ≠ 0
      ∧ ((¬ ∃ k, 4 ≤ k ∧ k ≤ 12 ∧ (rawRing img r).count = 2 ^ k)
        ∨ memory < (rawRing img r).base + 128 * (rawRing img r).count ∨ (rawRing img r).base < 0x40000
        ∨ ∃ q : RingNo, q.val < r.val ∧ (rawRing img q).count ≠ 0
          ∧ ¬ Apart (rawRing img r).base (128 * (rawRing img r).count) (rawRing img q).base (128 * (rawRing img q).count)) := by
  unfold ringFails
  simp only [Bool.and_eq_true, bne_iff_ne, Bool.or_eq_true, Bool.not_eq_true', decide_eq_true_eq, anyFin_eq_true_iff,
    overlap_iff, ← Bool.not_eq_true, ringCountValid_iff, or_assoc, and_assoc]

theorem windowFails_iff {img : PlanImage} {memory : Nat} {x : Window} :
    windowFails img memory x = true ↔ x.size ≠ 0
      ∧ (memory < x.base + x.size ∨ x.base < 0x40000
        ∨ ∃ q : RingNo, (rawRing img q).count ≠ 0 ∧ ¬ Apart x.base x.size (rawRing img q).base (128 * (rawRing img q).count)) := by
  unfold windowFails
  simp only [Bool.and_eq_true, bne_iff_ne, Bool.or_eq_true, decide_eq_true_eq, anyFin_eq_true_iff, overlap_iff, or_assoc]

theorem logFails_iff {img : PlanImage} {memory capacity base : Nat} (size : (clampCapacity (imageField img 64 8 2)).1 = capacity)
    (place : imageField img 64 4 4 * 32 = base) :
    logFails img memory = true ↔ capacity ≠ 0
      ∧ (memory < base + 32 * capacity ∨ base < 0x40000
        ∨ (∃ q : RingNo, (rawRing img q).count ≠ 0 ∧ ¬ Apart base (32 * capacity) (rawRing img q).base (128 * (rawRing img q).count))
        ∨ ∃ (n : Slot) (w : Fin 6), (readWindow (slotEntry img n) w).size ≠ 0
          ∧ ¬ Apart base (32 * capacity) (readWindow (slotEntry img n) w).base (readWindow (slotEntry img n) w).size) := by
  subst size place
  unfold logFails
  simp only [Bool.and_eq_true, bne_iff_ne, Bool.or_eq_true, decide_eq_true_eq, anyFin_eq_true_iff, overlap_iff, or_assoc]

theorem ownerCodeValid_eq_false_iff {code : Nat} : ownerCodeValid code = false ↔ 12 ≤ code ∧ code ≠ 255 := by
  unfold ownerCodeValid
  simp only [Bool.or_eq_false_iff, decide_eq_false_iff_not, Nat.not_lt, beq_eq_false_iff_ne]

section faults
variable {img : PlanImage} {g memory : Nat}

theorem structuralFault_of_header (h : imageField img 0 0 2 = 0 ∨ imageField img 0 0 2 ≠ g) :
    structuralFault img g = some (.header, 0) := if_pos h

theorem structuralFault_of_size (header : ¬ (imageField img 0 0 2 = 0 ∨ imageField img 0 0 2 ≠ g))
    (h : memorySizeOf (imageField img 0 2 1) = none) : structuralFault img g = some (.header, 1) := by
  unfold structuralFault
  rw [if_neg header, h]

variable (header : ¬ (imageField img 0 0 2 = 0 ∨ imageField img 0 0 2 ≠ g))
  (size : memorySizeOf (imageField img 0 2 1) = some memory)
include header size

theorem structuralFault_of_ring {r : RingNo} (h : ringFails img memory r = true)
    (before : ∀ q : RingNo, q.val < r.val → ringFails img memory q = false) :
    structuralFault img g = some (.ring, r.val) := by
  unfold structuralFault
  rw [if_neg header, size]
  dsimp only
  rw [firstFin_eq_some_iff.mpr ⟨h, before⟩]

variable (rings : ∀ r, ringFails img memory r = false)
include rings

theorem structuralFault_of_window {n : Slot} {w : Fin 6} (h : windowFails img memory (readWindow (slotEntry img n) w) = true)
    (before : ∀ (m : Slot) (v : Fin 6), m.val * 6 + v.val < n.val * 6 + w.val →
      windowFails img memory (readWindow (slotEntry img m) v) = false) :
    structuralFault img g = some (.slot, n.val * 6 + w.val) := by
  let k : Fin 72 := ⟨n.val * 6 + w.val, by omega⟩
  have number : windowNo k = (n, w) := Prod.ext (Fin.ext (by show (n.val * 6 + w.val) / 6 = n.val; omega))
    (Fin.ext (by show (n.val * 6 + w.val) % 6 = w.val; omega))
  have first : firstFin 72 (fun k => windowFails img memory (readWindow (slotEntry img (windowNo k).1) (windowNo k).2)) = some k := by
    refine firstFin_eq_some_iff.mpr ⟨by rw [number]; exact h, fun j below => before _ _ ?_⟩
    show j.val / 6 * 6 + j.val % 6 < n.val * 6 + w.val
    have : j.val < n.val * 6 + w.val := below
    omega
  unfold structuralFault
  rw [if_neg header, size]
  dsimp only
  rw [firstFin_eq_none_iff.mpr rings]
  dsimp only
  rw [first]

variable (windows : ∀ n w, windowFails img memory (readWindow (slotEntry img n) w) = false)
include windows

/-- The checks after the windows (Table 3-8, checks 5 and 6). -/
theorem structuralFault_of_areas : structuralFault img g =
    if ownerCodeValid (imageField img 51 1 1) = false then some (.clock, 0)
    else if ownerCodeValid (imageField img 51 9 1) = false then some (.clock, 1)
    else if logFails img memory = true then some (.alarm, 0) else none := by
  unfold structuralFault
  rw [if_neg header, size]
  dsimp only
  rw [firstFin_eq_none_iff.mpr rings]
  dsimp only
  rw [firstFin_eq_none_iff.mpr fun k => windows _ _]
  simp only [Bool.not_eq_true']

end faults

end Sys2Proof.Machine
end


section
/-! PROOFS. The fields and the clamps of a plan image (R35 to R40, R44). -/
namespace Sys2Proof.Machine

/-! ### The clamps counted for each entry (R44) -/

theorem readSlotPlan_clamps (img : PlanImage) (n : Slot) :
    (readSlotPlan img n).2 = let e := slotEntry img n
      (if n = 0 ∧ field e 0 1 = 0 then 1 else 0) + (if field e 8 4 = 0 then 1 else 0) + missed 10 10000 (field e 12 2)
        + missed 0 5000 (field e 14 2) + missed 1 1000 (field e 16 2) + missed 1 5000 (field e 18 2)
        + missed 1 5000 (field e 20 2) + missed 0 5 (field e 22 1) := by
  have first : (if (n.val == 0 && !flagAt (slotEntry img n) 0) = true then 1 else 0 : Nat)
      = if n = 0 ∧ field (slotEntry img n) 0 1 = 0 then 1 else 0 := by
    refine ite_iff_congr ?_ rfl rfl
    rw [Bool.and_eq_true, beq_iff_eq, Bool.not_eq_true', flagAt, bne_eq_false_iff_eq]
    exact and_congr_left' (Fin.ext_iff (b := (0 : Slot))).symm
  unfold readSlotPlan
  simp only [clampRange_snd, tickKindOf_eq, first]

theorem readRingPlan_clamps (img : PlanImage) (r : RingNo) :
    (readRingPlan img r).2 = if (rawRing img r).count ≠ 0 ∧ r.val % 2 = 1 then
        missed 1 (rawRing img r).count (rawRing img r).high
          + missed 0 (max 1 (min (rawRing img r).count (rawRing img r).high) - 1) (rawRing img r).low
      else 0 := by
  unfold readRingPlan
  dsimp only
  by_cases none : (rawRing img r).count = 0 ∨ r.val % 2 = 0
  · rw [if_pos none, if_neg (by omega)]
  · rw [if_neg none, if_pos (by omega)]
    simp only [clampRange_snd, clampRange_fst (show 1 ≤ (rawRing img r).count by omega)]

theorem readClassPlan_clamps (img : PlanImage) (c : Cls) :
    (readClassPlan img c).2 = let o := 8 * c.val
      missed 1 65535 (imageField img 49 o 2) + missed 0 1 (imageField img 49 (o + 2) 1)
        + missed 1 16 (imageField img 49 (o + 3) 1) := by
  unfold readClassPlan
  simp only [clampRange_snd, policyOf_eq]

theorem readGatePlan_clamps (img : PlanImage) (g : GateNo) :
    (readGatePlan img g).2 = let o := 8 * g.val
      missed 0 5 (imageField img 50 o 1) + missed 0 1 (imageField img 50 (o + 1) 1)
        + missed 0 999 (imageField img 50 (o + 4) 2) + missed 1 65535 (imageField img 50 (o + 6) 2) := by
  unfold readGatePlan
  simp only [clampRange_snd, tickKindOf_eq, gateModeOf_eq]

theorem readRefPlan_clamps (img : PlanImage) (x : Nat) :
    (readRefPlan img x).2 = missed 2 16 (imageField img 51 (8 * x + 2) 1) + missed 1 8 (imageField img 51 (8 * x + 3) 1)
      + missed 1 1000 (imageField img 51 (8 * x + 6) 2) := by
  unfold readRefPlan
  simp only [clampRange_snd]

theorem readClockPlan_clamps (img : PlanImage) :
    (readClockPlan img).2 = (readRefPlan img 0).2 + (readRefPlan img 1).2
      + missed 0 1 (imageField img 51 16 1) + missed 1 4096 (imageField img 51 18 2) + missed 0 256 (imageField img 51 20 2)
      + missed 2 64 (imageField img 51 22 1) + missed 0 5120000 (imageField img 51 24 4)
      + missed 0 2560000 (imageField img 51 28 4) + missed 100 1000000 (imageField img 51 32 4)
      + missed 10 10000 (imageField img 51 36 2) + missed 100 100000 (imageField img 51 40 4)
      + missed 60 86400 (imageField img 51 44 4)
      + (if imageField img 51 48 4 < 10 ∨ 1000000 % imageField img 51 48 4 ≠ 0 then 1 else 0) := by
  unfold readClockPlan
  simp only [clampRange_snd, priorityOf_eq, clampProg_snd]

/-- The 8 bytes of alarm point `i` (Table 11-6). -/
def pointSettings (img : PlanImage) (i : Point) : List Byte := (img.getD (52 + i.val / 8) []).drop (8 * (i.val % 8))

theorem readPointPlan_clamps (img : PlanImage) (i : Point) :
    (readPointPlan img i).2 = missed 0 3 (field (pointSettings img i) 0 1) + missed 0 60000 (field (pointSettings img i) 4 2)
      + missed 0 60000 (field (pointSettings img i) 6 2) := by
  unfold readPointPlan pointSettings
  simp only [clampRange_snd, severityOf_eq]

theorem readAlarmPlan_clamps (img : PlanImage) :
    (readAlarmPlan img).2 = ((List.finRange 89).map fun i => (readPointPlan img i).2).sum
      + missed 1 3600 (imageField img 64 0 2)
      + (if imageField img 64 8 2 = 0 then 0 else missed 16 1024 (imageField img 64 8 2)) := by
  unfold readAlarmPlan
  simp only [clampRange_snd, clampCapacity_snd, clampSum_eq]

theorem readPlan_clamps (img : PlanImage) :
    (readPlan img).2 = min 65535 (((List.finRange 12).map fun n => (readSlotPlan img n).2).sum
      + ((List.finRange 96).map fun r => (readRingPlan img r).2).sum
      + ((List.finRange 4).map fun c => (readClassPlan img c).2).sum
      + ((List.finRange 8).map fun g => (readGatePlan img g).2).sum + (readClockPlan img).2 + (readAlarmPlan img).2) := by
  unfold readPlan
  simp only [clampSum_eq]

/-! ### The fields after the range checks -/

theorem readRingPlan_unclamped (img : PlanImage) (r : RingNo) :
    (readRingPlan img r).1.base = (rawRing img r).base ∧ (readRingPlan img r).1.count = (rawRing img r).count
      ∧ (readRingPlan img r).1.attention = (rawRing img r).attention := by
  unfold readRingPlan
  dsimp only
  split <;> exact ⟨rfl, rfl, rfl⟩

theorem readRingPlan_thresholds {img : PlanImage} {r : RingNo} (count : (rawRing img r).count ≠ 0) (ingress : r.val % 2 = 1) :
    (readRingPlan img r).1.high = max 1 (min (rawRing img r).count (rawRing img r).high)
      ∧ (readRingPlan img r).1.low
        = max 0 (min (max 1 (min (rawRing img r).count (rawRing img r).high) - 1) (rawRing img r).low) := by
  have both : ¬ ((rawRing img r).count = 0 ∨ r.val % 2 = 0) := by omega
  unfold readRingPlan
  dsimp only
  rw [if_neg both]
  have high := clampRange_fst (show 1 ≤ (rawRing img r).count by omega) (rawRing img r).high
  refine ⟨high, ?_⟩
  show (clampRange 0 ((clampRange 1 (rawRing img r).count (rawRing img r).high).1 - 1) (rawRing img r).low).1 = _
  rw [high]
  exact clampRange_fst (Nat.zero_le _) _

theorem readRefPlan_fields (img : PlanImage) (x : Nat) :
    (readRefPlan img x).1.enabled = (imageField img 51 (8 * x) 1 != 0)
      ∧ (∀ n : Slot, (readRefPlan img x).1.owner = some n ↔ imageField img 51 (8 * x + 1) 1 = n.val)
      ∧ (readRefPlan img x).1.qualifyCount = max 2 (min 16 (imageField img 51 (8 * x + 2) 1))
      ∧ (readRefPlan img x).1.missLimit = max 1 (min 8 (imageField img 51 (8 * x + 3) 1))
      ∧ (readRefPlan img x).1.cableDelay = imageField img 51 (8 * x + 4) 2
      ∧ (readRefPlan img x).1.tolerance = max 1 (min 1000 (imageField img 51 (8 * x + 6) 2)) :=
  ⟨rfl, fun _ => ownerOf_eq_some_iff, clampRange_fst (by decide) _, clampRange_fst (by decide) _, rfl,
    clampRange_fst (by decide) _⟩

theorem readPlan_slot (img : PlanImage) (n : Slot) : (readPlan img).1.slots[n] = (readSlotPlan img n).1 :=
  getElem_tabulate _ _ _

theorem readPlan_ring (img : PlanImage) (r : RingNo) : (readPlan img).1.rings[r] = (readRingPlan img r).1 :=
  getElem_tabulate _ _ _

theorem readPlan_class (img : PlanImage) (c : Cls) : (readPlan img).1.classes[c] = (readClassPlan img c).1 :=
  getElem_tabulate _ _ _

theorem readPlan_gate (img : PlanImage) (g : GateNo) : (readPlan img).1.gates[g] = (readGatePlan img g).1 :=
  getElem_tabulate _ _ _

theorem readPlan_point (img : PlanImage) (i : Point) : (readPlan img).1.alarm.points[i] = (readPointPlan img i).1 :=
  getElem_tabulate _ _ _

/-- Settles O36: Table 3-8 check by check, Tables 3-2 to 3-7 field by field, and the sum of the clamps. -/
theorem planImageIsCheckedAndClamped : Obligations.PlanImageIsCheckedAndClamped := by
  unfold Obligations.PlanImageIsCheckedAndClamped
  intro img g val block slot ring point base count winBase winSize near rawCapacity capacity logBase memory header badRing
    badWindow badOwner badLog fault plan miss kinds clock ref
  have sized : val (block 0) 2 1 ≤ 4 → memorySizeOf (imageField img 0 2 1) = some memory := fun low =>
    (memorySizeOf_eq _).trans (if_pos low)
  have ringBad : ∀ r, ringFails img memory r = true ↔ badRing r := fun r => ringFails_iff
  have windowBad : ∀ n w, windowFails img memory (readWindow (slotEntry img n) w) = true ↔ badWindow n w := fun n w =>
    windowFails_iff
  have size : (clampCapacity (imageField img 64 8 2)).1 = capacity := clampCapacity_fst _
  have logBad : logFails img memory = true ↔ badLog := logFails_iff size rfl
  have ownerBad : ∀ o, ownerCodeValid (imageField img 51 o 1) = false ↔ badOwner o := fun o => ownerCodeValid_eq_false_iff
  have ringGood : ∀ r, ¬ badRing r → ringFails img memory r = false := fun r h => Bool.eq_false_iff.mpr fun e => h ((ringBad r).mp e)
  have windowGood : ∀ n w, ¬ badWindow n w → windowFails img memory (readWindow (slotEntry img n) w) = false := fun n w h =>
    Bool.eq_false_iff.mpr fun e => h ((windowBad n w).mp e)
  refine ⟨structuralFault_of_header, fun known large => ?_, fun known low => ⟨fun r bad before => ?_, fun sound => ⟨fun n w bad before => ?_,
    fun clear => ?_⟩⟩, rfl, rfl, fun low => ?_, fun n => ?_, fun r => ?_, fun c => ?_, fun k => ?_, ?_, fun i => ?_, ?_, rfl, ?_, ?_, fun k => ?_,
    ?_⟩
  · exact structuralFault_of_size known ((memorySizeOf_eq _).trans (if_neg (Nat.not_le.mpr large)))
  · exact structuralFault_of_ring known (sized low) ((ringBad r).mpr bad) fun q below => ringGood q (before q below)
  · exact structuralFault_of_window known (sized low) (fun r => ringGood r (sound r)) ((windowBad n w).mpr bad) fun m v below =>
      windowGood m v (before m v below)
  · have areas := structuralFault_of_areas known (sized low) (fun r => ringGood r (sound r)) fun n w => windowGood n w (clear n w)
    refine ⟨fun a => ?_, fun a b => ?_, fun a b c => ?_, fun a b c => ?_⟩ <;> refine areas.trans ?_
    · exact if_pos ((ownerBad 1).mpr a)
    · rw [if_neg fun e => a ((ownerBad 1).mp e), if_pos ((ownerBad 9).mpr b)]
    · rw [if_neg fun e => a ((ownerBad 1).mp e), if_neg fun e => b ((ownerBad 9).mp e), if_pos (logBad.mpr c)]
    · rw [if_neg fun e => a ((ownerBad 1).mp e), if_neg fun e => b ((ownerBad 9).mp e), if_neg fun e => c (logBad.mp e)]
  · show (memorySizeOf (imageField img 0 2 1)).getD 0 = memory
    rw [sized low]
    rfl
  · intro e y
    rw [show y = (readSlotPlan img n).1 from readPlan_slot img n]
    refine ⟨?_, rfl, rfl, rfl, rfl, rfl, rfl, clampRange_fst (by decide) _, clampRange_fst (by decide) _,
      clampRange_fst (by decide) _, clampRange_fst (by decide) _, clampRange_fst (by decide) _,
      congrArg Prod.fst (tickKindOf_eq _), rfl, fun w => getElem_tabulate _ _ _⟩
    have first : (n.val == 0) = (n == 0) := Bool.eq_iff_iff.mpr (by rw [beq_iff_eq, beq_iff_eq, Fin.ext_iff]; rfl)
    show (flagAt (slotEntry img n) 0 || n.val == 0) = _
    rw [first]
    rfl
  · intro e y high
    rw [show y = (readRingPlan img r).1 from readPlan_ring img r]
    obtain ⟨base', count', attention⟩ := readRingPlan_unclamped img r
    exact ⟨base', count', attention, fun some ingress => readRingPlan_thresholds some ingress⟩
  · intro o y
    rw [show y = (readClassPlan img c).1 from readPlan_class img c]
    exact ⟨clampRange_fst (by decide) _, congrArg Prod.fst (policyOf_eq _), clampRange_fst (by decide) _⟩
  · intro o y
    rw [show y = (readGatePlan img k).1 from readPlan_gate img k]
    exact ⟨congrArg Prod.fst (tickKindOf_eq _), congrArg Prod.fst (gateModeOf_eq _), rfl, clampRange_fst (by decide) _,
      clampRange_fst (by decide) _⟩
  · intro y prog
    obtain ⟨divides, below, all⟩ := clampProg_fst (clock 48 4)
    exact ⟨readRefPlan_fields img 0, readRefPlan_fields img 1, congrArg Prod.fst (priorityOf_eq _), rfl,
      clampRange_fst (by decide) _, clampRange_fst (by decide) _, clampRange_fst (by decide) _, clampRange_fst (by decide) _,
      clampRange_fst (by decide) _, clampRange_fst (by decide) _, clampRange_fst (by decide) _, clampRange_fst (by decide) _,
      clampRange_fst (by decide) _, Nat.mod_eq_zero_of_dvd divides, below, fun d whole => all d (Nat.dvd_of_mod_eq_zero whole)⟩
  · intro e y
    rw [show y = (readPointPlan img i).1 from readPlan_point img i]
    exact ⟨congrArg Prod.fst (severityOf_eq _), rfl, rfl, clampRange_fst (by decide) _, clampRange_fst (by decide) _⟩
  · exact clampRange_fst (by decide) _
  · exact size
  · show (if (clampCapacity (imageField img 64 8 2)).1 = 0 then 0 else imageField img 64 4 4 * 32) = _
    rw [size]
    rfl
  · exact getElem_tabulate _ _ _
  · rw [readPlan_clamps, readClockPlan_clamps, readAlarmPlan_clamps]
    simp only [readSlotPlan_clamps, readRingPlan_clamps, readClassPlan_clamps, readGatePlan_clamps, readRefPlan_clamps,
      readPointPlan_clamps, List.map_cons, List.map_nil, List.sum_cons, List.sum_nil, Nat.add_zero, Nat.add_assoc]
    rfl

end Sys2Proof.Machine
end


section
/-! PROOFS. Fields as bytes (R194), and the capture of a status record (R181, R196). -/
namespace Sys2Proof.Machine

/-! ### Fields in bytes (R194) -/

@[simp] theorem length_leBytes (k v : Nat) : (leBytes k v).length = k := by
  induction k generalizing v with
  | zero => rfl
  | succ k ih => exact congrArg (· + 1) (ih _)

@[simp] theorem length_zeros (k : Nat) : (zeros k).length = k := List.length_replicate

theorem ofLe_leBytes (k v : Nat) : ofLe (leBytes k v) = v % 256 ^ k := by
  induction k generalizing v with
  | zero => exact (Nat.mod_one v).symm
  | succ k ih =>
    show (BitVec.ofNat 8 v).toNat + 256 * ofLe (leBytes k (v / 256)) = _
    rw [ih, Nat.pow_succ', Nat.mod_mul (a := 256) (b := 256 ^ k)]
    rfl

theorem ofLe_zeros (k : Nat) : ofLe (zeros k) = 0 := by
  induction k with
  | zero => rfl
  | succ k ih =>
    show (0 : Byte).toNat + 256 * ofLe (zeros k) = 0
    rw [ih]
    rfl

theorem field_eq_of_leBytes {bytes : List Byte} {o k v : Nat} (h : (bytes.drop o).take k = leBytes k v) :
    field bytes o k = v % 256 ^ k := by
  unfold field
  rw [h, ofLe_leBytes]

theorem field_eq_of_byte {bytes : List Byte} {o : Nat} {b : Byte} (h : (bytes.drop o).take 1 = [b]) :
    field bytes o 1 = b.toNat := by
  unfold field
  rw [h]
  exact Nat.add_zero _

theorem field_eq_zero {bytes : List Byte} {o k : Nat} (h : (bytes.drop o).take k = zeros k) : field bytes o k = 0 := by
  unfold field
  rw [h, ofLe_zeros]

/-- A field of a structure that begins with other bytes. -/
theorem drop_take_append_right {a b : List Byte} {o k : Nat} (h : a.length ≤ o) :
    ((a ++ b).drop o).take k = (b.drop (o - a.length)).take k := by
  rw [List.drop_append, List.drop_eq_nil_of_le h, List.nil_append]

/-- A field that other bytes come after. -/
theorem drop_take_append_left {a b : List Byte} {o k : Nat} (h : o + k ≤ a.length) :
    ((a ++ b).drop o).take k = (a.drop o).take k := by
  rw [List.drop_append_of_le_length (by omega), List.take_append_of_le_length (by rw [List.length_drop]; omega)]

/-! ### The blocks of a record (R181, R196) -/

theorem flatten_blocksOf (n : Nat) (bytes : List Byte) : (blocksOf n bytes).flatten = bytes.take (64 * n) := by
  induction n generalizing bytes with
  | zero => rfl
  | succ n ih =>
    show bytes.take 64 ++ (blocksOf n (bytes.drop 64)).flatten = _
    rw [ih, Nat.mul_succ, Nat.add_comm, List.take_add]

theorem length_blocksOf (n : Nat) (bytes : List Byte) : (blocksOf n bytes).length = n := by
  induction n generalizing bytes with
  | zero => rfl
  | succ n ih => exact congrArg (· + 1) (ih _)

theorem length_of_mem_blocksOf {n : Nat} {bytes : List Byte} (h : 64 * n ≤ bytes.length) :
    ∀ b ∈ blocksOf n bytes, b.length = 64 := by
  induction n generalizing bytes with
  | zero => exact nofun
  | succ n ih =>
    intro b mem
    rcases List.mem_cons.mp mem with rfl | mem
    · rw [List.length_take]
      omega
    · exact ih (by rw [List.length_drop]; omega) b mem

theorem le_length_frameRecord (size : Nat) (update : BitVec 16) (body : List Byte) :
    size ≤ (frameRecord update size body).length := by
  unfold frameRecord
  simp only [List.length_append, length_leBytes, length_zeros]
  omega

theorem length_frameRecord {size : Nat} {body : List Byte} (h : body.length + 8 ≤ size) (update : BitVec 16) :
    (frameRecord update size body).length = size := by
  unfold frameRecord
  simp only [List.length_append, length_leBytes, length_zeros]
  omega

theorem one_le_recordBlocks (k : RecordNo) : 1 ≤ recordBlocks k := by
  unfold recordBlocks
  repeat' split
  all_goals decide

theorem captureRecord_flatten (p : Part) (k : RecordNo) (update : BitVec 16) :
    (captureRecord p k update).flatten
      = (frameRecord update (64 * recordBlocks k) (recordBody p k)).take (64 * recordBlocks k) := flatten_blocksOf _ _

theorem length_captureRecord (p : Part) (k : RecordNo) (update : BitVec 16) :
    (captureRecord p k update).flatten.length = 64 * recordBlocks k := by
  have blocks := one_le_recordBlocks k
  have long := le_length_frameRecord (64 * recordBlocks k) update (recordBody p k)
  rw [captureRecord_flatten, List.length_take]
  omega

/-- A captured record from the field at `o` on is the framed record there, as far as it reaches. -/
theorem captureRecord_drop_take {p : Part} {k : RecordNo} {update : BitVec 16} {o n : Nat} (h : o + n ≤ 64 * recordBlocks k) :
    ((captureRecord p k update).flatten.drop o).take n
      = ((frameRecord update (64 * recordBlocks k) (recordBody p k)).drop o).take n := by
  rw [captureRecord_flatten, List.drop_take, List.take_take, Nat.min_eq_left (by omega)]

theorem captureRecord_first (p : Part) (k : RecordNo) (update : BitVec 16) :
    ((captureRecord p k update).flatten.drop 0).take 4 = leBytes 4 update.toNat := by
  have blocks := one_le_recordBlocks k
  rw [captureRecord_drop_take (by omega)]
  rfl

/-- The update number at the end of a record whose fields leave room for it (R196). -/
theorem captureRecord_last {p : Part} {k : RecordNo} (short : (recordBody p k).length + 8 ≤ 64 * recordBlocks k)
    (update : BitVec 16) :
    ((captureRecord p k update).flatten.drop (64 * recordBlocks k - 4)).take 4 = leBytes 4 update.toNat := by
  rw [captureRecord_drop_take (by omega)]
  unfold frameRecord
  have lead : (leBytes 4 update.toNat ++ recordBody p k ++ zeros (64 * recordBlocks k - 8 - (recordBody p k).length)).length
      = 64 * recordBlocks k - 4 := by
    simp only [List.length_append, length_leBytes, length_zeros]
    omega
  rw [drop_take_append_right (Nat.le_of_eq lead), lead, Nat.sub_self]
  rfl

/-- The fields of a captured record (R181). -/
theorem captureRecord_body {p : Part} {k : RecordNo} {update : BitVec 16} {o n : Nat} (first : 4 ≤ o)
    (last : o - 4 + n ≤ (recordBody p k).length) (fits : o + n ≤ 64 * recordBlocks k) :
    ((captureRecord p k update).flatten.drop o).take n = ((recordBody p k).drop (o - 4)).take n := by
  rw [captureRecord_drop_take fits]
  unfold frameRecord
  rw [drop_take_append_left (by simp only [List.length_append, length_leBytes]; omega),
    drop_take_append_left (by simp only [List.length_append, length_leBytes]; omega),
    drop_take_append_right (by rw [length_leBytes]; exact first), length_leBytes]

/-- The bytes of a record that no field takes (R194). -/
theorem captureRecord_unused {p : Part} {k : RecordNo} {update : BitVec 16} {o n : Nat} (first : 4 + (recordBody p k).length ≤ o)
    (last : o + n + 4 ≤ 64 * recordBlocks k) :
    ((captureRecord p k update).flatten.drop o).take n = zeros n := by
  rw [captureRecord_drop_take (by omega)]
  unfold frameRecord
  rw [drop_take_append_left (by simp only [List.length_append, length_leBytes, length_zeros]; omega),
    drop_take_append_right (by simp only [List.length_append, length_leBytes]; exact first)]
  simp only [List.length_append, length_leBytes, zeros, List.drop_replicate, List.take_replicate]
  exact congrArg (List.replicate · 0) (by omega)

/-! ### The lengths of the records' fields (Tables 11-13 to 11-16) -/

theorem length_flatMap_of_forall {α : Type} {f : α → List Byte} {w : Nat} (h : ∀ x, (f x).length = w) (l : List α) :
    (l.flatMap f).length = w * l.length := by
  induction l with
  | nil => rfl
  | cons x l ih =>
    rw [List.flatMap_cons, List.length_append, h, ih, List.length_cons]
    exact (Nat.mul_succ _ _).trans (Nat.add_comm _ _) |>.symm

theorem length_resetRecord (p : Part) : (resetRecord p).length = 8 := rfl

theorem length_planResultRecord (p : Part) : (planResultRecord p).length = 16 := rfl

theorem length_timeRecord (p : Part) : (timeRecord p).length = 64 := by
  unfold timeRecord
  rw [List.length_append, length_flatMap_of_forall (w := 4) (fun _ => length_leBytes 4 _), Vector.length_toList]
  rfl

/-- The identity a slot record shows (R186). -/
def Port.shown (x : Port) : Option Identity := if x.identityShown then x.identity else none

/-- The identity in a slot record, 12 bytes (Table 11-15). -/
def identityBytes : Option Identity → List Byte
  | some i => leBytes 2 i.kind ++ leBytes 2 i.revision ++ (i.serial ++ zeros (8 - i.serial.length))
  | none => zeros 12

/-- The fields of a slot record before the identity, from offset 4 (Table 11-15). -/
def slotHead (x : Port) : List Byte :=
  [x.state.code, x.fenceReason.code, flagByte x.powerRemoved, x.admitResult.code, flagByte x.shown.isSome, flagByte x.waived,
   flagByte x.heartbeat.lost] ++ leBytes 1 x.violations

/-- The fields of a slot record after the identity, from offset 24 (Table 11-15). -/
def slotTail (p : Part) (n : Slot) : List Byte :=
  let c := p.ports[n].counters
  leBytes 2 p.ports[n].ringFaults ++ zeros 2 ++ ((List.finRange 4).map fun k => (p.blockReasonOf (egressRing n k)).code)
    ++ ([c.owed, c.delivered, c.received, c.holdExpired, c.destDown, c.oversize, c.sourceDown, c.plan, c.memory,
         c.malformed].flatMap fun w => leBytes 4 w.toNat)

theorem slotRecord_eq (p : Part) (n : Slot) :
    slotRecord p n = slotHead p.ports[n] ++ identityBytes p.ports[n].shown ++ slotTail p n := by
  have shown : slotRecord p n = slotHead p.ports[n] ++ identityBytes p.ports[n].shown ++ leBytes 2 p.ports[n].ringFaults ++ zeros 2
      ++ ((List.finRange 4).map fun k => (p.blockReasonOf (egressRing n k)).code)
      ++ ([p.ports[n].counters.owed, p.ports[n].counters.delivered, p.ports[n].counters.received,
          p.ports[n].counters.holdExpired, p.ports[n].counters.destDown, p.ports[n].counters.oversize,
          p.ports[n].counters.sourceDown, p.ports[n].counters.plan, p.ports[n].counters.memory,
          p.ports[n].counters.malformed].flatMap fun w => leBytes 4 w.toNat) := by
    unfold slotRecord identityBytes Port.shown
    rfl
  rw [shown]
  unfold slotTail
  simp only [List.append_assoc]

theorem length_slotHead (x : Port) : (slotHead x).length = 8 := rfl

theorem length_slotTail (p : Part) (n : Slot) : (slotTail p n).length = 48 := by
  unfold slotTail
  rw [List.length_append, length_flatMap_of_forall (w := 4) (fun _ => length_leBytes 4 _)]
  rfl

theorem Port.identity_of_shown {x : Port} {i : Identity} (h : x.shown = some i) : x.identity = some i := by
  unfold Port.shown at h
  split at h
  · exact h
  · cases h

theorem length_identityBytes {shown : Option Identity} (short : ∀ i, shown = some i → i.serial.length ≤ 8) :
    (identityBytes shown).length = 12 := by
  cases shown with
  | none => rfl
  | some i =>
    have low := short i rfl
    unfold identityBytes
    simp only [List.length_append, length_leBytes, length_zeros]
    omega

theorem length_slotRecord {p : Part} {n : Slot} (short : ∀ i, p.ports[n].shown = some i → i.serial.length ≤ 8) :
    (slotRecord p n).length = 68 := by
  rw [slotRecord_eq, List.length_append, List.length_append, length_slotHead, length_identityBytes short, length_slotTail]

theorem length_gateRecord (p : Part) : (gateRecord p).length = 140 := by
  unfold gateRecord
  rw [List.length_append, length_flatMap_of_forall (w := 16) (fun _ => rfl), Vector.length_toList]
  rfl

theorem length_pointEntry (p : Part) (i : Point) : (pointEntry p i).length = 16 := by
  unfold pointEntry
  dsimp only
  split <;> rfl

theorem length_alarmSummary (p : Part) : (alarmSummary p).length = 1484 := by
  unfold alarmSummary
  rw [List.length_append, length_flatMap_of_forall (w := 16) (length_pointEntry p)]
  rfl

theorem recordBody_slot {k : RecordNo} {n : Slot} (h : k.val = 3 + n.val) (p : Part) : recordBody p k = slotRecord p n := by
  unfold recordBody
  rw [if_neg (by omega), if_neg (by omega), if_neg (by omega), dif_pos (by omega)]
  exact congrArg (slotRecord p) (Fin.ext (by show k.val - 3 = n.val; omega))

/-- Given serial numbers of 8 bytes at most, the fields of every record leave room for its update number (R196). -/
theorem length_recordBody {p : Part} (short : p.identitiesSound) (k : RecordNo) :
    (recordBody p k).length + 8 ≤ 64 * recordBlocks k := by
  by_cases slot : 3 ≤ k.val ∧ k.val ≤ 14
  · have number : k.val = 3 + (⟨k.val - 3, by omega⟩ : Slot).val := by
      show k.val = 3 + (k.val - 3)
      omega
    have blocks : recordBlocks k = 2 := by
      unfold recordBlocks
      rw [if_neg (by omega), if_pos slot.2]
    rw [recordBody_slot number, length_slotRecord fun i shown => short _ i (Port.identity_of_shown shown), blocks]
    decide
  · have other : k = 0 ∨ k = 1 ∨ k = 2 ∨ k = 15 ∨ k = 16 := by
      simp only [Fin.ext_iff]
      show k.val = 0 ∨ k.val = 1 ∨ k.val = 2 ∨ k.val = 15 ∨ k.val = 16
      omega
    rcases other with rfl | rfl | rfl | rfl | rfl
    · exact (show 8 + 8 ≤ 64 * 1 by decide)
    · exact (show 16 + 8 ≤ 64 * 1 by decide)
    · exact Nat.le_trans (Nat.le_of_eq (congrArg (· + 8) (length_timeRecord p))) (show 64 + 8 ≤ 64 * 2 by decide)
    · exact Nat.le_trans (Nat.le_of_eq (congrArg (· + 8) (length_gateRecord p))) (show 140 + 8 ≤ 64 * 3 by decide)
    · exact Nat.le_trans (Nat.le_of_eq (congrArg (· + 8) (length_alarmSummary p))) (show 1484 + 8 ≤ 64 * 24 by decide)

/-- With no log record to write, the writer issues the next block of the record in progress (R182). -/
theorem Status.issue_of_block {st : Status} (queue : st.logQueue = []) (progress : st.progress.isSome = true) :
    st.issue = { st with waiting := if st.waiting = none then some .block else st.waiting } := by
  unfold Status.issue
  cases waiting : st.waiting with
  | some a =>
    dsimp only
    rw [if_neg nofun, ← waiting]
  | none => simp only [queue, progress, List.isEmpty_nil, Bool.not_true, Bool.false_eq_true, if_false, if_true]

/-- Settles O56: the lowest dirty record, its capture and the issue of its first block. -/
theorem statusRecordIsCapturedWhole : Obligations.StatusRecordIsCapturedWhole := by
  unfold Obligations.StatusRecordIsCapturedWhole
  intro s running due
  have rest : s.part.status.progress = none ∧ s.part.status.logQueue = []
      ∧ ∃ k : RecordNo, s.part.status.dirty[k] = true := by
    unfold Part.recordDue at due
    simp only [Bool.and_eq_true, Option.isNone_iff_eq_none, List.isEmpty_iff, anyFin_eq_true_iff] at due
    exact ⟨due.1.1.1, due.1.1.2, due.2⟩
  obtain ⟨-, queue, dirty⟩ := rest
  cases first : s.part.lowestDirty with
  | none =>
    obtain ⟨k, dirty⟩ := dirty
    exact absurd (firstFin_eq_none_iff.mp first k) (ne_false_of_eq_true dirty)
  | some k =>
    obtain ⟨here, before⟩ := firstFin_eq_some_iff.mp first
    have blocks := one_le_recordBlocks k
    refine ⟨k, here, before, ?_, length_blocksOf _ _, length_of_mem_blocksOf (le_length_frameRecord _ _ _),
      captureRecord_first s.part k _, fun short => ?_⟩
    · rw [exec_eq_after (c := .statusRecordBegin) nofun]
      refine congrArg _ (State.modPart_congr ?_)
      rw [Part.after_statusRecordBegin, Part.whenDue_of_due running due]
      unfold Part.beginLowest
      rw [first]
      dsimp only
      unfold Part.beginRecord
      dsimp only
      refine congrArg (fun st => ({ s.part with status := st } : Part)) ?_
      rw [Status.issue_of_block]
      · exact queue
      · rfl
    · have last := captureRecord_last (length_recordBody short k) (s.part.status.updates[k] + 1)
      rw [List.take_of_length_le (by rw [List.length_drop, length_captureRecord]; omega)] at last
      exact last

end Sys2Proof.Machine
end


section
/-! PROOFS. The fields of the status records and of a log record (R181, R184 to R187, R194, R196, R197). -/
namespace Sys2Proof.Machine

/-! ### Fields of a captured record -/

section captured
variable {p : Part} {k : RecordNo} {update : BitVec 16} {o n : Nat}

theorem captured_field {bs : List Byte} (holds : ((recordBody p k).drop (o - 4)).take n = bs) (size : bs.length = n)
    (some : 0 < n) (first : 4 ≤ o) (fits : o + n ≤ 64 * recordBlocks k) :
    field (captureRecord p k update).flatten o n = ofLe bs := by
  have reaches : o - 4 + n ≤ (recordBody p k).length := by
    have := congrArg List.length holds
    rw [List.length_take, List.length_drop, size] at this
    omega
  unfold field
  rw [captureRecord_body first reaches fits, holds]

theorem captured_number {v : Nat} (holds : ((recordBody p k).drop (o - 4)).take n = leBytes n v) (some : 0 < n) (first : 4 ≤ o)
    (fits : o + n ≤ 64 * recordBlocks k) : field (captureRecord p k update).flatten o n = v % 256 ^ n :=
  (captured_field holds (length_leBytes n v) some first fits).trans (ofLe_leBytes n v)

theorem captured_word {w : Nat} {v : BitVec w} (holds : ((recordBody p k).drop (o - 4)).take n = leBytes n v.toNat) (some : 0 < n)
    (first : 4 ≤ o) (fits : o + n ≤ 64 * recordBlocks k) (wide : 2 ^ w ≤ 256 ^ n) :
    field (captureRecord p k update).flatten o n = v.toNat :=
  (captured_number holds some first fits).trans (Nat.mod_eq_of_lt (Nat.lt_of_lt_of_le v.isLt wide))

theorem captured_byte {b : Byte} (holds : ((recordBody p k).drop (o - 4)).take 1 = [b]) (first : 4 ≤ o)
    (fits : o + 1 ≤ 64 * recordBlocks k) : field (captureRecord p k update).flatten o 1 = b.toNat :=
  (captured_field holds rfl Nat.one_pos first fits).trans (Nat.add_zero _)

theorem captured_flag {b : Bool} (holds : ((recordBody p k).drop (o - 4)).take 1 = [flagByte b]) (first : 4 ≤ o)
    (fits : o + 1 ≤ 64 * recordBlocks k) : field (captureRecord p k update).flatten o 1 = if b then 1 else 0 :=
  (captured_byte holds first fits).trans (by cases b <;> rfl)

theorem captured_zeros (holds : ((recordBody p k).drop (o - 4)).take n = zeros n) (some : 0 < n) (first : 4 ≤ o)
    (fits : o + n ≤ 64 * recordBlocks k) : field (captureRecord p k update).flatten o n = 0 :=
  (captured_field holds (length_zeros n) some first fits).trans (ofLe_zeros n)

theorem captured_unused (first : 4 + (recordBody p k).length ≤ o) (last : o + n + 4 ≤ 64 * recordBlocks k) :
    field (captureRecord p k update).flatten o n = 0 :=
  field_eq_zero (captureRecord_unused first last)

end captured

/-- The reset record holds the family code, the revision, the cause and the warm-reset count (Table 11-13). -/
theorem resetRecord_fields (p : Part) (update : BitVec 16) : let num := field (captureRecord p 0 update).flatten
    num 4 2 = 0x1204 ∧ num 6 2 = 3 ∧ num 8 1 = p.control.cause.code.toNat ∧ num 9 1 = 0
      ∧ num 10 2 = p.control.warmCount % 256 ^ 2 ∧ num 12 48 = 0 :=
  ⟨captured_number (v := 0x1204) rfl (by decide) (by decide) (by decide),
    captured_number (v := 3) rfl (by decide) (by decide) (by decide), captured_byte rfl (by decide) (by decide),
    captured_byte (b := 0) rfl (by decide) (by decide), captured_number rfl (by decide) (by decide) (by decide),
    captured_unused (show 4 + 8 ≤ 12 by decide) (by decide)⟩

/-- The plan result (Table 11-13). -/
theorem planResultRecord_fields (p : Part) (update : BitVec 16) : let num := field (captureRecord p 1 update).flatten
    let r := p.loader.result
    num 4 2 = r.applyNumber % 256 ^ 2 ∧ num 6 2 = r.warmCount % 256 ^ 2 ∧ num 8 1 = r.kind.code.toNat
      ∧ num 9 1 = r.outcome.code.toNat ∧ num 10 1 = r.failingSection.code.toNat ∧ num 11 1 = 0
      ∧ num 12 2 = r.generation % 256 ^ 2 ∧ num 14 2 = r.failingEntry % 256 ^ 2 ∧ num 16 2 = r.clampCount % 256 ^ 2
      ∧ num 18 2 = r.activeGeneration % 256 ^ 2 ∧ num 20 40 = 0 :=
  ⟨captured_number rfl (by decide) (by decide) (by decide), captured_number rfl (by decide) (by decide) (by decide),
    captured_byte rfl (by decide) (by decide), captured_byte rfl (by decide) (by decide), captured_byte rfl (by decide) (by decide),
    captured_byte (b := 0) rfl (by decide) (by decide), captured_number rfl (by decide) (by decide) (by decide),
    captured_number rfl (by decide) (by decide) (by decide), captured_number rfl (by decide) (by decide) (by decide),
    captured_number rfl (by decide) (by decide) (by decide), captured_unused (show 4 + 16 ≤ 20 by decide) (by decide)⟩

/-- A member's bytes in a list of entries of one length. -/
theorem drop_take_flatMap {α : Type} {f : α → List Byte} {w : Nat} (size : ∀ x, (f x).length = w) (l : List α) {i : Nat}
    (h : i < l.length) {o n : Nat} (within : o + n ≤ w) :
    ((l.flatMap f).drop (w * i + o)).take n = ((f l[i]).drop o).take n := by
  induction l generalizing i with
  | nil => exact absurd h (Nat.not_lt_zero i)
  | cons x l ih =>
    rw [List.flatMap_cons]
    cases i with
    | zero => exact (congrArg (fun m => (List.drop m _).take n) (by omega)).trans (drop_take_append_left (by rw [size]; exact within))
    | succ i =>
      rw [drop_take_append_right (by rw [size, Nat.mul_succ]; omega), size]
      have rest : w * (i + 1) + o - w = w * i + o := by
        rw [Nat.mul_succ]
        omega
      rw [rest]
      exact ih (Nat.lt_of_succ_lt_succ h)

theorem toNat_ofInt_32 (v : Int) : (BitVec.ofInt 32 v).toNat = (v % 4294967296).toNat := BitVec.toNat_ofInt v

/-- A field of one entry of a record whose fields end in entries of one length. -/
theorem drop_take_entry {α : Type} {f : α → List Byte} {w : Nat} (size : ∀ x, (f x).length = w) {body lead : List Byte} {l : List α}
    (layout : body = lead ++ l.flatMap f) {i : Nat} (h : i < l.length) {o n m : Nat} (within : o + n ≤ w)
    (place : m = lead.length + (w * i + o)) : (body.drop m).take n = ((f l[i]).drop o).take n := by
  subst layout place
  rw [drop_take_append_right (Nat.le_add_right _ _), Nat.add_sub_cancel_left]
  exact drop_take_flatMap size l h within

/-- The fields of the time record before the skipped ticks, from offset 4 (Table 11-14). -/
def timeHead (p : Part) : List Byte :=
  let k := p.clock
  leBytes 4 k.seconds.toNat ++ leBytes 4 k.ns
    ++ [k.epoch, k.state.code, flagByte k.trained, selectedCode k.selected, k.refA.state.code, k.refB.state.code,
        flagByte k.holdoverReached, flagByte k.pendingSeconds.isSome]
    ++ leBytes 4 (k.pendingSeconds.getD 0).toNat ++ leSigned k.lastError ++ leSigned k.facc ++ leSigned k.c
    ++ leBytes 4 p.holdoverSeconds ++ leBytes 8 k.increment

theorem timeRecord_eq (p : Part) : timeRecord p = timeHead p ++ p.gens.toList.flatMap fun g => leBytes 4 g.skipped.toNat := rfl

theorem timeRecord_skipped (p : Part) (update : BitVec 16) (i : Fin 5) :
    field (captureRecord p 2 update).flatten (48 + 4 * i.val) 4 = p.gens[i].skipped.toNat := by
  have count : i.val < p.gens.toList.length := by
    rw [Vector.length_toList]
    exact i.isLt
  have entry := drop_take_entry (f := fun g : TickGen => leBytes 4 g.skipped.toNat) (fun _ => length_leBytes 4 _) (timeRecord_eq p)
    count (o := 0) (n := 4) (m := 48 + 4 * i.val - 4) (Nat.le_refl _) (by show _ = 44 + (4 * i.val + 0); omega)
  refine captured_word (v := p.gens[i].skipped) (entry.trans ?_) (by decide) (by omega)
    (by show 48 + 4 * i.val + 4 ≤ 128; omega) (by decide)
  rw [Vector.getElem_toList]
  rfl

/-- The time record (Table 11-14). -/
theorem timeRecord_fields (p : Part) (update : BitVec 16) : let num := field (captureRecord p 2 update).flatten
    let x := p.clock
    num 4 4 = x.seconds.toNat ∧ num 8 4 = x.ns % 256 ^ 4 ∧ num 12 1 = x.epoch.toNat ∧ num 13 1 = x.state.code.toNat
      ∧ num 14 1 = (if x.trained then 1 else 0) ∧ num 15 1 = (selectedCode x.selected).toNat
      ∧ num 16 1 = x.refA.state.code.toNat ∧ num 17 1 = x.refB.state.code.toNat
      ∧ num 18 1 = (if x.holdoverReached then 1 else 0) ∧ num 19 1 = (if x.pendingSeconds.isSome then 1 else 0)
      ∧ num 20 4 = (x.pendingSeconds.getD 0).toNat ∧ num 24 4 = (BitVec.ofInt 32 x.lastError).toNat
      ∧ num 28 4 = (BitVec.ofInt 32 x.facc).toNat ∧ num 32 4 = (BitVec.ofInt 32 x.c).toNat
      ∧ num 36 4 = p.holdoverSeconds % 256 ^ 4 ∧ num 40 8 = x.increment % 256 ^ 8
      ∧ (∀ i : Fin 5, num (48 + 4 * i.val) 4 = p.gens[i].skipped.toNat) ∧ num 68 56 = 0 := by
  refine ⟨captured_word rfl ?_ ?_ ?_ ?_, captured_number rfl ?_ ?_ ?_, captured_byte rfl ?_ ?_, captured_byte rfl ?_ ?_,
    captured_flag rfl ?_ ?_, captured_byte rfl ?_ ?_, captured_byte rfl ?_ ?_, captured_byte rfl ?_ ?_, captured_flag rfl ?_ ?_,
    captured_flag rfl ?_ ?_, captured_word rfl ?_ ?_ ?_ ?_, captured_word rfl ?_ ?_ ?_ ?_, captured_word rfl ?_ ?_ ?_ ?_,
    captured_word rfl ?_ ?_ ?_ ?_, captured_number rfl ?_ ?_ ?_, captured_number rfl ?_ ?_ ?_, timeRecord_skipped p update,
    captured_unused (Nat.le_of_eq (congrArg (4 + ·) (length_timeRecord p))) (by decide)⟩
  all_goals decide

/-! ### The slot record (Table 11-15) -/

theorem recordBlocks_slot {k : RecordNo} {n : Slot} (h : k.val = 3 + n.val) : recordBlocks k = 2 := by
  unfold recordBlocks
  rw [if_neg (by omega), if_pos (by omega)]

section slot
variable {p : Part} {k : RecordNo} {n : Slot} (number : k.val = 3 + n.val) (update : BitVec 16)
include number

theorem recordBody_slot_eq : recordBody p k = slotHead p.ports[n] ++ identityBytes p.ports[n].shown ++ slotTail p n := by
  rw [recordBody_slot number, slotRecord_eq]

theorem slotRecord_head : let num := field (captureRecord p k update).flatten
    let x := p.ports[n]
    num 4 1 = x.state.code.toNat ∧ num 5 1 = x.fenceReason.code.toNat ∧ num 6 1 = (if x.powerRemoved then 1 else 0)
      ∧ num 7 1 = x.admitResult.code.toNat ∧ num 8 1 = (if x.shown.isSome then 1 else 0)
      ∧ num 9 1 = (if x.waived then 1 else 0) ∧ num 10 1 = (if x.heartbeat.lost then 1 else 0)
      ∧ num 11 1 = x.violations % 256 ^ 1 := by
  have body := recordBody_slot_eq (p := p) number
  have fits : ∀ {o : Nat}, o + 1 ≤ 128 → o + 1 ≤ 64 * recordBlocks k := fun h => by rw [recordBlocks_slot number]; exact h
  refine ⟨captured_byte (by rw [body]; rfl) ?_ (fits ?_), captured_byte (by rw [body]; rfl) ?_ (fits ?_),
    captured_flag (by rw [body]; rfl) ?_ (fits ?_), captured_byte (by rw [body]; rfl) ?_ (fits ?_),
    captured_flag (by rw [body]; rfl) ?_ (fits ?_), captured_flag (by rw [body]; rfl) ?_ (fits ?_),
    captured_flag (by rw [body]; rfl) ?_ (fits ?_), captured_number (by rw [body]; rfl) ?_ ?_ (fits ?_)⟩
  all_goals decide

theorem slotRecord_no_identity (hidden : p.ports[n].shown = none) : field (captureRecord p k update).flatten 12 12 = 0 := by
  have body := recordBody_slot_eq (p := p) number
  rw [hidden] at body
  exact captured_zeros (by rw [body]; rfl) (by decide) (by decide) (by rw [recordBlocks_slot number]; decide)

theorem slotRecord_identity {i : Identity} (shows : p.ports[n].shown = some i) (whole : i.serial.length = 8) :
    let bytes := (captureRecord p k update).flatten
    field bytes 12 2 = i.kind % 256 ^ 2 ∧ field bytes 14 2 = i.revision % 256 ^ 2 ∧ (bytes.drop 16).take 8 = i.serial := by
  have body := recordBody_slot_eq (p := p) number
  have size : (recordBody p k).length = 68 := by
    rw [recordBody_slot number]
    refine length_slotRecord fun j shows' => ?_
    rw [Option.some.inj (shows.symm.trans shows')] at whole
    exact Nat.le_of_eq whole
  rw [shows] at body
  have blocks := recordBlocks_slot number
  refine ⟨captured_number (by rw [body]; rfl) (by decide) (by decide) (by rw [blocks]; decide),
    captured_number (by rw [body]; rfl) (by decide) (by decide) (by rw [blocks]; decide), ?_⟩
  have placed : identityBytes (some i) = (leBytes 2 i.kind ++ leBytes 2 i.revision) ++ i.serial := by
    show leBytes 2 i.kind ++ leBytes 2 i.revision ++ (i.serial ++ zeros (8 - i.serial.length)) = _
    rw [whole]
    exact congrArg _ (List.append_nil _)
  rw [captureRecord_body (by decide) (by rw [size]; decide) (by rw [blocks]; decide), body, placed,
    drop_take_append_left (by simp [length_slotHead, whole]), drop_take_append_right (by rw [length_slotHead]; decide),
    drop_take_append_right (show 4 ≤ 4 from (Nat.le_refl _)), length_slotHead]
  exact List.take_of_length_le (Nat.le_of_eq whole)

theorem slotRecord_tail (whole : ∀ i, p.ports[n].shown = some i → i.serial.length = 8) :
    let num := field (captureRecord p k update).flatten
    let x := p.ports[n]
    let w := x.counters
    num 24 2 = x.ringFaults % 256 ^ 2 ∧ num 26 2 = 0
      ∧ (∀ c : Cls, num (28 + c.val) 1 = (p.blockReasonOf (egressRing n c)).code.toNat)
      ∧ num 32 4 = w.owed.toNat ∧ num 36 4 = w.delivered.toNat ∧ num 40 4 = w.received.toNat ∧ num 44 4 = w.holdExpired.toNat
      ∧ num 48 4 = w.destDown.toNat ∧ num 52 4 = w.oversize.toNat ∧ num 56 4 = w.sourceDown.toNat
      ∧ num 60 4 = w.plan.toNat ∧ num 64 4 = w.memory.toNat ∧ num 68 4 = w.malformed.toNat ∧ num 72 52 = 0 := by
  have blocks := recordBlocks_slot number
  have lead : (slotHead p.ports[n] ++ identityBytes p.ports[n].shown).length = 20 := by
    rw [List.length_append, length_slotHead, length_identityBytes fun i shows => Nat.le_of_eq (whole i shows)]
  have size : (recordBody p k).length = 68 := by
    rw [recordBody_slot_eq number, List.length_append, lead, length_slotTail]
  have at_ : ∀ {o m : Nat} {bs : List Byte}, 20 ≤ o → ((slotTail p n).drop (o - 20)).take m = bs →
      ((recordBody p k).drop o).take m = bs := by
    intro o m bs after holds
    rw [recordBody_slot_eq number, drop_take_append_right (by rw [lead]; exact after), lead]
    exact holds
  have fits : ∀ {o : Nat}, o ≤ 128 → o ≤ 64 * recordBlocks k := fun h => by rw [blocks]; exact h
  refine ⟨captured_number (at_ ?_ rfl) ?_ ?_ (fits ?_), captured_zeros (at_ ?_ rfl) ?_ ?_ (fits ?_), fun c => ?_,
    captured_word (at_ ?_ rfl) ?_ ?_ (fits ?_) ?_, captured_word (at_ ?_ rfl) ?_ ?_ (fits ?_) ?_,
    captured_word (at_ ?_ rfl) ?_ ?_ (fits ?_) ?_, captured_word (at_ ?_ rfl) ?_ ?_ (fits ?_) ?_,
    captured_word (at_ ?_ rfl) ?_ ?_ (fits ?_) ?_, captured_word (at_ ?_ rfl) ?_ ?_ (fits ?_) ?_,
    captured_word (at_ ?_ rfl) ?_ ?_ (fits ?_) ?_, captured_word (at_ ?_ rfl) ?_ ?_ (fits ?_) ?_,
    captured_word (at_ ?_ rfl) ?_ ?_ (fits ?_) ?_, captured_word (at_ ?_ rfl) ?_ ?_ (fits ?_) ?_,
    captured_unused (Nat.le_of_eq (congrArg (4 + ·) size)) (fits (by decide))⟩
  case refine_9 =>
    match c with
    | 0 | 1 | 2 | 3 => exact captured_byte (at_ (by decide) rfl) (by decide) (fits (by decide))
  all_goals decide

end slot

/-! ### The gate record (11.5) -/

/-- The entry of one gate in the gate record (11.5). -/
def gateEntry (g : Gate) : List Byte :=
  g.state.code :: zeros 3 ++ leBytes 4 g.opens.toNat ++ leBytes 4 g.overruns.toNat ++ leBytes 4 g.suppressed.toNat

theorem gateRecord_eq (p : Part) : recordBody p 15 = zeros 12 ++ p.gates.toList.flatMap gateEntry := rfl

theorem gateRecord_entry (p : Part) (update : BitVec 16) (g : GateNo) : let num := field (captureRecord p 15 update).flatten
    let x := p.gates[g]
    num (16 + 16 * g.val) 1 = x.state.code.toNat ∧ num (17 + 16 * g.val) 3 = 0 ∧ num (20 + 16 * g.val) 4 = x.opens.toNat
      ∧ num (24 + 16 * g.val) 4 = x.overruns.toNat ∧ num (28 + 16 * g.val) 4 = x.suppressed.toNat := by
  have count : g.val < p.gates.toList.length := by
    rw [Vector.length_toList]
    exact g.isLt
  have entry : ∀ {o n m : Nat} {bs : List Byte}, o + n ≤ 16 → m = 16 + 16 * g.val + o →
      ((gateEntry p.gates[g]).drop o).take n = bs → ((recordBody p 15).drop (m - 4)).take n = bs := by
    rintro o n m bs within rfl holds
    refine (drop_take_entry (f := gateEntry) (w := 16) (fun _ => rfl) (gateRecord_eq p) count within (by show _ = 12 + (16 * g.val + o); omega)).trans ?_
    rw [Vector.getElem_toList]
    exact holds
  have fits : ∀ {o : Nat}, o ≤ 144 → o ≤ 64 * recordBlocks 15 := fun h => Nat.le_trans h (show 144 ≤ 64 * 3 by decide)
  exact ⟨captured_byte (entry (o := 0) (by omega) (by omega) rfl) (by omega) (fits (by omega)),
    captured_zeros (entry (o := 1) (by omega) (by omega) rfl) (by omega) (by omega) (fits (by omega)),
    captured_word (entry (o := 4) (by omega) (by omega) rfl) (by omega) (by omega) (fits (by omega)) (by decide),
    captured_word (entry (o := 8) (by omega) (by omega) rfl) (by omega) (by omega) (fits (by omega)) (by decide),
    captured_word (entry (o := 12) (by omega) (by omega) rfl) (by omega) (by omega) (fits (by omega)) (by decide)⟩

/-! ### The alarm summary (Table 11-16) -/

/-- The fields of the alarm summary before the points, from offset 4 (Table 11-16). -/
def summaryHead (p : Part) : List Byte :=
  let l := p.status.log
  [flagByte p.alarm.cutoff, flagByte (p.relay .critical), flagByte (p.relay .major), flagByte (p.relay .minor)]
    ++ leBytes 4 l.base ++ leBytes 2 l.capacity ++ leBytes 2 l.producer ++ leBytes 2 l.consumer ++ zeros 2
    ++ leBytes 4 l.nextSequence.toNat ++ leBytes 4 l.overflow.toNat ++ zeros 36

theorem alarmSummary_eq (p : Part) : recordBody p 16 = summaryHead p ++ allPoints.flatMap (pointEntry p) := rfl

theorem alarmSummary_head (p : Part) (update : BitVec 16) : let num := field (captureRecord p 16 update).flatten
    let l := p.status.log
    num 4 1 = (if p.alarm.cutoff then 1 else 0) ∧ num 5 1 = (if p.relay .critical then 1 else 0)
      ∧ num 6 1 = (if p.relay .major then 1 else 0) ∧ num 7 1 = (if p.relay .minor then 1 else 0)
      ∧ num 8 4 = l.base % 256 ^ 4 ∧ num 12 2 = l.capacity % 256 ^ 2 ∧ num 14 2 = l.producer % 256 ^ 2
      ∧ num 16 2 = l.consumer % 256 ^ 2 ∧ num 18 2 = 0 ∧ num 20 4 = l.nextSequence.toNat ∧ num 24 4 = l.overflow.toNat
      ∧ num 28 36 = 0 ∧ num 1488 44 = 0 := by
  have lead : ∀ {o n : Nat} {bs : List Byte}, o + n ≤ 60 → ((summaryHead p).drop o).take n = bs →
      ((recordBody p 16).drop o).take n = bs := by
    intro o n bs within holds
    rw [alarmSummary_eq, drop_take_append_left (show _ ≤ 60 from within)]
    exact holds
  refine ⟨captured_flag (lead ?_ rfl) ?_ ?_, captured_flag (lead ?_ rfl) ?_ ?_, captured_flag (lead ?_ rfl) ?_ ?_,
    captured_flag (lead ?_ rfl) ?_ ?_, captured_number (lead ?_ rfl) ?_ ?_ ?_, captured_number (lead ?_ rfl) ?_ ?_ ?_,
    captured_number (lead ?_ rfl) ?_ ?_ ?_, captured_number (lead ?_ rfl) ?_ ?_ ?_, captured_zeros (lead ?_ rfl) ?_ ?_ ?_,
    captured_word (lead ?_ rfl) ?_ ?_ ?_ ?_, captured_word (lead ?_ rfl) ?_ ?_ ?_ ?_, captured_zeros (lead ?_ rfl) ?_ ?_ ?_,
    captured_unused (Nat.le_of_eq (congrArg (4 + ·) (length_alarmSummary p))) (by decide)⟩
  all_goals decide

/-- The last change of a point in its entry (Table 11-16). -/
def changeBytes : Option CabinetTime → List Byte
  | some t => [1, t.epoch] ++ leBytes 4 t.seconds.toNat ++ leBytes 4 t.ns
  | none => zeros 10

theorem pointEntry_eq (p : Part) (i : Point) :
    pointEntry p i = [flagByte p.alarm.points[i].raw, flagByte p.plan.alarm.points[i].force,
      flagByte p.plan.alarm.points[i].mask, p.plan.alarm.points[i].severity.code, p.alarm.points[i].state.code]
      ++ leBytes 1 p.alarm.points[i].raiseCount ++ changeBytes p.alarm.points[i].lastChange := by
  unfold pointEntry changeBytes
  rfl

theorem alarmSummary_point (p : Part) (update : BitVec 16) (i : Point) : let num := field (captureRecord p 16 update).flatten
    let o := 64 + 16 * i.val
    let x := p.alarm.points[i]
    let plan := p.plan.alarm.points[i]
    num o 1 = (if x.raw then 1 else 0) ∧ num (o + 1) 1 = (if plan.force then 1 else 0)
      ∧ num (o + 2) 1 = (if plan.mask then 1 else 0) ∧ num (o + 3) 1 = plan.severity.code.toNat
      ∧ num (o + 4) 1 = x.state.code.toNat ∧ num (o + 5) 1 = x.raiseCount % 256 ^ 1
      ∧ (x.lastChange = none → num (o + 6) 10 = 0)
      ∧ ∀ t, x.lastChange = some t → num (o + 6) 1 = 1 ∧ num (o + 7) 1 = t.epoch.toNat ∧ num (o + 8) 4 = t.seconds.toNat
          ∧ num (o + 12) 4 = t.ns % 256 ^ 4 := by
  have count : i.val < allPoints.length := by
    unfold allPoints
    rw [List.length_finRange]
    exact i.isLt
  have point : allPoints[i.val] = i := List.getElem_finRange _
  have entry : ∀ {o n m : Nat} {bs : List Byte}, o + n ≤ 16 → m = 64 + 16 * i.val + o →
      ((pointEntry p i).drop o).take n = bs → ((recordBody p 16).drop (m - 4)).take n = bs := by
    rintro o n m bs within rfl holds
    refine (drop_take_entry (f := pointEntry p) (w := 16) (length_pointEntry p) (alarmSummary_eq p) count within
      (by show _ = 60 + (16 * i.val + o); omega)).trans ?_
    rw [point]
    exact holds
  rw [pointEntry_eq] at entry
  have fits : ∀ {o : Nat}, o ≤ 1488 → o ≤ 64 * recordBlocks 16 := fun h => Nat.le_trans h (show 1488 ≤ 64 * 24 by decide)
  refine ⟨captured_flag (entry (o := 0) (by omega) (by omega) rfl) (by omega) (fits (by omega)),
    captured_flag (entry (o := 1) (by omega) (by omega) rfl) (by omega) (fits (by omega)),
    captured_flag (entry (o := 2) (by omega) (by omega) rfl) (by omega) (fits (by omega)),
    captured_byte (entry (o := 3) (by omega) (by omega) rfl) (by omega) (fits (by omega)),
    captured_byte (entry (o := 4) (by omega) (by omega) rfl) (by omega) (fits (by omega)),
    captured_number (entry (o := 5) (by omega) (by omega) rfl) (by omega) (by omega) (fits (by omega)), fun never => ?_,
    fun t changed => ?_⟩
  · rw [never] at entry
    exact captured_zeros (entry (o := 6) (by omega) (by omega) rfl) (by omega) (by omega) (fits (by omega))
  · rw [changed] at entry
    exact ⟨captured_byte (b := 1) (entry (o := 6) (by omega) (by omega) rfl) (by omega) (fits (by omega)),
      captured_byte (entry (o := 7) (by omega) (by omega) rfl) (by omega) (fits (by omega)),
      captured_word (entry (o := 8) (by omega) (by omega) rfl) (by omega) (by omega) (fits (by omega)) (by decide),
      captured_number (entry (o := 12) (by omega) (by omega) rfl) (by omega) (by omega) (fits (by omega))⟩

end Sys2Proof.Machine
end


section
/-! PROOFS. The status records and the log record against the tables of Chapter 11. -/
namespace Sys2Proof.Machine

/-- A log record (Table 11-17). -/
theorem logBytes_fields (r : LogRecord) : let num := field (logBytes r)
    num 0 4 = r.sequence.toNat ∧ num 4 1 = r.point.val ∧ num 5 1 = (if r.raised = true then 1 else 2)
      ∧ num 6 1 = r.severity.code.toNat ∧ num 7 1 = (if r.forced then 1 else 0) ∧ num 8 4 = r.time.seconds.toNat
      ∧ num 12 4 = r.time.ns % 256 ^ 4 ∧ num 16 1 = r.time.epoch.toNat ∧ num 17 15 = 0 := by
  have word : ∀ {v : Word} {o : Nat}, ((logBytes r).drop o).take 4 = leBytes 4 v.toNat → field (logBytes r) o 4 = v.toNat :=
    fun {v o} holds => (field_eq_of_leBytes holds).trans (Nat.mod_eq_of_lt v.isLt)
  have point : (BitVec.ofNat 8 r.point.val).toNat = r.point.val := Nat.mod_eq_of_lt (by omega)
  refine ⟨word rfl, (field_eq_of_byte rfl).trans point, (field_eq_of_byte rfl).trans ?_, field_eq_of_byte rfl,
    (field_eq_of_byte rfl).trans ?_, word rfl, field_eq_of_leBytes rfl, field_eq_of_byte rfl, field_eq_zero rfl⟩
  · cases r.raised <;> rfl
  · cases r.forced <;> rfl

/-- Settles O57: each record's fields at their offsets, and the update number at both ends. -/
theorem recordsHoldTheirFields : Obligations.RecordsHoldTheirFields := by
  unfold Obligations.RecordsHoldTheirFields
  intro val flag severity two32
  have severe : ∀ v : Severity, v.code.toNat = severity v := fun v => by cases v <;> rfl
  refine ⟨fun p k update => ?_, fun r => ?_⟩
  · intro bytes size num
    have word : ∀ o, field bytes o 4 = num o 4 := fun _ => rfl
    have small : update.toNat < 256 ^ 4 := Nat.lt_trans update.isLt (by decide)
    refine ⟨length_captureRecord p k update, ?_, fun short => ?_, ?_, ?_, ?_, fun n number => ?_, ?_, ?_⟩
    · exact (field_eq_of_leBytes (captureRecord_first p k update)).trans (Nat.mod_eq_of_lt small)
    · exact (field_eq_of_leBytes (captureRecord_last (length_recordBody short k) update)).trans (Nat.mod_eq_of_lt small)
    · rintro rfl
      obtain ⟨family, revision, cause, unused, warm, rest⟩ := resetRecord_fields p update
      exact ⟨family, revision, cause.trans (by cases p.control.cause <;> rfl), unused, warm, rest⟩
    · rintro rfl
      obtain ⟨number, warm, kind, outcome, failing, unused, generation, entry, clamps, active, rest⟩ :=
        planResultRecord_fields p update
      exact ⟨number, warm, kind.trans (by cases p.loader.result.kind <;> rfl),
        outcome.trans (by cases p.loader.result.outcome <;> rfl),
        failing.trans (by cases p.loader.result.failingSection <;> rfl), unused, generation, entry, clamps, active, rest⟩
    · rintro rfl
      intro x ref
      have refCode : ∀ y : Reference, y.state.code.toNat = ref y := fun y => by
        show _ = (match y.state with | .quiet => 0 | .qualifying => 1 | .qualified => 2 : Nat)
        cases y.state <;> rfl
      obtain ⟨seconds, ns, epoch, state, trained, selected, refA, refB, reached, waits, pending, error, facc, c, holdover,
        increment, skipped, rest⟩ := timeRecord_fields p update
      refine ⟨seconds, ns, epoch, state.trans ?_, trained, selected.trans ?_, refA.trans (refCode _), refB.trans (refCode _),
        reached, waits, pending.trans ?_, error.trans (toNat_ofInt_32 _), facc.trans (toNat_ofInt_32 _),
        c.trans (toNat_ofInt_32 _), holdover.trans ?_, increment, skipped, rest⟩
      · cases p.clock.state <;> rfl
      · show (selectedCode p.clock.selected).toNat = _
        rcases p.clock.selected with _ | _ | _ <;> rfl
      · cases p.clock.pendingSeconds <;> rfl
      · unfold Part.holdoverSeconds
        cases p.clock.state <;> cases p.clock.holdoverStart <;> rfl
    · intro x shown w
      obtain ⟨state, reason, removed, result, shows, waived, lost, violations⟩ := slotRecord_head (p := p) number update
      refine ⟨state.trans (by cases p.ports[n].state <;> rfl), reason.trans (by cases p.ports[n].fenceReason <;> rfl), removed,
        result.trans (by cases p.ports[n].admitResult <;> rfl), shows, waived, lost, violations,
        fun hidden => slotRecord_no_identity number update hidden, fun i has whole => slotRecord_identity number update has whole,
        fun whole => ?_⟩
      obtain ⟨faults, unused, reasons, counters⟩ := slotRecord_tail number update whole
      refine ⟨faults, unused, fun c => (reasons c).trans ?_, counters⟩
      unfold Part.blockReasonOf
      cases p.headRecord (egressRing n c) with
      | none => rfl
      | some h => cases reason : h.blockReason <;> simp only [reason] <;> rfl
    · rintro rfl
      refine ⟨captured_zeros rfl (by decide) (by decide) (by decide), captured_unused ?_ (by decide), fun g => ?_⟩
      · exact Nat.le_of_eq (congrArg (4 + ·) (length_gateRecord p))
      · obtain ⟨state, unused, opens, overruns, suppressed⟩ := gateRecord_entry p update g
        exact ⟨state.trans (by cases p.gates[g].state <;> rfl), unused, opens, overruns, suppressed⟩
    · rintro rfl
      obtain ⟨cutoff, critical, major, minor, base, capacity, producer, consumer, unused, sequence, overflow, rest, last⟩ :=
        alarmSummary_head p update
      refine ⟨cutoff, critical, major, minor, base, capacity, producer, consumer, unused, sequence, overflow, rest, last,
        fun i => ?_⟩
      obtain ⟨raw, force, mask, severity', state, count, never, changed⟩ := alarmSummary_point p update i
      refine ⟨raw, force, mask, severity'.trans (severe _), state.trans (by cases p.alarm.points[i].state <;> rfl), count, ?_⟩
      cases change : p.alarm.points[i].lastChange with
      | none => exact never change
      | some t => exact changed t change
  · obtain ⟨sequence, point, raised, severity', forced, seconds, ns, epoch, rest⟩ := logBytes_fields r
    refine ⟨rfl, sequence, point, raised, severity'.trans (severe _), forced, seconds, ns, epoch, rest⟩

end Sys2Proof.Machine
end


section
/-! PROOFS. The selection of a reference, misses and the holdover limit (R132 to R137). -/
namespace Sys2Proof.Machine

/-! ### The selection (R133, R134, R136) -/

@[simp] theorem Clock.ref_setRef_self (k : Clock) (r : RefId) (x : Reference) : (k.setRef r x).ref r = x := by
  cases r <;> rfl

theorem Clock.ref_setRef_ne {r r' : RefId} (h : r' ≠ r) (k : Clock) (x : Reference) : (k.setRef r x).ref r' = k.ref r' := by
  match r, r', h with
  | .a, .b, _ | .b, .a, _ => rfl
  | .a, .a, h | .b, .b, h => exact absurd rfl h

/-- What a reference record leaves of the clock when it is set. -/
theorem Clock.setRef_eq (k : Clock) (r : RefId) (x : Reference) :
    k.setRef r x = { k with refA := (k.setRef r x).refA, refB := (k.setRef r x).refB } := by
  cases r <;> rfl

theorem Clock.select_of_found {k : Clock} {plan : ClockPlan} (h : k.found plan = k.selected) (now : Nat) :
    k.select plan now = k := if_pos h

theorem Clock.select_of_some {k : Clock} {plan : ClockPlan} {r : RefId} (found : k.found plan = some r)
    (change : k.selected ≠ some r) (now : Nat) :
    k.select plan now = { k with
      selected := some r, state := .acquiring, strays := 0, lock := 0, holdoverStart := none, holdoverReached := false } := by
  unfold Clock.select
  rw [found, if_neg fun e => change e.symm]
  rfl

theorem Clock.setCorrection_zero (k : Clock) :
    k.setCorrection k.facc 0 = { k with p := 0, c := k.facc, increment := incrementOf k.facc } := by
  unfold Clock.setCorrection
  rw [Int.add_zero]

theorem Clock.select_of_none {k : Clock} {plan : ClockPlan} (found : k.found plan = none) (change : k.selected ≠ none)
    (state : k.state = .tracking ∨ k.state = .acquiring) (now : Nat) :
    k.select plan now = { k with
      selected := none, strays := 0, lock := 0, p := 0, c := k.facc, increment := incrementOf k.facc
      state := if k.state = .tracking ∨ k.trained = true then .holdover else .freerun
      holdoverStart := if k.state = .tracking ∨ k.trained = true then some now else none
      holdoverReached := false } := by
  have corrected := Clock.setCorrection_zero { k with selected := none, strays := 0, lock := 0 }
  unfold Clock.select
  rw [found, if_neg fun e => change e.symm]
  dsimp only
  rcases state with tracking | acquiring
  · rw [if_pos (.inl tracking), if_pos (.inl tracking), tracking]
    dsimp only
    unfold Clock.loseReference
    rw [← tracking]
    exact congrArg (fun k : Clock => { k with state := .holdover, holdoverStart := some now, holdoverReached := false }) corrected
  · rw [acquiring]
    dsimp only
    unfold Clock.loseReference
    rw [← acquiring]
    by_cases trained : k.trained = true
    · rw [if_pos trained, if_pos (.inr trained), if_pos (.inr trained)]
      exact congrArg (fun k : Clock => { k with state := .holdover, holdoverStart := some now, holdoverReached := false }) corrected
    · have neither : ¬ (k.state = .tracking ∨ k.trained = true) := by
        rintro (e | e)
        · exact absurd (acquiring.symm.trans e) nofun
        · exact trained e
      rw [if_neg trained, if_neg neither, if_neg neither]
      exact congrArg (fun k : Clock => { k with state := .freerun, holdoverStart := none, holdoverReached := false }) corrected

/-- A clock with no reference left that was neither TRACKING nor ACQUIRING keeps its state (R136). -/
theorem Clock.select_of_none_idle {k : Clock} {plan : ClockPlan} (found : k.found plan = none) (change : k.selected ≠ none)
    (state : k.state = .freerun ∨ k.state = .holdover) (now : Nat) :
    k.select plan now = { k with selected := none, strays := 0, lock := 0 } := by
  unfold Clock.select
  rw [found, if_neg fun e => change e.symm]
  dsimp only
  rcases state with e | e <;> rw [e]

theorem ClockState.cases_of (x : ClockState) : (x = .tracking ∨ x = .acquiring) ∨ (x = .freerun ∨ x = .holdover) := by
  cases x <;> simp

/-- The selection stands at what it finds (R133). -/
theorem Clock.select_selected (k : Clock) (plan : ClockPlan) (now : Nat) : (k.select plan now).selected = k.found plan := by
  by_cases same : k.found plan = k.selected
  · rw [Clock.select_of_found same, same]
  · cases found : k.found plan with
    | some r => rw [Clock.select_of_some found fun e => same (found.trans e.symm)]
    | none =>
      have change : k.selected ≠ none := fun e => same (found.trans e.symm)
      rcases k.state.cases_of with state | state
      · rw [Clock.select_of_none found change state]
      · rw [Clock.select_of_none_idle found change state]

theorem Clock.ref_select (k : Clock) (plan : ClockPlan) (now : Nat) (r : RefId) : (k.select plan now).ref r = k.ref r := by
  have refs : (k.select plan now).refA = k.refA ∧ (k.select plan now).refB = k.refB := by
    by_cases same : k.found plan = k.selected
    · rw [Clock.select_of_found same]
      exact ⟨rfl, rfl⟩
    · cases found : k.found plan with
      | some r =>
        rw [Clock.select_of_some found fun e => same (found.trans e.symm)]
        exact ⟨rfl, rfl⟩
      | none =>
        have change : k.selected ≠ none := fun e => same (found.trans e.symm)
        rcases k.state.cases_of with state | state
        · rw [Clock.select_of_none found change state]
          exact ⟨rfl, rfl⟩
        · rw [Clock.select_of_none_idle found change state]
          exact ⟨rfl, rfl⟩
  cases r
  · exact refs.1
  · exact refs.2

/-- The reference that the priority order prefers (R133). -/
def Clock.preferred (k : Clock) (plan : ClockPlan) : Option RefId :=
  if (k.ref plan.first).state = .qualified then some plan.first
  else if (k.ref (if plan.first = .a then .b else .a)).state = .qualified then some (if plan.first = .a then .b else .a) else none

theorem Clock.found_of_kept {k : Clock} {plan : ClockPlan} {r : RefId} (fixed : plan.revertive = false)
    (selected : k.selected = some r) (qualified : (k.ref r).state = .qualified) : k.found plan = some r := by
  unfold Clock.found
  rw [selected]
  dsimp only
  rw [fixed, qualified]
  rfl

theorem Clock.found_of_not_kept {k : Clock} {plan : ClockPlan}
    (h : ∀ r, ¬ (plan.revertive = false ∧ k.selected = some r ∧ (k.ref r).state = .qualified)) :
    k.found plan = k.preferred plan := by
  unfold Clock.found
  cases selected : k.selected with
  | none => rfl
  | some r =>
    dsimp only
    refine if_neg fun kept => h r ?_
    rw [Bool.and_eq_true, Bool.not_eq_true', beq_iff_eq] at kept
    exact ⟨kept.1, selected, kept.2⟩

theorem Clock.besidesSelection_setRef (k : Clock) (r : RefId) (x : Reference) :
    (k.setRef r x).besidesSelection = k.besidesSelection := by
  cases r <;> rfl

theorem Clock.selected_setRef (k : Clock) (r : RefId) (x : Reference) : (k.setRef r x).selected = k.selected := by
  cases r <;> rfl

theorem Clock.state_setRef (k : Clock) (r : RefId) (x : Reference) : (k.setRef r x).state = k.state := by
  cases r <;> rfl

/-- A miss with the deadline written out (R132). -/
theorem Reference.miss_eq (x : Reference) (plan : RefPlan) :
    x.miss plan = if plan.missLimit ≤ x.misses + 1 then Reference.quiet
      else { x with
        misses := x.misses + 1
        deadline := some (x.previous.getD 0 + (x.misses + 2) * 125000000 + plan.tolerance * 125) } := rfl

theorem Part.clock_of_alarms {p q : Part} (h : q.besidesAlarms = p.besidesAlarms) : q.clock = p.clock :=
  (congrArg Part.clock h :)

/-- Settles O50: the branches of the selection, and a miss and the holdover limit with the selection after them. -/
theorem missesAndHoldoverAreTaken : Obligations.MissesAndHoldoverAreTaken := by
  unfold Obligations.MissesAndHoldoverAreTaken
  refine ⟨?_, fun s r running => ?_⟩
  · intro k plan now q other kept holds
    have selected : q.selected = k.found plan := k.select_selected plan now
    refine ⟨fun r ⟨fixed, here, qualified⟩ => selected.trans (Clock.found_of_kept fixed here qualified),
      fun none => selected.trans (Clock.found_of_not_kept none), fun same => Clock.select_of_found (selected.symm.trans same) now,
      fun r now' change => Clock.select_of_some (selected.symm.trans now') change now,
      fun none change state => Clock.select_of_none (selected.symm.trans none) change state now⟩
  · intro k ref plan missed q
    have record : ref.miss (plan.ref r) = missed := Reference.miss_eq _ _
    refine ⟨fun due => ?_, fun due => ?_⟩
    · have event : s.part.after (.miss r) = Part.report clockPoints { s.part with clock := q.select plan s.part.now } := by
        rw [Part.after_miss, Part.whenDue_of_due running due]
        show Part.report clockPoints { s.part with clock := (k.setRef r (ref.miss (plan.ref r))).select plan s.part.now } = _
        rw [record]
      have view := Part.besidesAlarms_report clockPoints { s.part with clock := q.select plan s.part.now }
      rw [← event] at view
      have clock : (s.part.after (.miss r)).clock = q.select plan s.part.now :=
        Part.clock_of_alarms (p := { s.part with clock := q.select plan s.part.now }) view
      refine ⟨_, exec_eq_after (c := .miss r) nofun s, rfl, ?_⟩
      rw [State.modPart_part, clock]
      refine ⟨?_, ?_, view, fun i off => ?_, rfl, fun same => ?_, fun here none state => ?_⟩
      · rw [Clock.ref_select, Clock.ref_setRef_self]
      · rw [Clock.besidesSelection_select, Clock.besidesSelection_setRef]
      · rw [event]
        exact Part.report_point_ne off _
      · exact Clock.select_of_found (same.trans (Clock.selected_setRef _ _ _).symm) _
      · have selected : q.selected ≠ .none := by
          rw [Clock.selected_setRef, here]
          nofun
        have lost := Clock.select_of_none none selected (by rw [Clock.state_setRef]; exact state) s.part.now
        have facc : q.facc = k.facc := (congrArg Clock.facc (Clock.setRef_eq k r missed) :)
        have now' : q.state = k.state := Clock.state_setRef k r missed
        have trained : q.trained = k.trained := (congrArg Clock.trained (Clock.setRef_eq k r missed) :)
        rw [lost, facc, now', trained]
        refine ⟨rfl, rfl, rfl, rfl, ?_⟩
        split
        · exact ⟨rfl, rfl, rfl⟩
        · rfl
    · have event : s.part.after .holdoverLimit
          = Part.report clockPoints { s.part with clock := { k with holdoverReached := true } } := by
        rw [Part.after_holdoverLimit, Part.whenDue_of_due running due]
      have view := Part.besidesAlarms_report clockPoints { s.part with clock := { k with holdoverReached := true } }
      rw [← event] at view
      have clock : (s.part.after .holdoverLimit).clock = { k with holdoverReached := true } :=
        Part.clock_of_alarms (p := { s.part with clock := { k with holdoverReached := true } }) view
      refine ⟨_, exec_eq_after (c := .holdoverLimit) nofun s, rfl, ?_⟩
      rw [State.modPart_part, clock]
      refine ⟨rfl, view, fun i off => ?_⟩
      rw [event]
      exact Part.report_point_ne off _

end Sys2Proof.Machine
end


section
/-! PROOFS. Ticks and their receivers (R122, R149, R150, R156, R161). -/
namespace Sys2Proof.Machine

/-- The part after a tick of kind `k` has moved its boundary on by `n` periods and reached the gates and strobe schedules (R150,
R151). -/
def Part.emitted (k : TickKind) (n : Nat) (p : Part) : Part :=
  Part.tickReceivers k { p with gens := modify p.gens (kindNo k) fun g =>
    { last := g.last.after n (p.plan.period k) p.clock.epoch, skipped := g.skipped + BitVec.ofNat 32 (n - 1) } }

/-- The discard tally closed at a SECOND tick and handed to the alarm unit (R122, R166). -/
def Part.closeTally (p : Part) : Part :=
  { p with
    engine := { p.engine with lastSecond := p.engine.tally, tally := 0 }
    alarm := { p.alarm with discards := p.engine.tally }
    secondTick := true }

/-- The time, slot and gate records made dirty (R180). -/
def Part.markSecond (p : Part) : Part := forEach 14 (fun k q => q.mark ⟨k.val + 2, by omega⟩) p

theorem Part.secondWork_eq (p : Part) : p.secondWork = (p.closeTally.report [80]).markSecond := rfl

theorem Part.emitTick_of_second (n : Nat) (p : Part) : p.emitTick .second n = (p.emitted .second n).secondWork := rfl

theorem Part.emitTick_of_ne {k : TickKind} (h : k ≠ .second) (n : Nat) (p : Part) : p.emitTick k n = p.emitted k n := if_neg h

theorem Part.besidesAlarms_markSecond (p : Part) : p.markSecond.besidesAlarms = p.besidesAlarms := by
  unfold Part.markSecond
  exact forEach_keeps Part.besidesAlarms 14 _ (fun k q => Part.besidesAlarms_mark _ q) p

theorem Part.markSecond_alarm (p : Part) : p.markSecond.alarm = p.alarm := by
  unfold Part.markSecond
  exact forEach_keeps Part.alarm 14 _ (fun k q => Part.mark_alarm _ q) p

theorem Part.besidesAlarms_secondWork (p : Part) : p.secondWork.besidesAlarms = p.closeTally.besidesAlarms := by
  rw [Part.secondWork_eq, Part.besidesAlarms_markSecond, Part.besidesAlarms_report]

theorem Part.secondWork_point_ne {i : Point} (h : i ≠ 80) (p : Part) :
    p.secondWork.alarm.points[i.val] = p.alarm.points[i.val] := by
  rw [Part.secondWork_eq, Part.markSecond_alarm]
  exact Part.report_point_ne (by simpa using h) p.closeTally

/-- The records of a SECOND tick are dirty after it (R180). -/
theorem Part.markSecond_dirty {k : RecordNo} (low : 2 ≤ k.val) (high : k.val ≤ 15) (p : Part) :
    p.markSecond.status.dirty[k.val] = true := by
  have each := forEach_each (n := 14) (f := fun k (q : Part) => q.mark ⟨k.val + 2, by omega⟩)
    (Before := fun _ _ => True) (After := fun i q => q.status.dirty[i.val + 2] = true)
    (fun i q _ => Status.mark_dirty_self _ _) (fun _ _ _ _ _ => trivial)
    (fun i j q _ h => Status.dirtyIn_mark q.status _ ⟨j.val + 2, by omega⟩ h) (s := p) (fun _ => trivial) ⟨k.val - 2, by omega⟩
  have index : k.val - 2 + 2 = k.val := by omega
  unfold Part.markSecond
  simpa only [index] using each

theorem Gate.tick_eq (x : Gate) (plan : GatePlan) (clock : ClockState) (now : Nat) :
    x.tick plan clock now =
      if x.state ≠ .closed then { x with overruns := x.overruns + 1 }
      else if plan.traceable = true ∧ (clock = .freerun ∨ clock = .acquiring) then { x with suppressed := x.suppressed + 1 }
      else if plan.openDelay ≠ 0 then { x with state := .armed, delayStart := now }
      else { x with
        state := .opened, delayStart := now, opens := x.opens + 1
        windowStart := if plan.mode = .window then now else x.windowStart } := by
  have traceless : (plan.traceable && clock.untraceable) = true ↔ plan.traceable = true ∧ (clock = .freerun ∨ clock = .acquiring) := by
    rw [Bool.and_eq_true]
    refine and_congr_right fun _ => ?_
    cases clock <;> simp [ClockState.untraceable]
  unfold Gate.tick
  cases state : x.state with
  | armed | opened => rfl
  | closed =>
    rw [if_neg (Classical.not_not.mpr rfl)]
    dsimp only
    by_cases bad : plan.traceable = true ∧ (clock = .freerun ∨ clock = .acquiring)
    · rw [if_pos (traceless.mpr bad), if_pos bad]
    · rw [if_neg fun e => bad (traceless.mp e), if_neg bad]
      by_cases delay : plan.openDelay = 0
      · rw [if_pos delay, if_neg (Classical.not_not.mpr delay), Gate.openNow_eq, if_neg bad]
      · rw [if_neg delay, if_pos delay]

theorem Strobe.tick_eq (x : Strobe) (plan : SlotPlan) (osc : Nat) :
    x.tick plan osc = if x.armed = true ∧ x.pending = none ∧ x.driven = none then
      { x with pending := some (osc + plan.strobeDelay / 8) } else x := by
  unfold Strobe.tick
  simp only [Bool.and_eq_true, Option.isNone_iff_eq_none, and_assoc]

theorem Part.emitted_gate (k : TickKind) (n : Nat) (p : Part) (g : GateNo) :
    (p.emitted k n).gates[g] = if p.plan.gates[g].source = some k then p.gates[g].tick p.plan.gates[g] p.clock.state p.now
      else p.gates[g] := getElem_mapTable _ _ _ _

theorem Part.emitted_port (k : TickKind) (n : Nat) (p : Part) (m : Slot) :
    (p.emitted k n).ports[m] = if p.plan.slots[m].strobeKind = some k then
      { p.ports[m] with strobe := p.ports[m].strobe.tick p.plan.slots[m] p.osc } else p.ports[m] := getElem_mapTable _ _ _ _

theorem Engine.lastSecond_of_exchange {p q : Part} (h : q.besidesExchange = p.besidesExchange) :
    q.engine.lastSecond = p.engine.lastSecond :=
  (congrArg (fun x : Part => x.engine.lastSecond) h :)

/-- What a tick does before the exchange settles (R150): its boundary, the receivers, and for SECOND the once-a-second work. -/
theorem Part.emitTick_view (k : TickKind) (n : Nat) (p : Part) :
    (p.emitTick k n).besidesAlarms
      = Part.besidesAlarms (if k = .second then (p.emitted k n).closeTally else p.emitted k n) := by
  by_cases second : k = .second
  · subst second
    rw [if_pos rfl, Part.emitTick_of_second, Part.besidesAlarms_secondWork]
  · rw [if_neg second, Part.emitTick_of_ne second]

/-- The part besides the exchange, the alarm unit and the once-a-second work (R122). -/
def Part.besidesSecond (p : Part) : Part :=
  { p.besidesExchange.besidesAlarms with alarm := Alarm.reset, engine := Engine.reset, secondTick := false }

theorem Part.besidesSecond_of_exchange {p q : Part} (h : q.besidesExchange = p.besidesExchange) :
    q.besidesSecond = p.besidesSecond :=
  congrArg (fun x : Part => ({ x.besidesAlarms with alarm := Alarm.reset, engine := Engine.reset, secondTick := false } : Part)) h

theorem Part.besidesSecond_of_alarms {p q : Part} (h : q.besidesAlarms = p.besidesAlarms) : q.besidesSecond = p.besidesSecond := by
  unfold Part.besidesSecond
  rw [Part.besidesExchange_besidesAlarms, Part.besidesExchange_besidesAlarms, h]

theorem Part.besidesSecond_emitTick (k : TickKind) (n : Nat) (p : Part) :
    (p.emitTick k n).besidesSecond = (p.emitted k n).besidesSecond := by
  rw [Part.besidesSecond_of_alarms (Part.emitTick_view k n p)]
  split <;> rfl

/-- The receivers and the rings of a tick, which the once-a-second work leaves alone. -/
theorem Part.emitTick_tables (k : TickKind) (n : Nat) (p : Part) :
    (p.emitTick k n).gates = (p.emitted k n).gates ∧ (p.emitTick k n).ports = (p.emitted k n).ports
      ∧ (p.emitTick k n).rings = p.rings := by
  have view := Part.emitTick_view k n p
  have gates : (p.emitTick k n).gates = (if k = .second then (p.emitted k n).closeTally else p.emitted k n).gates :=
    (congrArg Part.gates view :)
  refine ⟨gates.trans ?_, (Part.ports_of_alarms view).trans ?_, (Part.rings_of_alarms view).trans ?_⟩ <;> split <;> rfl

theorem Part.emitted_gens (k : TickKind) (n : Nat) (p : Part) :
    (p.emitted k n).gens = modify p.gens (kindNo k) fun g =>
      { last := g.last.after n (p.plan.period k) p.clock.epoch, skipped := g.skipped + BitVec.ofNat 32 (n - 1) } := rfl

theorem Part.emitTick_point_ne {i : Point} (h : i ≠ 80) (k : TickKind) (n : Nat) (p : Part) :
    (p.emitTick k n).alarm.points[i.val] = p.alarm.points[i.val] := by
  have receivers : (p.emitted k n).alarm = p.alarm := rfl
  rw [← receivers]
  by_cases second : k = .second
  · subst second
    rw [Part.emitTick_of_second]
    exact Part.secondWork_point_ne h (p.emitted .second n)
  · rw [Part.emitTick_of_ne second]

/-- Settles O52: the boundary, the gates, the strobe schedules and the once-a-second work of a tick. -/
theorem tickReachesItsReceivers : Obligations.TickReachesItsReceivers := by
  unfold Obligations.TickReachesItsReceivers
  intro s kind running due old period
  have event : s.part.after (.tick kind) = (s.part.emitTick kind 1).settleExchange s.part.engine := by
    rw [Part.after_tick, Part.whenDue_of_due running due]
  obtain ⟨t, run, memory, settles⟩ := exec_settles event nofun
  have besides := settles.besidesExchange
  have view : t.part.besidesSecond = (s.part.emitted kind 1).besidesSecond :=
    (Part.besidesSecond_of_exchange besides).trans (Part.besidesSecond_emitTick kind 1 s.part)
  obtain ⟨gates, ports, rings⟩ := Part.emitTick_tables kind 1 s.part
  have gens : t.part.gens = (s.part.emitted kind 1).gens := (congrArg Part.gens view :)
  rw [Part.emitted_gens] at gens
  refine ⟨t, run, memory, ?_, fun j ne => ?_, fun g => ?_, fun n => ?_, ?_, fun i ne => ?_, fun r => ?_, (congrArg Part.clock view :),
    (congrArg Part.osc view :), (congrArg Part.plan view :), (congrArg Part.loader view :), (congrArg Part.watched view :),
    (congrArg Part.arbiter view :), (congrArg Part.flights view :), (congrArg Part.control view :), (congrArg Part.env view :)⟩
  · rw [gens]
    have length : s.part.plan.period kind = period := by cases kind <;> rfl
    refine (getElem_modify_self _ _ _).trans ?_
    rw [length]
    unfold CabinetTime.after
    rw [Nat.one_mul]
    exact congrArg (TickGen.mk _) (BitVec.add_zero _)
  · rw [gens]
    exact getElem_modify_ne _ _ _ _ _ fun e => ne (Fin.ext e).symm
  · intro x y plan suppressed z
    have moved : (s.part.emitTick kind 1).gates[g] = z := by
      rw [gates, Part.emitted_gate]
      by_cases source : plan.source = some kind
      · rw [if_pos source, Gate.tick_eq]
        exact (if_neg (Classical.not_not.mpr source)).symm
      · rw [if_neg source]
        exact (if_pos source).symm
    rcases settles.gate g with same | ⟨opened, pulse, closed⟩
    · exact .inl (same.trans moved)
    · rw [moved] at opened closed
      have plans : (s.part.emitTick kind 1).plan = s.part.plan :=
        (congrArg Part.plan (Part.besidesSecond_emitTick kind 1 s.part) :)
      exact .inr ⟨opened, by rw [plans] at pulse; exact pulse, closed⟩
  · intro x
    have port := Part.port_of_exchange besides n
    rw [ports, Part.emitted_port] at port
    refine port.trans (congrArg _ ?_)
    by_cases takes : s.part.plan.slots[n].strobeKind = some kind
    · rw [if_pos takes, Strobe.tick_eq]
      by_cases free : x.strobe.armed = true ∧ x.strobe.pending = none ∧ x.strobe.driven = none
      · rw [if_pos free, if_pos ⟨takes, free⟩]
      · rw [if_neg free, if_neg fun h => free h.2]
    · rw [if_neg takes, if_neg fun h => takes h.1]
  · have alarm := Part.alarm_of_exchange besides
    have status := Part.status_of_exchange besides
    have lastSecond := Engine.lastSecond_of_exchange besides
    have tick : t.part.secondTick = (s.part.emitTick kind 1).secondTick := (congrArg Part.secondTick besides :)
    by_cases second : kind = .second
    · subst second
      have work := Part.besidesAlarms_secondWork (s.part.emitted .second 1)
      rw [if_pos rfl, alarm, status, lastSecond, tick, Part.emitTick_of_second]
      refine ⟨(congrArg (fun x : Part => x.engine.lastSecond) work :), (congrArg (fun x : Part => x.alarm.discards) work :),
        (congrArg Part.secondTick work :), fun k low high => ?_⟩
      rw [Part.secondWork_eq]
      exact Part.markSecond_dirty low high _
    · rw [if_neg second, alarm, status, lastSecond, tick, Part.emitTick_of_ne second]
      exact ⟨rfl, rfl, rfl, rfl⟩
  · rw [Part.alarm_of_exchange besides]
    exact Part.emitTick_point_ne ne kind 1 s.part
  · have ring := Part.ring_of_exchange besides r
    rw [rings] at ring
    exact ring

end Sys2Proof.Machine
end


section
/-! PROOFS. Reference pulses and the discipline of the clock (R128 to R131, R139 to R143, R151, R152). -/
namespace Sys2Proof.Machine

/-! ### The reference record after a pulse (R130, R131) -/

/-- A good spacing of `seconds` s, with the tolerance in oscillator periods (R130, R131). -/
theorem goodSpacing_iff {plan : RefPlan} {spacing seconds : Nat} : goodSpacing plan spacing seconds = true ↔
    seconds * 125000000 ≤ spacing + plan.tolerance * 125 ∧ spacing ≤ seconds * 125000000 + plan.tolerance * 125 := by
  unfold goodSpacing
  rw [Bool.and_eq_true, decide_eq_true_iff, decide_eq_true_iff]
  rfl

/-- A reference QUALIFIED by a pulse at `at_` (R130, R131). -/
def Reference.qualifiedAt (plan : RefPlan) (at_ run : Nat) : Reference :=
  { state := .qualified, previous := some at_, run := run, misses := 0
    deadline := some (at_ + 125000000 + plan.tolerance * 125) }

theorem missDeadline_zero (plan : RefPlan) (at_ : Nat) :
    missDeadline plan at_ 0 = at_ + 125000000 + plan.tolerance * 125 := by
  unfold missDeadline
  rw [Nat.zero_add, Nat.one_mul]
  rfl

section pulse
variable {x : Reference} (plan : RefPlan) (at_ : Nat)

theorem Reference.pulse_of_quiet (h : x.state = .quiet) :
    x.pulse plan at_ = { x with state := .qualifying, run := 1, previous := some at_ } := by
  unfold Reference.pulse
  rw [h]

theorem Reference.pulse_of_qualifying (h : x.state = .qualifying) :
    x.pulse plan at_ = if goodSpacing plan (at_ - x.previous.getD 0) 1 = true then
        (if plan.qualifyCount ≤ x.run + 1 then Reference.qualifiedAt plan at_ (x.run + 1)
         else { x with run := x.run + 1, previous := some at_ })
      else { x with run := 1, previous := some at_ } := by
  unfold Reference.pulse Reference.qualifiedAt
  simp only [h, missDeadline_zero]

theorem Reference.pulse_of_qualified (h : x.state = .qualified) :
    x.pulse plan at_ = if goodSpacing plan (at_ - x.previous.getD 0) (1 + x.misses) = true then
      Reference.qualifiedAt plan at_ x.run else Reference.quiet := by
  unfold Reference.pulse Reference.qualifiedAt
  simp only [h, missDeadline_zero]

end pulse

/-! ### The phase error (R139) -/

theorem phaseError_eq {n d : Nat} (hn : n < 1000000000) (hd : d ≤ 1000000000) :
    phaseError n d = if ((n : Int) - d) % 1000000000 < 500000000 then ((n : Int) - d) % 1000000000
      else ((n : Int) - d) % 1000000000 - 1000000000 := by
  have phase : ((if d ≤ n then n - d else n + 1000000000 - d : Nat) : Int) = ((n : Int) - d) % 1000000000 := by
    split <;> omega
  unfold phaseError nsPerSecond
  dsimp only
  rw [← phase]
  exact ite_iff_congr (by omega) rfl rfl

theorem phaseError_bounds {n d : Nat} (hn : n < 1000000000) (hd : d ≤ 1000000000) :
    -500000000 ≤ phaseError n d ∧ phaseError n d < 500000000 := by
  rw [phaseError_eq hn hd]
  split <;> omega

/-! ### A phase step (R142) -/

theorem Clock.step_eq {k : Clock} {e : Int} (hn : k.ns < 1000000000) (low : -500000000 ≤ e) (high : e < 500000000) :
    (k.step e).epoch = k.epoch + 1 ∧ (k.step e).lock = 0 ∧ (k.step e).state = k.state ∧ (k.step e).lastError = k.lastError
      ∧ (k.step e).facc = k.facc ∧ (k.step e).p = k.p ∧ ((k.step e).ns : Int) = ((k.ns : Int) - e) % 1000000000
      ∧ (k.step e).seconds = k.seconds + BitVec.ofInt 32 (((k.ns : Int) - e) / 1000000000) := by
  unfold Clock.step
  dsimp only
  split
  · next below =>
    have carry : ((k.ns : Int) - e) / 1000000000 = -1 := by omega
    refine ⟨rfl, rfl, rfl, rfl, rfl, rfl, ?_, ?_⟩
    · show (((k.ns : Int) - e + 1000000000).toNat : Int) = _
      omega
    · rw [carry]
      exact BitVec.sub_eq_add_neg _ _
  · split
    · next above =>
      have carry : ((k.ns : Int) - e) / 1000000000 = 1 := by omega
      refine ⟨rfl, rfl, rfl, rfl, rfl, rfl, ?_, ?_⟩
      · show (((k.ns : Int) - e - 1000000000).toNat : Int) = _
        omega
      · rw [carry]
        rfl
    · have carry : ((k.ns : Int) - e) / 1000000000 = 0 := by omega
      refine ⟨rfl, rfl, rfl, rfl, rfl, rfl, ?_, ?_⟩
      · show (((k.ns : Int) - e).toNat : Int) = _
        omega
      · rw [carry]
        exact (BitVec.add_zero _).symm

theorem Clock.ref_step (k : Clock) (e : Int) (r : RefId) : (k.step e).ref r = k.ref r := by
  unfold Clock.step
  dsimp only
  split
  · cases r <;> rfl
  · split <;> cases r <;> rfl

/-! ### The ticks of a forward step (R151) -/

/-- How many boundaries of a kind lie after its last emitted one, up to the present time (R151). -/
def Part.boundariesPassed (p : Part) (k : TickKind) : Nat := p.gens[kindNo k].passed (p.plan.period k) p.cabinetTime

/-- One kind's tick at a forward step (R151). -/
def Part.stepTick (p : Part) (k : TickKind) : Part := if p.boundariesPassed k = 0 then p else p.emitTick k (p.boundariesPassed k)

theorem Part.stepTicks_eq (p : Part) : p.stepTicks = tickKinds.foldl Part.stepTick p := rfl

/-- A generator's record after a forward step (R151). -/
def Part.steppedGen (p : Part) (k : TickKind) : TickGen :=
  if p.boundariesPassed k = 0 then p.gens[kindNo k]
  else { last := p.gens[kindNo k].last.after (p.boundariesPassed k) (p.plan.period k) p.clock.epoch
         skipped := p.gens[kindNo k].skipped + BitVec.ofNat 32 (p.boundariesPassed k - 1) }

theorem kindNo_injective {j k : TickKind} (h : kindNo j = kindNo k) : j = k := by
  cases j <;> cases k <;> revert h <;> decide

theorem Part.emitTick_gens (k : TickKind) (n : Nat) (p : Part) : (p.emitTick k n).gens = (p.emitted k n).gens :=
  (congrArg Part.gens (Part.besidesSecond_emitTick k n p) :)

theorem Part.emitTick_gen_self (k : TickKind) (n : Nat) (p : Part) :
    (p.emitTick k n).gens[kindNo k] =
      { last := p.gens[kindNo k].last.after n (p.plan.period k) p.clock.epoch
        skipped := p.gens[kindNo k].skipped + BitVec.ofNat 32 (n - 1) } :=
  (congrArg (fun v : Vector TickGen 5 => v[kindNo k]) (Part.emitTick_gens k n p)).trans (getElem_modify_self _ _ _)

theorem Part.emitTick_gen_ne {j k : TickKind} (h : j ≠ k) (n : Nat) (p : Part) :
    (p.emitTick k n).gens[kindNo j] = p.gens[kindNo j] :=
  (congrArg (fun v : Vector TickGen 5 => v[kindNo j]) (Part.emitTick_gens k n p)).trans
    (getElem_modify_ne _ _ _ _ _ fun e => h (kindNo_injective (Fin.ext e)).symm)

/-- What a tick at a forward step leaves of the rest: the clock, the plan and the other generators. -/
theorem Part.stepTick_rest (p : Part) (k : TickKind) :
    (p.stepTick k).clock = p.clock ∧ (p.stepTick k).plan = p.plan
      ∧ ∀ j, j ≠ k → (p.stepTick k).gens[kindNo j] = p.gens[kindNo j] := by
  unfold Part.stepTick
  split
  · exact ⟨rfl, rfl, fun _ _ => rfl⟩
  · have view := Part.besidesSecond_emitTick k (p.boundariesPassed k) p
    refine ⟨(congrArg Part.clock view :), (congrArg Part.plan view :), fun j ne => ?_⟩
    exact Part.emitTick_gen_ne ne _ p

theorem Part.stepTick_gen (p : Part) (k : TickKind) : (p.stepTick k).gens[kindNo k] = p.steppedGen k := by
  unfold Part.stepTick Part.steppedGen
  split
  · rfl
  · exact Part.emitTick_gen_self k _ p

theorem Part.boundariesPassed_congr {p q : Part} {k : TickKind} (clock : q.clock = p.clock) (plan : q.plan = p.plan)
    (gen : q.gens[kindNo k] = p.gens[kindNo k]) : q.boundariesPassed k = p.boundariesPassed k := by
  unfold Part.boundariesPassed Part.cabinetTime
  rw [clock, plan, gen]

theorem Part.steppedGen_congr {p q : Part} {k : TickKind} (clock : q.clock = p.clock) (plan : q.plan = p.plan)
    (gen : q.gens[kindNo k] = p.gens[kindNo k]) : q.steppedGen k = p.steppedGen k := by
  unfold Part.steppedGen
  rw [Part.boundariesPassed_congr clock plan gen, clock, plan, gen]

/-- The ticks of a forward step, kind by kind: each moves its own generator once. -/
theorem Part.foldl_stepTick (l : List TickKind) (nodup : l.Nodup) (p : Part) :
    (l.foldl Part.stepTick p).clock = p.clock ∧ (l.foldl Part.stepTick p).plan = p.plan
      ∧ ∀ k, (l.foldl Part.stepTick p).gens[kindNo k] = if k ∈ l then p.steppedGen k else p.gens[kindNo k] := by
  induction l generalizing p with
  | nil => exact ⟨rfl, rfl, fun _ => rfl⟩
  | cons j l ih =>
    obtain ⟨fresh, nodup⟩ := List.nodup_cons.mp nodup
    obtain ⟨clock, plan, gens⟩ := ih nodup (p.stepTick j)
    obtain ⟨clock', plan', others⟩ := p.stepTick_rest j
    refine ⟨clock.trans clock', plan.trans plan', fun k => (gens k).trans ?_⟩
    by_cases e : k = j
    · subst e
      rw [if_neg fresh, if_pos List.mem_cons_self, Part.stepTick_gen]
    · by_cases mem : k ∈ l
      · rw [if_pos mem, if_pos (List.mem_cons_of_mem _ mem), Part.steppedGen_congr clock' plan' (others k e)]
      · rw [if_neg mem, if_neg fun h => (List.mem_cons.mp h).elim e mem, others k e]

theorem Part.stepTicks_gen (p : Part) (k : TickKind) : p.stepTicks.gens[kindNo k] = p.steppedGen k := by
  have gens := (Part.foldl_stepTick tickKinds (by decide) p).2.2 k
  rw [if_pos (by cases k <;> decide)] at gens
  exact gens

theorem Part.stepTicks_clock (p : Part) : p.stepTicks.clock = p.clock := (Part.foldl_stepTick tickKinds (by decide) p).1

theorem Part.stepTick_point_ne {i : Point} (h : i ≠ 80) (p : Part) (k : TickKind) :
    (p.stepTick k).alarm.points[i.val] = p.alarm.points[i.val] := by
  unfold Part.stepTick
  split
  · rfl
  · exact Part.emitTick_point_ne h _ _ _

theorem Part.stepTicks_point_ne {i : Point} (h : i ≠ 80) (p : Part) :
    p.stepTicks.alarm.points[i.val] = p.alarm.points[i.val] :=
  foldl_keeps (fun q : Part => q.alarm.points[i.val]) Part.stepTick (fun q k => Part.stepTick_point_ne h q k) tickKinds p

/-- The ticks of the other kinds leave the mark of the SECOND tick and the closed tally alone (R122). -/
theorem Part.stepTick_second_ne {k : TickKind} (h : k ≠ .second) (p : Part) :
    (p.stepTick k).secondTick = p.secondTick ∧ (p.stepTick k).engine = p.engine := by
  unfold Part.stepTick
  split
  · exact ⟨rfl, rfl⟩
  · rw [Part.emitTick_of_ne h]
    exact ⟨rfl, rfl⟩

theorem Part.stepTick_second {p : Part} (h : p.boundariesPassed .second ≠ 0) :
    (p.stepTick .second).secondTick = true ∧ (p.stepTick .second).engine.lastSecond = p.engine.tally := by
  have work := Part.besidesAlarms_secondWork (p.emitted .second (p.boundariesPassed .second))
  unfold Part.stepTick
  rw [if_neg h, Part.emitTick_of_second]
  exact ⟨(congrArg Part.secondTick work :), (congrArg (fun x : Part => x.engine.lastSecond) work :)⟩

/-- The SECOND tick of a forward step closes one discard tally (R122, R151). -/
theorem Part.stepTicks_second {p : Part} (h : p.boundariesPassed .second ≠ 0) :
    p.stepTicks.secondTick = true ∧ p.stepTicks.engine.lastSecond = p.engine.tally := by
  have rest : ∀ (l : List TickKind) (q : Part), .second ∉ l →
      (l.foldl Part.stepTick q).secondTick = q.secondTick ∧ (l.foldl Part.stepTick q).engine = q.engine := by
    intro l
    induction l with
    | nil => exact fun _ _ => ⟨rfl, rfl⟩
    | cons k l ih =>
      intro q fresh
      obtain ⟨tick, engine⟩ := Part.stepTick_second_ne (fun e => fresh (e ▸ List.mem_cons_self)) q
      obtain ⟨tick', engine'⟩ := ih (q.stepTick k) fun mem => fresh (List.mem_cons_of_mem _ mem)
      exact ⟨tick'.trans tick, engine'.trans engine⟩
  obtain ⟨tick, engine⟩ := rest [.frame, .subframe, .half, .prog] (p.stepTick .second) (by decide)
  obtain ⟨tick', closed⟩ := Part.stepTick_second h
  rw [Part.stepTicks_eq]
  unfold tickKinds
  rw [List.foldl_cons, tick, engine]
  exact ⟨tick', closed⟩

end Sys2Proof.Machine
end


section
/-! PROOFS. REFERENCE_PULSE (R128 to R134, R139 to R143). -/
namespace Sys2Proof.Machine

/-- The clock with the phase error of a disciplined pulse recorded (R139). -/
def Clock.noted (k : Clock) (e : Int) : Clock := { k with lastError := e }

/-- A disciplined pulse by the clock state, once its phase error is recorded (R140, R141). -/
def Part.disciplined (e : Int) (p : Part) : Part :=
  match p.clock.state with
  | .tracking => { p with clock := p.clock.trackingPulse p.plan.clock e }
  | .acquiring =>
    if p.plan.clock.stepThreshold < e.natAbs then p.phaseStep e
    else { p with clock := p.clock.acquiringPulse p.plan.clock e }
  | .freerun | .holdover => p

theorem Part.discipline_eq (e : Int) (p : Part) :
    p.discipline e = Part.disciplined e { p with clock := p.clock.noted e } := rfl

section disciplined
variable {p : Part} (e : Int)

theorem Part.disciplined_of_tracking (h : p.clock.state = .tracking) :
    p.disciplined e = { p with clock := p.clock.trackingPulse p.plan.clock e } := by
  unfold Part.disciplined
  rw [h]

theorem Part.disciplined_of_near (h : p.clock.state = .acquiring) (near : e.natAbs ≤ p.plan.clock.stepThreshold) :
    p.disciplined e = { p with clock := p.clock.acquiringPulse p.plan.clock e } := by
  unfold Part.disciplined
  rw [h]
  exact if_neg (Nat.not_lt.mpr near)

theorem Part.disciplined_of_far (h : p.clock.state = .acquiring) (far : p.plan.clock.stepThreshold < e.natAbs) :
    p.disciplined e = p.phaseStep e := by
  unfold Part.disciplined
  rw [h]
  exact if_pos far

theorem Part.disciplined_of_idle (h : p.clock.state = .freerun ∨ p.clock.state = .holdover) : p.disciplined e = p := by
  unfold Part.disciplined
  rcases h with h | h <;> rw [h]

end disciplined

/-- The part just after a phase step, before the ticks of a forward one (R142). -/
def Part.stepped (e : Int) (p : Part) : Part := Part.raiseEvent phaseStepPoint { p with clock := p.clock.step e }

theorem Part.phaseStep_eq (e : Int) (p : Part) :
    p.phaseStep e = if e < 0 then (p.stepped e).stepTicks else p.stepped e := rfl

theorem Part.besidesAlarms_stepped (e : Int) (p : Part) :
    (p.stepped e).besidesAlarms = Part.besidesAlarms { p with clock := p.clock.step e } := Part.besidesAlarms_raiseEvent _ _

theorem Part.stepped_clock (e : Int) (p : Part) : (p.stepped e).clock = p.clock.step e :=
  Part.clock_of_alarms (p := { p with clock := p.clock.step e }) (p.besidesAlarms_stepped e)

theorem Part.phaseStep_clock (e : Int) (p : Part) : (p.phaseStep e).clock = p.clock.step e := by
  rw [Part.phaseStep_eq]
  split
  · exact (Part.stepTicks_clock _).trans (p.stepped_clock e)
  · exact p.stepped_clock e

theorem Part.phaseStep_point (e : Int) (p : Part) :
    (p.phaseStep e).alarm.points[phaseStepPoint.val].raw = true
      ∧ (p.phaseStep e).alarm.points[phaseStepPoint.val].lastEvent = some p.now := by
  have raised : (p.stepped e).alarm.points[phaseStepPoint.val].raw = true
      ∧ (p.stepped e).alarm.points[phaseStepPoint.val].lastEvent = some p.now :=
    ⟨Part.raiseEvent_raw phaseStepPoint { p with clock := p.clock.step e },
      Part.raiseEvent_lastEvent phaseStepPoint { p with clock := p.clock.step e }⟩
  rw [Part.phaseStep_eq]
  split
  · rw [Part.stepTicks_point_ne (i := phaseStepPoint) (by decide)]
    exact raised
  · exact raised

theorem Part.disciplined_ref (e : Int) (p : Part) (r : RefId) : (p.disciplined e).clock.ref r = p.clock.ref r := by
  rcases p.clock.state.cases_of with (tracking | acquiring) | idle
  · rw [Part.disciplined_of_tracking e tracking]
    unfold Clock.trackingPulse
    repeat' split
    all_goals cases r <;> rfl
  · by_cases near : e.natAbs ≤ p.plan.clock.stepThreshold
    · rw [Part.disciplined_of_near e acquiring near]
      unfold Clock.acquiringPulse
      dsimp only
      repeat' split
      all_goals cases r <;> rfl
    · rw [Part.disciplined_of_far e acquiring (Nat.not_le.mp near), Part.phaseStep_clock, Clock.ref_step]
  · rw [Part.disciplined_of_idle e idle]

theorem Part.discipline_ref (e : Int) (p : Part) (r : RefId) : (p.discipline e).clock.ref r = p.clock.ref r := by
  rw [Part.discipline_eq, Part.disciplined_ref]
  cases r <;> rfl

section pulse
variable {k : Clock} {plan : ClockPlan} {e : Int}

theorem Clock.trackingPulse_of_near (near : e.natAbs ≤ plan.strayLimit) :
    k.trackingPulse plan e = Clock.update { k with strays := 0 } plan e := if_neg (Nat.not_lt.mpr near)

theorem Clock.trackingPulse_of_stray (far : plan.strayLimit < e.natAbs) :
    k.trackingPulse plan e = if k.strays < 2 then { k with strays := k.strays + 1 } else k.enterAcquiring := by
  unfold Clock.trackingPulse
  rw [if_pos far]
  by_cases few : k.strays < 2
  · rw [if_pos few, if_neg (by omega)]
  · rw [if_neg few, if_pos (by omega)]

/-- The lock counter after a pulse in ACQUIRING (R141). -/
def Clock.lockAfter (k : Clock) (plan : ClockPlan) (e : Int) : Nat := if e.natAbs ≤ plan.lockThreshold then k.lock + 1 else 0

theorem Clock.acquiringPulse_eq : k.acquiringPulse plan e =
    if k.lockAfter plan e < plan.lockCount then { k.update plan e with lock := k.lockAfter plan e }
    else { k.update plan e with lock := k.lockAfter plan e, state := .tracking, strays := 0, trained := true } := by
  have judged : k.acquiringPulse plan e = if plan.lockCount ≤ k.lockAfter plan e then
      { k.update plan e with lock := k.lockAfter plan e, state := .tracking, strays := 0, trained := true }
      else { k.update plan e with lock := k.lockAfter plan e } := rfl
  rw [judged]
  by_cases few : k.lockAfter plan e < plan.lockCount
  · rw [if_pos few, if_neg (Nat.not_le.mpr few)]
  · rw [if_neg few, if_pos (Nat.not_lt.mp few)]

end pulse

/-- A pulse taken by its reference, with the selection after it (R130, R131, R133). -/
def Part.pulseTaken (r : RefId) (p : Part) : Clock :=
  (p.clock.setRef r ((p.clock.ref r).pulse (p.plan.clock.ref r) p.osc)).select p.plan.clock p.now

theorem Part.referencePulse_of_unusable {p : Part} {r : RefId} (h : p.usable r = false) : p.referencePulse r = p :=
  if_neg (ne_true_of_eq_false h)

theorem Part.referencePulse_of_usable {p : Part} {r : RefId} (h : p.usable r = true) :
    p.referencePulse r = ((if ((p.pulseTaken r).ref r).state = .qualified ∧ (p.pulseTaken r).selected = some r then
        Part.discipline (phaseError p.clock.ns (p.plan.clock.ref r).cableDelay) { p with clock := p.pulseTaken r }
      else { p with clock := p.pulseTaken r }).settleExchange p.engine).report clockPoints := if_pos h

theorem Part.gens_of_alarms {p q : Part} (h : q.besidesAlarms = p.besidesAlarms) : q.gens = p.gens :=
  (congrArg Part.gens h :)

theorem Part.gens_of_exchange {p q : Part} (h : q.besidesExchange = p.besidesExchange) : q.gens = p.gens :=
  (congrArg Part.gens h :)

theorem Part.secondTick_of_alarms {p q : Part} (h : q.besidesAlarms = p.besidesAlarms) : q.secondTick = p.secondTick :=
  (congrArg Part.secondTick h :)

theorem Part.secondTick_of_exchange {p q : Part} (h : q.besidesExchange = p.besidesExchange) : q.secondTick = p.secondTick :=
  (congrArg Part.secondTick h :)

/-- What the end of a pulse's event leaves alone: all but the exchange and the clock's alarm points. -/
theorem Part.settleReport_fields {old : Engine} {p q : Part} (event : q = (p.settleExchange old).report clockPoints) :
    q.clock = p.clock ∧ q.gens = p.gens ∧ q.secondTick = p.secondTick ∧ q.engine.lastSecond = p.engine.lastSecond
      ∧ (∀ i, i ∉ clockPoints → q.alarm.points[i.val] = p.alarm.points[i.val])
      ∧ q.besidesExchange.besidesAlarms = p.besidesExchange.besidesAlarms := by
  subst event
  have alarms : ((p.settleExchange old).report clockPoints).besidesAlarms = (p.settleExchange old).besidesAlarms := Part.besidesAlarms_report clockPoints _
  have exchange := Part.besidesExchange_settleExchange old p
  have engine : ((p.settleExchange old).report clockPoints).engine = (p.settleExchange old).engine := Part.engine_of_alarms alarms
  refine ⟨(Part.clock_of_alarms alarms).trans (Part.clock_of_exchange exchange),
    (Part.gens_of_alarms alarms).trans (Part.gens_of_exchange exchange),
    (Part.secondTick_of_alarms alarms).trans (Part.secondTick_of_exchange exchange), ?_, fun i off => ?_, ?_⟩
  · rw [engine, Engine.lastSecond_of_exchange exchange]
  · rw [Part.report_point_ne off, Part.alarm_of_exchange exchange]
  · rw [Part.besidesExchange_besidesAlarms, alarms, ← Part.besidesExchange_besidesAlarms, exchange]

/-- The tick unit at a phase step: nothing at a backward step, and one tick for each kind that a forward step has passed
boundaries of (R151, R152). -/
theorem Part.phaseStep_ticks (e : Int) (p : Part) :
    (0 ≤ e → (p.phaseStep e).gens = p.gens ∧ (p.phaseStep e).secondTick = p.secondTick
        ∧ (p.phaseStep e).engine.lastSecond = p.engine.lastSecond)
      ∧ (e < 0 → ∀ k, (p.phaseStep e).gens[kindNo k] = Part.steppedGen { p with clock := p.clock.step e } k
        ∧ (k = .second → Part.boundariesPassed { p with clock := p.clock.step e } k ≠ 0 →
          (p.phaseStep e).engine.lastSecond = p.engine.tally ∧ (p.phaseStep e).secondTick = true)) := by
  have view := p.besidesAlarms_stepped e
  have gens : (p.stepped e).gens = p.gens := Part.gens_of_alarms (p := { p with clock := p.clock.step e }) view
  have plan : (p.stepped e).plan = p.plan := (congrArg Part.plan view :)
  have engine : (p.stepped e).engine = p.engine := Part.engine_of_alarms (p := { p with clock := p.clock.step e }) view
  have tick : (p.stepped e).secondTick = p.secondTick :=
    Part.secondTick_of_alarms (p := { p with clock := p.clock.step e }) view
  have clock := p.stepped_clock e
  have gen : ∀ k, (p.stepped e).gens[kindNo k] = p.gens[kindNo k] := fun k =>
    congrArg (fun v : Vector TickGen 5 => v[kindNo k]) gens
  refine ⟨fun back => ?_, fun forward k => ?_⟩
  · rw [Part.phaseStep_eq, if_neg (Int.not_lt.mpr back), gens, tick, engine]
    exact ⟨rfl, rfl, rfl⟩
  · rw [Part.phaseStep_eq, if_pos forward]
    refine ⟨(Part.stepTicks_gen _ k).trans (Part.steppedGen_congr clock plan (gen k)), ?_⟩
    rintro rfl passed
    rw [← Part.boundariesPassed_congr (p := { p with clock := p.clock.step e }) clock plan (gen .second)] at passed
    obtain ⟨tick', closed⟩ := Part.stepTicks_second passed
    rw [engine] at closed
    exact ⟨closed, tick'⟩

/-- Settles O49: the record of the reference, and the discipline case by case. -/
theorem referencePulseDisciplinesTheClock : Obligations.ReferencePulseDisciplinesTheClock := by
  unfold Obligations.ReferencePulseDisciplinesTheClock
  intro s r running k plan ref tolerance spacing good qualified taken q phase e clamped facc p updated lock
  have pulsed : s.part.after (.referencePulse r) = s.part.referencePulse r := by
    rw [Part.after_referencePulse, Part.whileRunning_of_running running]
  refine ⟨fun unusable => ?_, fun usable small short => ?_⟩
  · rw [exec_eq_after (c := .referencePulse r) nofun]
    exact congrArg _ (State.modPart_eq_self (pulsed.trans (Part.referencePulse_of_unusable unusable)))
  have record : ref.pulse (plan.ref r) s.part.osc = taken := by
    cases state : ref.state with
    | quiet =>
      rw [Reference.pulse_of_quiet _ _ state]
      simp only [taken, state]
    | qualifying =>
      rw [Reference.pulse_of_qualifying _ _ state]
      simp only [taken, state]
      exact ite_iff_congr goodSpacing_iff rfl rfl
    | qualified =>
      rw [Reference.pulse_of_qualified _ _ state]
      simp only [taken, state]
      exact ite_iff_congr goodSpacing_iff rfl rfl
  have error : phaseError k.ns (plan.ref r).cableDelay = e := phaseError_eq small short
  have clock : s.part.pulseTaken r = q := by
    show (k.setRef r (ref.pulse (plan.ref r) s.part.osc)).select plan s.part.now = q
    rw [record]
  have refs : q.ref r = taken := by rw [Clock.ref_select, Clock.ref_setRef_self]
  let pulse : Part := { s.part with clock := q }
  have event := Part.referencePulse_of_usable usable
  rw [clock, refs, error] at event
  by_cases disciplines : taken.state = .qualified ∧ q.selected = some r
  · rw [if_pos disciplines] at event
    obtain ⟨clock, gens, tick, lastSecond, points, -⟩ := Part.settleReport_fields (p := pulse.discipline e) (pulsed.trans event)
    refine ⟨_, exec_eq_after (c := .referencePulse r) nofun s, rfl, ?_, fun _ _ => ?_, fun not => ?_⟩
    · rw [State.modPart_part, clock, Part.discipline_ref]
      exact refs
    · rw [State.modPart_part, clock, Part.discipline_eq]
      let noted : Part := { pulse with clock := q.noted e }
      refine ⟨fun tracking near => ?_, fun tracking far => ?_, fun acquiring near => ?_, fun acquiring far => ?_⟩
      · rw [Part.disciplined_of_tracking (p := noted) e tracking, Clock.trackingPulse_of_near near]
        rfl
      · rw [Part.disciplined_of_tracking (p := noted) e tracking, Clock.trackingPulse_of_stray far]
        rfl
      · rw [Part.disciplined_of_near (p := noted) e acquiring near, Clock.acquiringPulse_eq]
        rfl
      · have low := phaseError_bounds small short
        rw [error] at low
        have keeps : q.besidesSelection = k.besidesSelection :=
          (Clock.besidesSelection_select _ _ _).trans (Clock.besidesSelection_setRef _ _ _)
        have ns : (q.noted e).ns = k.ns := (congrArg Clock.ns keeps :)
        have seconds : (q.noted e).seconds = k.seconds := (congrArg Clock.seconds keeps :)
        have epoch : (q.noted e).epoch = k.epoch := (congrArg Clock.epoch keeps :)
        have moved := Clock.step_eq (k := q.noted e) (e := e) (by rw [ns]; exact small) low.1 low.2
        rw [ns, seconds, epoch] at moved
        have steps : pulse.discipline e = noted.phaseStep e := Part.disciplined_of_far (p := noted) e acquiring far
        have now : (noted.phaseStep e).clock = (q.noted e).step e := noted.phaseStep_clock e
        obtain ⟨epoch', lock', state', error', facc', p', ns', seconds'⟩ := moved
        obtain ⟨raw, lastEvent⟩ := noted.phaseStep_point e
        obtain ⟨backward, forward⟩ := noted.phaseStep_ticks e
        rw [steps] at gens tick lastSecond points
        rw [← Part.discipline_eq, steps, now, gens, tick, lastSecond]
        have point := points phaseStepPoint (by decide)
        rw [← point] at raw lastEvent
        refine ⟨epoch', lock', state'.trans acquiring, error', facc', p', ns', seconds', raw, lastEvent, backward,
          fun ahead kind => ?_⟩
        intro g period past n
        obtain ⟨gen, second⟩ := forward ahead kind
        have passed : Part.boundariesPassed { noted with clock := (q.noted e).step e } kind = n := by
          cases kind <;> rfl
        have length : s.part.plan.period kind = period := by cases kind <;> rfl
        unfold Part.steppedGen at gen
        rw [passed] at gen second
        refine ⟨gen.trans ?_, second⟩
        refine ite_iff_congr Iff.rfl rfl ?_
        show TickGen.mk (g.last.after n (s.part.plan.period kind) ((q.noted e).step e).epoch) _ = _
        rw [length, epoch']
        rfl
    · exact absurd disciplines fun h => not.elim (· h.1) (· h.2)
  · rw [if_neg disciplines] at event
    obtain ⟨clock, -, -, -, -, besides⟩ := Part.settleReport_fields (p := pulse) (pulsed.trans event)
    refine ⟨_, exec_eq_after (c := .referencePulse r) nofun s, rfl, ?_, fun a b => absurd ⟨a, b⟩ disciplines,
      fun _ => ⟨clock, besides⟩⟩
    rw [State.modPart_part, clock]
    exact refs

end Sys2Proof.Machine
end


section
/-! PROOFS. What the slots' commands can do, as runs of few kinds of change: a port takes, answers or notes something; a FENCED or
REMOVING slot drops what it owes; or a slot event runs, made of the moves of Chapter 4 (R55 to R78). The invariants of the slot
ports, of the alarm points and of the frame are proved move by move. -/
namespace Sys2Proof.Machine

/-! ### The moves -/

/-- A port besides the signs that change on their own: presence, levels, timers, counts and what a command leaves noted. -/
def Port.besidesSigns (x : Port) : Port :=
  { x with
    presence := false, presenceTimer := none, presentLevel := false, pwrgd := false, stateTimer := none, releaseHeld := false,
    admitResult := .none, violations := 0, ringFaults := 0 }

/-- A slot event's own operation on slot `n` of part `p` (R55 to R78). -/
inductive Part.SlotMove (n : Slot) (p : Part) : Part → Prop
  | fence (ne : n ≠ 0) (why : FenceReason) (off : Bool) : SlotMove n p (p.enterFenced n why off)
  | cutFence (ne : n ≠ 0) (why : FenceReason) : SlotMove n p ((p.modPort n Port.linkDown).enterFenced n why false)
  | remove (cycle : Bool) : SlotMove n p (p.enterRemoving n cycle)
  | retrain (linked : p.ports[n].state.linked = true) : SlotMove n p (p.retrain n)
  | release (fenced : p.ports[n].state = .fenced) : SlotMove n p (p.takeRelease n)
  | power (standby : p.ports[n].state = .standby) : SlotMove n p (p.enterPowering n)
  | train (powering : p.ports[n].state = .powering) : SlotMove n p (p.enterTraining n)
  | endTraining (training : p.ports[n].state = .training) : SlotMove n p (p.endTraining n)
  | found : SlotMove n p (p.presenceIsFound n)
  | lost : SlotMove n p (p.presenceIsLost n)
  | enroll (admitting : p.ports[n].state = .admitting) : SlotMove n p (p.admitSlot n)
  | settle : SlotMove n p (p.settleSlot n)
  | leave (removing : p.ports[n].state = .removing) : SlotMove n p (p.leaveRemoving n)
  | event (i : Point) (own : i = violationPoint n) : SlotMove n p (p.raiseEvent i)
  | lose : SlotMove n p (p.modPort n Port.withoutHeartbeat)
  | note (f : Port → Port) (same : (f p.ports[n]).besidesSigns = p.ports[n].besidesSigns) : SlotMove n p (p.modPort n f)

/-- A run of moves of slot `n`. -/
def Part.SlotMoves (n : Slot) : Part → Part → Prop := Run (Part.SlotMove n)

theorem Part.SlotMoves.refl (n : Slot) (p : Part) : p.SlotMoves n p := Run.refl

theorem Part.SlotMove.single {n : Slot} {p q : Part} (h : p.SlotMove n q) : p.SlotMoves n q := Run.single h

theorem Part.SlotMove.trans {n : Slot} {p q r : Part} (h : p.SlotMove n q) (h' : q.SlotMoves n r) : p.SlotMoves n r :=
  Run.head h h'

theorem Part.SlotMoves.trans {n : Slot} {p q r : Part} (h : p.SlotMoves n q) (h' : q.SlotMoves n r) : p.SlotMoves n r :=
  Run.trans h h'

/-- What every move keeps, a run of them keeps. -/
theorem Part.SlotMoves.keeps {n : Slot} {P : Part → Prop} (move : ∀ p q, p.SlotMove n q → P p → P q) {p q : Part}
    (h : p.SlotMoves n q) (hp : P p) : P q := by
  induction h with
  | refl => exact hp
  | tail _ step ih => exact move _ _ step ih

theorem Part.moves_fenceKeepingPower (n : Slot) (why : FenceReason) (p : Part) : p.SlotMoves n (p.fenceKeepingPower n why) := by
  by_cases zero : n = 0
  · subst zero
    exact .refl _ _
  · rw [Part.fenceKeepingPower_of_ne zero]
    exact (Part.SlotMove.fence zero why false).single

theorem Part.moves_powerFault (n : Slot) (why : FenceReason) (p : Part) : p.SlotMoves n (p.powerFault n why) := by
  by_cases zero : n = 0
  · subst zero
    rw [Part.powerFault_zero]
    exact (Part.SlotMove.remove true).single
  · rw [Part.powerFault_of_ne zero]
    exact (Part.SlotMove.fence zero why true).single

theorem Part.moves_loseLink {n : Slot} {p : Part} (linked : p.ports[n].state.linked = true) :
    p.SlotMoves n (p.loseLink n) := by
  by_cases zero : n = 0
  · subst zero
    exact (Part.SlotMove.retrain linked).single
  · rw [Part.loseLink_of_ne zero]
    exact (Part.SlotMove.cutFence zero .linkLost).single

theorem Part.moves_loseHeartbeat (n : Slot) (why : FenceReason) (p : Part) : p.SlotMoves n (p.loseHeartbeat n why) := by
  have lost : p.SlotMoves n (p.modPort n Port.withoutHeartbeat) := Part.SlotMove.lose.single
  by_cases fences : p.plan.slots[n].fenceOnHeartbeat = true ∧ n ≠ 0
  · rw [Part.loseHeartbeat_of_fences fences]
    exact lost.trans (Part.SlotMove.fence fences.2 why false).single
  · rw [Part.loseHeartbeat_of_not fences]
    exact lost

theorem Part.moves_violation (n : Slot) (p : Part) : p.SlotMoves n (p.violation n) := by
  have counted : p.SlotMoves n
      ((p.modPort n fun x => { x with violations := min 255 (p.ports[n].violations + 1) }).raiseEvent (violationPoint n)) :=
    (Part.SlotMove.note _ rfl).trans (Part.SlotMove.event _ rfl).single
  unfold Part.violation
  dsimp only
  split
  · exact counted.trans (Part.moves_fenceKeepingPower n _ _)
  · exact counted

theorem Part.moves_settleNow (n : Slot) (p : Part) : p.SlotMoves n (p.settleNow n) := by
  have settled : p.SlotMoves n (p.settleSlot n) := Part.SlotMove.settle.single
  unfold Part.settleNow
  dsimp only
  split
  · next held =>
    refine settled.trans (Part.SlotMove.release ?_).single
    rw [Part.settleSlot_port]
    exact held.1
  · exact settled

/-! ### What a slot's command does -/

/-- A change of port `x` of slot `n` under plan `plan` that is no slot event: a request is taken or refused, a check begins, the
link of a FENCED slot comes back, a strobe line moves, or a sign is noted. -/
inductive Port.Change (n : Slot) (plan : Plan) (x : Port) : Port → Prop
  | accept (q : Request) (link : x.link = true) (credit : x.credits ≠ 0) (passed : arrivalCheck plan x n q = none) :
      Change n plan x { x with tags := x.tags ++ [q.tag], queue := x.queue ++ [q], credits := x.credits - 1 }
  | refuse (r : Response) (link : x.link = true) : Change n plan x (x.sendNow r)
  | send : Change n plan x x.sendOldest
  | check (start : Nat) (quarantine : x.state = .quarantine) (none : x.check = none) :
      Change n plan x { x with check := some { start := start, inFlight := false } }
  | link (fenced : x.state = .fenced) (power : x.powerRemoved = false) (down : x.link = false) : Change n plan x x.linkUp
  | drive (t : Nat) (pending : x.strobe.pending.isSome = true) :
      Change n plan x { x with strobe := { x.strobe with pending := none, driven := some t } }
  | release : Change n plan x { x with strobe := { x.strobe with driven := none } }
  | note (y : Port) (same : y.besidesSigns = x.besidesSigns) : Change n plan x y

/-- What a slot's command makes of part `p`, or a word of it handed over. -/
inductive Part.SlotDeed (n : Slot) (p : Part) : Part → Prop
  | event (q : Part) (moves : p.SlotMoves n q) : SlotDeed n p (q.settleSlots p.engine)
  | change (f : Port → Port) (change : p.ports[n].Change n p.plan (f p.ports[n])) : SlotDeed n p (p.modPort n f)
  | drop (waiting : p.ports[n].state = .fenced ∨ p.ports[n].state = .removing) :
      SlotDeed n p ((p.modPort n Port.linkDown).dropRequests n)
  | powerOff (fenced : p.ports[n].state = .fenced) :
      SlotDeed n p ((p.modPort n fun x => { x.linkDown with powerRemoved := true }).dropRequests n)
  | beat (v : Word) (supervised : p.ports[n].heartbeat.supervising = true) :
      SlotDeed n p (((p.modPort n (·.beaten v p.now)).settleExchange p.engine).report [slotPoint n 2])
  | word (k : WatchedWord) (v : Word) : SlotDeed n p (p.setWatched k v)

/-- A run of such deeds of slot `n`. -/
def Part.SlotDeeds (n : Slot) : Part → Part → Prop := Run (Part.SlotDeed n)

theorem Part.SlotDeeds.refl (n : Slot) (p : Part) : p.SlotDeeds n p := Run.refl

theorem Part.SlotDeed.single {n : Slot} {p q : Part} (h : p.SlotDeed n q) : p.SlotDeeds n q := Run.single h

theorem Part.SlotDeed.trans {n : Slot} {p q r : Part} (h : p.SlotDeed n q) (h' : q.SlotDeeds n r) : p.SlotDeeds n r :=
  Run.head h h'

/-- What every deed keeps, a run of them keeps. -/
theorem Part.SlotDeeds.keeps {n : Slot} {P : Part → Prop} (deed : ∀ p q, p.SlotDeed n q → P p → P q) {p q : Part}
    (h : p.SlotDeeds n q) (hp : P p) : P q := by
  induction h with
  | refl => exact hp
  | tail _ step ih => exact deed _ _ step ih

theorem Part.deeds_slotEvent {n : Slot} {f : Part → Part} {p : Part} (h : p.SlotMoves n (f p)) :
    p.SlotDeeds n (Part.slotEvent f p) := (Part.SlotDeed.event _ h).single

/-- A sign noted at a port. -/
theorem Part.deeds_note {n : Slot} {f : Port → Port} {p : Part} (same : (f p.ports[n]).besidesSigns = p.ports[n].besidesSigns) :
    p.SlotDeeds n (p.modPort n f) := (Part.SlotDeed.change f (.note _ same)).single

/-! ### Arrival and the words of a slot -/

theorem Part.deeds_refuse {n : Slot} {p : Part} (link : p.ports[n].link = true) (q : Request) (why : Reason) :
    p.SlotDeeds n (p.refuse n q why) := by
  unfold Part.refuse
  dsimp only
  generalize sent : (if p.ports[n].state = .removing ∧ Config.removingRefusalSent = false then p
    else p.modPort n (Port.sendNow (.refusal q.tag why))) = r
  have answered : p.SlotDeeds n r ∧ r.engine = p.engine := by
    rw [← sent]
    split
    · exact ⟨.refl n p, rfl⟩
    · exact ⟨(Part.SlotDeed.change _ (.refuse _ link)).single, rfl⟩
  split
  · rw [← answered.2]
    exact answered.1.tail (.event _ (Part.moves_violation n r))
  · exact answered.1

/-- READ and WRITE: an arriving request (R5, R6). -/
theorem Part.deeds_arrive (n : Slot) (q : Request) (p : Part) : p.SlotDeeds n (p.arrive n q) := by
  unfold Part.arrive
  split
  · next linked =>
    obtain ⟨link, credit⟩ := Bool.and_eq_true_iff.mp linked
    split
    · exact Part.deeds_refuse link q _
    · next passed => exact (Part.SlotDeed.change _ (.accept q link (bne_iff_ne.mp credit) passed)).single
  · exact .refl n p

theorem Part.deeds_fenceCommand (n : Slot) (p : Part) : p.SlotDeeds n (p.fenceCommand n) := by
  unfold Part.fenceCommand
  split
  · exact Part.deeds_slotEvent (Part.moves_fenceKeepingPower n _ p)
  · exact .refl n p

theorem Part.deeds_releaseCommand (n : Slot) (p : Part) : p.SlotDeeds n (p.releaseCommand n) := by
  unfold Part.releaseCommand
  split
  · next fenced =>
    split
    · exact Part.deeds_note rfl
    · exact Part.deeds_slotEvent (Part.SlotMove.release fenced).single
  · next standby =>
    split
    · exact Part.deeds_slotEvent (Part.SlotMove.power standby).single
    · exact .refl n p
  · exact .refl n p

theorem Part.deeds_observeSlotCommand (n : Slot) (v : Word) (p : Part) : p.SlotDeeds n (p.observeSlotCommand n v) := by
  unfold Part.observeSlotCommand
  dsimp only
  refine Part.SlotDeed.trans (.word (.slotCommand n) v) ?_
  split
  · exact Part.deeds_fenceCommand n _
  · split
    · exact Part.deeds_releaseCommand n _
    · exact .refl n _

theorem Part.deeds_judgeHeartbeat {n : Slot} {p : Part} (supervised : p.ports[n].heartbeat.supervising = true) (v : Word) :
    p.SlotDeeds n (p.judgeHeartbeat n v) := by
  by_cases expected : v = p.ports[n].heartbeat.expected
  · rw [Part.judgeHeartbeat_of_expected expected]
    exact (Part.SlotDeed.beat v supervised).single
  · by_cases again : p.ports[n].heartbeat.lastValid = some v
    · rw [Part.judgeHeartbeat_of_repeat expected again]
      exact .refl n p
    · rw [Part.judgeHeartbeat_of_wrong expected again]
      exact Part.deeds_slotEvent (Part.moves_loseHeartbeat n _ p)

theorem Part.deeds_observeHeartbeat (n : Slot) (v : Word) (p : Part) : p.SlotDeeds n (p.observeHeartbeat n v) := by
  unfold Part.observeHeartbeat
  dsimp only
  refine Part.SlotDeed.trans (.word (.heartbeat n) v) ?_
  split
  · next supervised => exact Part.deeds_judgeHeartbeat supervised v
  · exact .refl n _

theorem Part.deeds_observeAdmit (n : Slot) (v : Word) (p : Part) : p.SlotDeeds n (p.observeAdmit n v) := by
  unfold Part.observeAdmit
  dsimp only
  refine Part.SlotDeed.trans (.word (.admitWord n) v) ?_
  split
  · next begins =>
    obtain ⟨quarantine, free, -⟩ := begins
    exact (Part.SlotDeed.change _ (.check _ quarantine free)).single
  · exact .refl n _

/-! ### The commands of a slot -/

theorem Part.deeds_linkTrains (n : Slot) (p : Part) : p.SlotDeeds n (p.linkTrains n) := by
  unfold Part.linkTrains
  split
  · next training => exact Part.deeds_slotEvent (Part.SlotMove.endTraining training).single
  · next fenced =>
    split
    · exact .refl n p
    · next down =>
      obtain ⟨power, link⟩ := not_or.mp (mt Bool.or_eq_true_iff.mpr down)
      exact (Part.SlotDeed.change _ (.link fenced (Bool.eq_false_iff.mpr power) (Bool.eq_false_iff.mpr link))).single
  · exact .refl n p

theorem Part.deeds_linkFails (n : Slot) (p : Part) : p.SlotDeeds n (p.linkFails n) := by
  by_cases linked : p.ports[n].state.linked = true
  · rw [Part.linkFails_of_linked linked]
    exact Part.deeds_slotEvent (Part.moves_loseLink linked)
  · by_cases waiting : p.ports[n].state = .fenced ∨ p.ports[n].state = .removing
    · rw [Part.linkFails_of_waiting waiting]
      exact (Part.SlotDeed.drop waiting).single
    · obtain ⟨fenced, removing⟩ := not_or.mp waiting
      rw [Part.linkFails_of_unlinked (Bool.eq_false_iff.mpr linked) fenced removing]
      exact .refl n p

theorem Part.deeds_powerFails (n : Slot) (p : Part) : p.SlotDeeds n (p.powerFails n) := by
  unfold Part.powerFails
  split
  case h_5 fenced =>
    split
    · exact .refl n p
    · exact (Part.SlotDeed.powerOff fenced).single
  case h_6 => exact .refl n p
  all_goals exact Part.deeds_slotEvent (Part.moves_powerFault n _ p)

theorem Part.deeds_whileRunning {n : Slot} {f : Part → Part} {p : Part} (h : p.SlotDeeds n (f p)) :
    p.SlotDeeds n (p.whileRunning f) := by
  unfold Part.whileRunning
  split
  · exact h
  · exact .refl n p

theorem Part.deeds_whenDue {n : Slot} {due : Part → Bool} {f : Part → Part} {p : Part}
    (h : due p = true → p.SlotDeeds n (f p)) : p.SlotDeeds n (p.whenDue due f) :=
  Part.deeds_whileRunning <| by
    split
    · next due => exact h due
    · exact .refl n p

/-- The state of a slot's port that a due condition names. -/
theorem SlotState.eq_of_due {a st : SlotState} {b : Bool} (h : (a == st && b) = true) : a = st :=
  eq_of_beq (Bool.and_eq_true_iff.mp h).1

theorem Port.besidesSigns_debounce (x : Port) (now : Nat) : (x.debounce now).besidesSigns = x.besidesSigns := by
  unfold Port.debounce
  split
  · rfl
  · split <;> rfl

/-- The commands a slot's port takes, by which slot. -/
def commandSlot : Instr → Option Slot
  | .read n _ _ _ | .write n _ _ _ | .fence n | .release n | .heartbeat n _ | .admitWord n _ | .settlement n | .linkTrained n
  | .linkLost n | .presenceLevelChange n _ | .presenceFound n | .presenceLost n | .pwrgdAsserted n | .pwrgdDeasserted n
  | .powerGoodLimitExpiry n | .trainingLimitExpiry n | .admitDelayExpiry n | .removingEnd n | .heartbeatWindowExpiry n
  | .strobeBegin n | .strobeEnd n => some n
  | _ => none

/-- A command of slot `n` is a run of its deeds. -/
theorem Part.deeds_after {c : Instr} {n : Slot} (h : commandSlot c = some n) (p : Part) : p.SlotDeeds n (p.after c) := by
  cases c <;> simp only [commandSlot, reduceCtorEq, Option.some.injEq] at h <;> subst h
  case read => exact Part.deeds_whileRunning (Part.deeds_arrive _ _ p)
  case write => exact Part.deeds_whileRunning (Part.deeds_arrive _ _ p)
  case fence => exact Part.deeds_whileRunning (Part.deeds_observeSlotCommand _ 1 p)
  case release => exact Part.deeds_whileRunning (Part.deeds_observeSlotCommand _ 2 p)
  case heartbeat v => exact Part.deeds_whileRunning (Part.deeds_observeHeartbeat _ v p)
  case admitWord v => exact Part.deeds_whileRunning (Part.deeds_observeAdmit _ v p)
  case settlement =>
    rw [Part.after_settlement]
    exact Part.deeds_whenDue fun _ => Part.deeds_slotEvent (Part.moves_settleNow _ p)
  case linkTrained => exact Part.deeds_whileRunning (Part.deeds_linkTrains _ p)
  case linkLost => exact Part.deeds_whileRunning (Part.deeds_linkFails _ p)
  case presenceLevelChange level =>
    rw [Part.after_presenceLevelChange]
    exact (Part.deeds_note rfl).trans
      (Part.deeds_whileRunning (Part.deeds_note (Port.besidesSigns_debounce _ _)))
  case presenceFound =>
    rw [Part.after_presenceFound]
    exact Part.deeds_whenDue fun _ => Part.deeds_slotEvent Part.SlotMove.found.single
  case presenceLost =>
    rw [Part.after_presenceLost]
    exact Part.deeds_whenDue fun _ => Part.deeds_slotEvent Part.SlotMove.lost.single
  case pwrgdAsserted =>
    rw [Part.after_pwrgdAsserted]
    refine (Part.deeds_note rfl).trans (Part.deeds_whileRunning ?_)
    split
    · next powering => exact Part.deeds_slotEvent (Part.SlotMove.train powering).single
    · exact .refl _ _
  case pwrgdDeasserted =>
    rw [Part.after_pwrgdDeasserted]
    exact (Part.deeds_note rfl).trans (Part.deeds_whileRunning (Part.deeds_powerFails _ _))
  case powerGoodLimitExpiry =>
    rw [Part.after_powerGoodLimitExpiry]
    exact Part.deeds_whenDue fun _ => Part.deeds_slotEvent (Part.moves_powerFault _ _ p)
  case trainingLimitExpiry =>
    rw [Part.after_trainingLimitExpiry]
    exact Part.deeds_whenDue fun _ => Part.deeds_slotEvent (Part.moves_powerFault _ _ p)
  case admitDelayExpiry =>
    rw [Part.after_admitDelayExpiry]
    exact Part.deeds_whenDue fun due => Part.deeds_slotEvent (Part.SlotMove.enroll (SlotState.eq_of_due due)).single
  case removingEnd =>
    rw [Part.after_removingEnd]
    refine Part.deeds_whenDue fun due => Part.deeds_slotEvent (Part.SlotMove.leave ?_).single
    unfold Part.removingDue at due
    simp only [Bool.and_assoc] at due
    exact SlotState.eq_of_due due
  case heartbeatWindowExpiry =>
    rw [Part.after_heartbeatWindowExpiry]
    exact Part.deeds_whenDue fun _ => Part.deeds_slotEvent (Part.moves_loseHeartbeat _ _ p)
  case strobeBegin n =>
    rw [Part.after_strobeBegin]
    refine Part.deeds_whenDue fun due => (Part.SlotDeed.change _ (.drive _ ?_)).single
    unfold Part.strobeBeginDue at due
    split at due
    · next some => rw [some]; rfl
    · contradiction
  case strobeEnd =>
    rw [Part.after_strobeEnd]
    exact Part.deeds_whenDue fun _ => (Part.SlotDeed.change _ .release).single

end Sys2Proof.Machine
end


section
/-! PROOFS. What a slot event's own operation leaves alone: `Part.frame`, everything but slot ports, rings, engine, gates, reads in
flight, watched words, arbiter and status writer. What it takes of cabinet time, plan and alarm points is settled after it
(R65). -/
namespace Sys2Proof.Machine

/-- The part besides what a slot event's own operation may touch. -/
def Part.frame (p : Part) : Part :=
  { p with
    ports := Vector.replicate 12 (Port.reset false false)
    rings := Vector.replicate 96 Ring.reset
    engine := Engine.reset
    watched := Watched.reset
    arbiter := Arbiter.reset
    flights := []
    gates := Vector.replicate 8 Gate.reset
    status := Status.reset }

theorem Part.plan_of_frame {p q : Part} (h : q.frame = p.frame) : q.plan = p.plan := (congrArg Part.plan h :)
theorem Part.loader_of_frame {p q : Part} (h : q.frame = p.frame) : q.loader = p.loader := (congrArg Part.loader h :)
theorem Part.clock_of_frame {p q : Part} (h : q.frame = p.frame) : q.clock = p.clock := (congrArg Part.clock h :)
theorem Part.alarm_of_frame {p q : Part} (h : q.frame = p.frame) : q.alarm = p.alarm := (congrArg Part.alarm h :)
theorem Part.env_of_frame {p q : Part} (h : q.frame = p.frame) : q.env = p.env := (congrArg Part.env h :)
theorem Part.control_of_frame {p q : Part} (h : q.frame = p.frame) : q.control = p.control := (congrArg Part.control h :)
theorem Part.osc_of_frame {p q : Part} (h : q.frame = p.frame) : q.osc = p.osc := (congrArg Part.osc h :)

theorem Part.frame_of_exchange {p q : Part} (h : q.besidesExchange = p.besidesExchange) : q.frame = p.frame :=
  (congrArg Part.frame h :)

theorem Part.frame_modPort (n : Slot) (f : Port → Port) (p : Part) : (p.modPort n f).frame = p.frame := rfl
theorem Part.frame_mark (k : RecordNo) (p : Part) : (p.mark k).frame = p.frame := rfl
theorem Part.frame_modRing (r : RingNo) (f : Ring → Ring) (p : Part) : (p.modRing r f).frame = p.frame := rfl
theorem Part.frame_setWatched (k : WatchedWord) (v : Word) (p : Part) : (p.setWatched k v).frame = p.frame := rfl
theorem Part.frame_dropRequests (n : Slot) (p : Part) : (p.dropRequests n).frame = p.frame := rfl
theorem Part.frame_refuseRequests (n : Slot) (p : Part) : (p.refuseRequests n).frame = p.frame := rfl
theorem Part.frame_cancelCheck (n : Slot) (p : Part) : (p.cancelCheck n).frame = p.frame := rfl
theorem Part.frame_endCheck (n : Slot) (p : Part) : (p.endCheck n).frame = p.frame := rfl
theorem Part.frame_passCheck (n : Slot) (bytes : List Byte) (p : Part) : (p.passCheck n bytes).frame = p.frame := rfl

theorem Part.frame_setState (n : Slot) (st : SlotState) (p : Part) : (p.setState n st).frame = p.frame := by
  unfold Part.setState
  dsimp only
  split
  · rw [Part.frame_of_exchange (Part.besidesExchange_idleRings n _), Part.frame_modPort, Part.frame_mark, Part.frame_modPort]
  · rw [Part.frame_mark, Part.frame_modPort]

theorem Part.frame_enterEmpty (n : Slot) (p : Part) : (p.enterEmpty n).frame = p.frame := by
  unfold Part.enterEmpty
  rw [Part.frame_modPort, Part.frame_setState]

theorem Part.frame_enterTraining (n : Slot) (p : Part) : (p.enterTraining n).frame = p.frame := by
  unfold Part.enterTraining
  rw [Part.frame_modPort, Part.frame_setState]

theorem Part.frame_enterPowering (n : Slot) (p : Part) : (p.enterPowering n).frame = p.frame := by
  unfold Part.enterPowering
  dsimp only
  split
  · rw [Part.frame_enterTraining, Part.frame_modPort, Part.frame_setState]
  · rw [Part.frame_modPort, Part.frame_setState]

theorem Part.frame_enterStandby (n : Slot) (p : Part) : (p.enterStandby n).frame = p.frame := by
  unfold Part.enterStandby
  dsimp only
  split
  · rw [Part.frame_enterPowering, Part.frame_modPort, Part.frame_setState]
  · rw [Part.frame_modPort, Part.frame_setState]

theorem Part.frame_enterFenced (n : Slot) (why : FenceReason) (off : Bool) (p : Part) :
    (p.enterFenced n why off).frame = p.frame := by
  have entered : ((p.setState n .fenced).cancelCheck n).frame = p.frame := by
    rw [Part.frame_cancelCheck, Part.frame_setState]
  have ended : ∀ q : Part, (if q.ports[n].link then q.refuseRequests n else q.dropRequests n).frame = q.frame := by
    intro q
    split <;> rfl
  unfold Part.enterFenced
  dsimp only
  rw [Part.frame_modPort, ended]
  split
  · rw [Part.frame_modPort, entered]
  · exact entered

theorem Part.frame_enterRemoving (n : Slot) (cycle : Bool) (p : Part) : (p.enterRemoving n cycle).frame = p.frame := by
  unfold Part.enterRemoving
  dsimp only
  rw [Part.frame_modPort, Part.frame_dropRequests, Part.frame_cancelCheck, Part.frame_setState]

theorem Part.frame_retrain (n : Slot) (p : Part) : (p.retrain n).frame = p.frame := by
  have trained : ((((p.modPort n Port.linkDown).dropRequests n).cancelCheck n).enterTraining n).frame = p.frame := by
    rw [Part.frame_enterTraining, Part.frame_cancelCheck, Part.frame_dropRequests, Part.frame_modPort]
  unfold Part.retrain
  dsimp only
  split
  · rw [Part.frame_modPort, trained]
  · exact trained

theorem Part.frame_takeRelease (n : Slot) (p : Part) : (p.takeRelease n).frame = p.frame := by
  unfold Part.takeRelease
  dsimp only
  split
  · split
    · rw [Part.frame_setState, Part.frame_modPort]
    · rw [Part.frame_enterTraining, Part.frame_modPort]
  · split
    · rw [Part.frame_enterPowering, Part.frame_modPort]
    · rw [Part.frame_enterStandby, Part.frame_modPort]

theorem Part.frame_settleSlot (n : Slot) (p : Part) : (p.settleSlot n).frame = p.frame := by
  have abandoned : ∀ (c : Fin 4) (q : Part),
      (if q.plan.rings[egressRing n c].present && q.rings[egressRing n c].producer != q.rings[egressRing n c].consumer then
        (q.modRing (egressRing n c) fun x => { x with consumer := x.producer }).writeIndex (egressRing n c)
          q.rings[egressRing n c].producer
      else q).frame = q.frame := by
    intro c q
    split
    · rw [Part.frame_of_exchange (Part.besidesExchange_writeIndex _ _ _), Part.frame_modRing]
    · rfl
  unfold Part.settleSlot
  dsimp only
  rw [Part.frame_modPort]
  exact (forEach_keeps Part.frame 4 _ abandoned _).trans
    (forEach_keeps Part.frame 4 _ (fun c q => Part.frame_of_exchange (Part.besidesExchange_dropHead _ _ _)) p)

theorem Part.frame_leave (n : Slot) (cycle : Bool) (p : Part) : (p.leave n cycle).frame = p.frame := by
  unfold Part.leave
  dsimp only
  split
  · rw [Part.frame_enterEmpty, Part.frame_modPort]
  · split
    · rw [Part.frame_enterPowering, Part.frame_modPort]
    · rw [Part.frame_enterStandby, Part.frame_modPort]

theorem Part.frame_endTraining (n : Slot) (p : Part) : (p.endTraining n).frame = p.frame := by
  unfold Part.endTraining Part.admitWaived
  dsimp only
  split
  · rw [Part.frame_modPort, Part.frame_setState, Part.frame_modPort]
  · rw [Part.frame_modPort, Part.frame_setState, Part.frame_modPort]

theorem Part.frame_presenceIsFound (n : Slot) (p : Part) : (p.presenceIsFound n).frame = p.frame := by
  unfold Part.presenceIsFound
  dsimp only
  split
  · split
    · rw [Part.frame_enterPowering, Part.frame_modPort]
    · rw [Part.frame_enterStandby, Part.frame_modPort]
  · exact Part.frame_modPort _ _ _

theorem Part.frame_presenceIsLost (n : Slot) (p : Part) : (p.presenceIsLost n).frame = p.frame := by
  rcases SlotState.cases_of_presence p.ports[n].state with h | h | h
  · rw [Part.presenceIsLost_of_unserved h, Part.frame_enterEmpty, Part.frame_modPort]
  · rw [Part.presenceIsLost_of_absent h, Part.frame_modPort]
  · rw [Part.presenceIsLost_of_linked h, Part.frame_enterRemoving, Part.frame_modPort]

theorem Part.frame_resetRing (why : Discard) (r : RingNo) (p : Part) : (p.resetRing why r).frame = p.frame := by
  unfold Part.resetRing
  dsimp only
  rw [Part.frame_of_exchange (Part.besidesExchange_writeIndex _ _ _), Part.frame_setWatched, Part.frame_modRing,
    Part.frame_of_exchange (Part.besidesExchange_setTake _ _ _), Part.frame_of_exchange (Part.besidesExchange_dropHead _ _ _)]

theorem Part.frame_resetSlotRings (n : Slot) (p : Part) : (p.resetSlotRings n).frame = p.frame := by
  have reset : ∀ (k : Fin 8) (q : Part), (if q.plan.rings[(⟨n.val * 8 + k.val, by omega⟩ : RingNo)].present then
      q.resetRing .sourceDown ⟨n.val * 8 + k.val, by omega⟩ else q).frame = q.frame := by
    intro k q
    split
    · exact Part.frame_resetRing _ _ _
    · rfl
  unfold Part.resetSlotRings
  dsimp only
  rw [forEach_keeps Part.frame 8 _ reset, Part.frame_of_exchange (Part.besidesExchange_voidFrom _ _),
    Part.frame_of_exchange (Part.besidesExchange_voidInto _ _)]

theorem Part.frame_admitSlot (n : Slot) (p : Part) : (p.admitSlot n).frame = p.frame := by
  unfold Part.admitSlot Part.armStrobe Part.startHeartbeat
  dsimp only
  rw [Part.frame_modPort, Part.frame_modPort, Part.frame_modPort, Part.frame_setState, Part.frame_resetSlotRings]

theorem Part.frame_enterAdmitting (n : Slot) (p : Part) : (p.enterAdmitting n).frame = p.frame := by
  unfold Part.enterAdmitting
  dsimp only
  split
  · rw [Part.frame_admitSlot, Part.frame_modPort, Part.frame_setState]
  · rw [Part.frame_modPort, Part.frame_setState]

theorem Part.frame_judgeCheck (n : Slot) (err : Bool) (bytes : List Byte) (p : Part) :
    (p.judgeCheck n err bytes).frame = p.frame := by
  cases err with
  | true => rw [Part.judgeCheck_of_error, Part.frame_modPort, Part.frame_endCheck]
  | false =>
    cases fault : identityFault p.plan.slots[n] (readIdentity bytes) with
    | some why => rw [Part.judgeCheck_of_fault fault, Part.frame_modPort, Part.frame_endCheck]
    | none => rw [Part.judgeCheck_of_pass fault, Part.frame_enterAdmitting, Part.frame_passCheck]

/-- A move of a slot event leaves the frame alone, or raises an event (R65). -/
theorem Part.SlotMove.frame {n : Slot} {p q : Part} (h : p.SlotMove n q) : q.frame = p.frame ∨ ∃ i, i = violationPoint n ∧ q = p.raiseEvent i := by
  cases h with
  | event i own => exact .inr ⟨i, own, rfl⟩
  | fence => exact .inl (Part.frame_enterFenced _ _ _ _)
  | cutFence => exact .inl ((Part.frame_enterFenced _ _ _ _).trans (Part.frame_modPort _ _ _))
  | remove => exact .inl (Part.frame_enterRemoving _ _ _)
  | retrain => exact .inl (Part.frame_retrain _ _)
  | release => exact .inl (Part.frame_takeRelease _ _)
  | power => exact .inl (Part.frame_enterPowering _ _)
  | train => exact .inl (Part.frame_enterTraining _ _)
  | endTraining => exact .inl (Part.frame_endTraining _ _)
  | found => exact .inl (Part.frame_presenceIsFound _ _)
  | lost => exact .inl (Part.frame_presenceIsLost _ _)
  | enroll => exact .inl (Part.frame_admitSlot _ _)
  | settle => exact .inl (Part.frame_settleSlot _ _)
  | leave => exact .inl (by rw [Part.leaveRemoving_eq, Part.frame_leave, Part.frame_settleSlot])
  | lose => exact .inl (Part.frame_modPort _ _ _)
  | note => exact .inl (Part.frame_modPort _ _ _)

end Sys2Proof.Machine
end


section
/-! PROOFS. The course of the part: the active plan, the loader and the clock. The commands that are not theirs leave it alone, but
for the review of the references that ends a slot event (R65, R129). -/
namespace Sys2Proof.Machine

/-! ### The exchange's own operations leave the frame alone -/

theorem Part.frame_setTake (r : RingNo) (t : Take) (p : Part) : (p.setTake r t).frame = p.frame :=
  Part.frame_of_exchange (Part.besidesExchange_setTake r t p)

theorem Part.frame_writeIndex (r : RingNo) (v : BitVec 16) (p : Part) : (p.writeIndex r v).frame = p.frame :=
  Part.frame_of_exchange (Part.besidesExchange_writeIndex r v p)

theorem Part.frame_modCounters (n : Slot) (f : Counters → Counters) (p : Part) : (p.modCounters n f).frame = p.frame := rfl

theorem Part.frame_retire (r : RingNo) (k : Nat) (p : Part) : (p.retire r k).frame = p.frame := by
  unfold Part.retire
  dsimp only
  rw [Part.frame_of_exchange (Part.besidesExchange_countBatch r _), Part.frame_setTake,
    Part.frame_of_exchange (Part.besidesExchange_orphanCopy r _), Part.frame_writeIndex, Part.frame_modRing]

theorem Part.frame_takeFrame (r : RingNo) (h : FrameHeader) (p : Part) : (p.takeFrame r h).frame = p.frame := by
  have charged : (p.chargeTake r h).frame = p.frame := Part.frame_of_exchange (p.sameRings_chargeTake r h).2
  rw [Part.takeFrame_eq]
  split
  · rw [Part.frame_retire, charged]
  · rw [Part.frame_setTake, charged]

theorem Part.frame_abandonRing (r : RingNo) (p : Part) : (p.abandonRing r).frame = p.frame := by
  unfold Part.abandonRing
  rw [Part.frame_setTake, Part.frame_modCounters, Part.frame_writeIndex, Part.frame_modRing]

theorem Part.frame_reviewHigh (r : RingNo) (p : Part) : (p.reviewHigh r).frame = p.frame := by
  unfold Part.reviewHigh
  split <;> rfl

theorem Part.frame_deliver (c : Copy) (p : Part) : (p.deliver c).frame = p.frame := by
  unfold Part.deliver
  split
  · dsimp only
    split
    · rw [Part.frame_retire, Part.frame_of_exchange (Part.besidesExchange_endCopy _), Part.frame_modCounters,
        Part.frame_modCounters, Part.frame_reviewHigh, Part.frame_modRing]
    · rw [Part.frame_modRing, Part.frame_of_exchange (Part.besidesExchange_endCopy _), Part.frame_modCounters,
        Part.frame_modCounters, Part.frame_reviewHigh, Part.frame_modRing]
  · exact Part.frame_of_exchange (Part.besidesExchange_endCopy p)

theorem Part.frame_settleExchange (old : Engine) (p : Part) : (p.settleExchange old).frame = p.frame :=
  Part.frame_of_exchange (Part.besidesExchange_settleExchange old p)

theorem Part.frame_choose (p : Part) : p.choose.frame = p.frame := by
  unfold Part.choose
  split
  · dsimp only
    rw [Part.frame_settleExchange, Part.frame_of_exchange (Part.besidesExchange_serveHead _ _)]
    rfl
  · rfl

theorem Part.frame_expireHead (r : RingNo) (p : Part) : (p.expireHead r).frame = p.frame := by
  unfold Part.expireHead
  split
  · next h head =>
    have kept : (p.keepDests r h .holdExpired fun _ => false).frame = p.frame :=
      Part.frame_of_exchange (Part.besidesExchange_keepDests (Part.egress_of_headRecord head) h _ _ p)
    dsimp only
    split
    · split
      · rw [Part.frame_of_exchange (Part.besidesExchange_endBatch _ _), kept]
      · exact kept
    · exact kept
  · rfl

theorem Part.frame_takeProducer (r : RingNo) (v : BitVec 16) (p : Part) : (p.takeProducer r v).frame = p.frame :=
  (Part.frame_of_exchange (Part.besidesExchange_takeProducer r v p)).trans (Part.frame_modRing _ _ _)

/-! ### The course -/

/-- The active plan, the plan loader and the clock. -/
def Part.course (p : Part) : Plan × Loader × Clock := (p.plan, p.loader, p.clock)

theorem Part.course_of_frame {p q : Part} (h : q.frame = p.frame) : q.course = p.course := (congrArg Part.course h :)

theorem Part.course_of_exchange {p q : Part} (h : q.besidesExchange = p.besidesExchange) : q.course = p.course :=
  Part.course_of_frame (Part.frame_of_exchange h)

theorem Part.course_of_alarms {p q : Part} (h : q.besidesAlarms = p.besidesAlarms) : q.course = p.course :=
  (congrArg Part.course h :)

theorem Part.course_complete (rest : List Flight) (err : Bool) (p : Part) : (p.complete rest err).course = p.course :=
  Part.course_of_alarms (p := { p with flights := rest }) (Part.besidesAlarms_complete rest err p)

theorem Part.course_ringFault (n : Slot) (p : Part) : (p.ringFault n).course = p.course :=
  Part.course_of_alarms (p := p.modPort n _) (Part.besidesAlarms_raiseEvent _ _)

theorem Part.course_judgeProducer (r : RingNo) (v : BitVec 16) (p : Part) : (p.judgeProducer r v).course = p.course := by
  unfold Part.judgeProducer
  split
  · rfl
  · split
    · refine Part.course_of_frame ?_
      rw [Part.frame_settleExchange, Part.frame_takeProducer]
    · exact Part.course_ringFault _ p

theorem Part.course_judgeConsumer (r : RingNo) (v : BitVec 16) (p : Part) : (p.judgeConsumer r v).course = p.course := by
  unfold Part.judgeConsumer
  split
  · rfl
  · split
    · refine (Part.course_of_alarms (Part.besidesAlarms_report _ _)).trans (Part.course_of_frame ?_)
      rw [Part.frame_settleExchange, Part.frame_reviewHigh, Part.frame_modRing]
    · exact Part.course_ringFault _ p

theorem Part.course_headerDone (r : RingNo) (err : Bool) (data : List Byte) (p : Part) :
    (p.headerDone r err data).course = p.course := by
  unfold Part.headerDone
  dsimp only
  split
  · rfl
  · split
    · exact Part.course_of_frame (Part.frame_setTake _ _ _)
    · split
      · rw [Part.malformedHeader_eq, Part.course_of_alarms (Part.besidesAlarms_raiseEvent _ _)]
        exact Part.course_of_frame (Part.frame_abandonRing _ _)
      · split
        · exact Part.course_of_frame (Part.frame_setTake _ _ _)
        · exact Part.course_of_frame (Part.frame_takeFrame _ _ _)

theorem Part.course_headerReadDone (err : Bool) (p : Part) : (p.headerReadDone err).course = p.course := by
  unfold Part.headerReadDone
  split
  · rw [Part.course_of_frame (Part.frame_settleExchange _ _), Part.course_headerDone, Part.course_complete]
  · rfl

theorem Part.course_copyReadDone (err : Bool) (p : Part) : (p.copyReadDone err).course = p.course := by
  unfold Part.copyReadDone
  split
  · dsimp only
    rw [Part.course_of_frame (Part.frame_settleExchange _ _)]
    split
    · rw [Part.course_of_exchange (Part.besidesExchange_copyReadError _ _), Part.course_complete]
    · rw [Part.course_of_exchange (Part.besidesExchange_copyBlockRead _ _ _), Part.course_complete]
  · exact Part.course_complete _ _ _
  · rfl

theorem Part.course_cardReadDone (err : Bool) (p : Part) : (p.cardReadDone err).course = p.course := by
  unfold Part.cardReadDone
  split
  · rw [Part.completeCard_eq]
    exact Part.course_complete _ _ _
  · rfl

theorem Part.course_emitTick (k : TickKind) (n : Nat) (p : Part) : (p.emitTick k n).course = p.course := by
  rw [Part.course_of_alarms (Part.emitTick_view k n p)]
  split <;> rfl

theorem Part.course_observeLogConsumer (v : Word) (p : Part) : (p.observeLogConsumer v).course = p.course := by
  unfold Part.observeLogConsumer
  dsimp only
  split <;> rfl

theorem Part.course_observeCutoff (v : Word) (p : Part) : (p.observeCutoff v).course = p.course :=
  Part.course_of_alarms (p := p.setWatched .cutoff v) (Part.besidesAlarms_setCutoff _ _)

theorem Part.course_beginLowest (p : Part) : p.beginLowest.course = p.course := by
  unfold Part.beginLowest
  split <;> rfl

/-! ### Predicates of the course alone -/

/-- `P` speaks of the course alone, and the review of the references keeps it. -/
structure Part.OfCourse (P : Part → Prop) : Prop where
  same : ∀ {p q : Part}, q.course = p.course → P p → P q
  review : ∀ {p : Part}, P p → P p.reviewReferences

variable {P : Part → Prop} (of : Part.OfCourse P)
include of

theorem Part.OfCourse.settleSlots (old : Engine) {p : Part} (h : P p) : P (p.settleSlots old) := by
  unfold Part.settleSlots
  refine of.same (Part.course_of_alarms (Part.besidesAlarms_report _ _)) ?_
  exact of.same (Part.course_of_frame (Part.frame_settleExchange _ _)) (of.review h)

theorem Part.OfCourse.moves {n : Slot} {p q : Part} (moves : p.SlotMoves n q) (h : P p) : P q := by
  refine moves.keeps (fun a b move ha => ?_) h
  rcases move.frame with same | ⟨i, own, rfl⟩
  · exact of.same (Part.course_of_frame same) ha
  · exact of.same (Part.course_of_alarms (Part.besidesAlarms_raiseEvent i a)) ha

/-- The deeds of a slot keep what speaks of the course alone. -/
theorem Part.OfCourse.deeds {n : Slot} {p q : Part} (deeds : p.SlotDeeds n q) (h : P p) : P q := by
  refine deeds.keeps (fun a b deed ha => ?_) h
  cases deed with
  | event r moves => exact of.settleSlots _ (of.moves moves ha)
  | change f _ => exact of.same (p := a) rfl ha
  | drop _ => exact of.same (p := a) rfl ha
  | powerOff _ => exact of.same (p := a) rfl ha
  | word k v => exact of.same (p := a) rfl ha
  | beat v _ =>
    refine of.same (Part.course_of_alarms (Part.besidesAlarms_report _ _)) ?_
    exact of.same (Part.course_of_frame (Part.frame_settleExchange _ _)) (of.same (p := a) rfl ha)

theorem Part.OfCourse.checkReadDone (err : Bool) {p : Part} (h : P p) : P (p.checkReadDone err) := by
  unfold Part.checkReadDone
  split
  · have completed : ∀ rest, P (p.complete rest err) := fun rest => of.same (Part.course_complete rest err p) h
    dsimp only
    split
    · exact of.settleSlots _ (of.same (Part.course_of_frame (Part.frame_judgeCheck _ _ _ _)) (completed _))
    · exact completed _
  · exact h

/-- A watched word handed over keeps what speaks of the course alone, if APPLY and SECONDS do. -/
theorem Part.OfCourse.observe (apply : ∀ v p, P p → P (p.observeApply v)) (seconds : ∀ v p, P p → P (p.observeSeconds v))
    (k : WatchedWord) (v : Word) {p : Part} (h : P p) : P (p.observe k v) := by
  cases k with
  | egressProducer n c => exact of.same (Part.course_judgeProducer _ _ _) (of.same (p := p) rfl h)
  | ingressConsumer n c => exact of.same (Part.course_judgeConsumer _ _ _) (of.same (p := p) rfl h)
  | heartbeat n => exact of.deeds (Part.deeds_observeHeartbeat n v p) h
  | admitWord n => exact of.deeds (Part.deeds_observeAdmit n v p) h
  | apply => exact apply v p h
  | logConsumer => exact of.same (Part.course_observeLogConsumer v p) h
  | cutoff => exact of.same (Part.course_observeCutoff v p) h
  | seconds => exact seconds v p h
  | slotCommand n => exact of.deeds (Part.deeds_observeSlotCommand n v p) h

/-- The commands of the loader, of the clock and of the resets. -/
def courseCommand : Instr → Bool
  | .apply _ | .seconds _ | .planReadComplete _ | .activation | .referencePulse _ | .miss _ | .holdoverLimit
  | .secondTurnover | .powerOnReset | .supplyDipReset | .resetPinAssert | .resetEnd => true
  | _ => false

/-- A command of any other block keeps what speaks of the course alone. -/
theorem Part.OfCourse.after {c : Instr} {p : Part} (ne : c ≠ .accessGrant) (other : courseCommand c = false) (h : P p) :
    P (p.after c) := by
  cases slot : commandSlot c with
  | some n => exact of.deeds (Part.deeds_after slot p) h
  | none =>
    have running : ∀ f : Part → Part, (f p).course = p.course → P (p.whileRunning f) := fun f same =>
      Part.whileRunning_keeps (fun _ hp => of.same same hp) h
    have due : ∀ (d : Part → Bool) (f : Part → Part), (f p).course = p.course → P (p.whenDue d f) := fun d f same =>
      Part.whenDue_keeps (fun _ _ hp => of.same same hp) h
    cases c <;> simp only [commandSlot, reduceCtorEq] at slot
    case accessGrant => exact absurd rfl ne
    case logConsumer v => exact running _ (Part.course_observeLogConsumer v p)
    case cutoff v => exact running _ (Part.course_observeCutoff v p)
    case egressProducer n c v => exact running _ (Part.course_judgeProducer _ _ (p.setWatched (.egressProducer n c) v))
    case ingressConsumer n c v => exact running _ (Part.course_judgeConsumer _ _ (p.setWatched (.ingressConsumer n c) v))
    case readCompletion err => exact running _ (Part.course_cardReadDone err p)
    case admissionCheckReadComplete err => exact Part.whileRunning_keeps (fun _ hp => of.checkReadDone err hp) h
    case headerReadComplete err => exact running _ (Part.course_headerReadDone err p)
    case serviceChoice =>
      rw [Part.after_serviceChoice]
      exact due _ _ (Part.course_of_frame (Part.frame_choose p))
    case copyReadComplete err => exact running _ (Part.course_copyReadDone err p)
    case holdExpired n c =>
      rw [Part.after_holdExpired]
      refine due _ _ (Part.course_of_frame ?_)
      rw [Part.frame_settleExchange, Part.frame_expireHead]
    case tick k =>
      rw [Part.after_tick]
      refine due _ _ ?_
      rw [Part.course_of_frame (Part.frame_settleExchange _ _), Part.course_emitTick]
    case gateOpenDelayExpiry g =>
      rw [Part.after_gateOpenDelayExpiry]
      exact due _ _ (Part.course_of_frame (Part.frame_settleExchange _ _))
    case gateWindowExpiry g =>
      rw [Part.after_gateWindowExpiry]
      exact due _ _ (Part.course_of_frame (Part.frame_settleExchange _ _))
    case envChange i l =>
      rw [Part.after_envChange]
      exact Part.whileRunning_keeps
        (fun _ hp => of.same (Part.course_of_alarms (Part.besidesAlarms_report _ _)) hp) (of.same (p := p) rfl h)
    case raiseTimerExpiry i =>
      rw [Part.after_raiseTimerExpiry]
      exact due _ _ (Part.course_of_alarms (Part.besidesAlarms_raisePoint _ _))
    case clearTimerExpiry i =>
      rw [Part.after_clearTimerExpiry]
      exact due _ _ (Part.course_of_alarms (Part.besidesAlarms_clearPoint _ _))
    case eventHoldExpiry i =>
      rw [Part.after_eventHoldExpiry]
      exact due _ _ (Part.course_of_alarms (Part.besidesAlarms_endHold _ _))
    case statusRecordBegin =>
      rw [Part.after_statusRecordBegin]
      exact due _ _ (Part.course_beginLowest p)
    case supplyFall => exact of.same (p := p) rfl h
    case supplyReturn => exact of.same (p := p) rfl h
    all_goals exact absurd other nofun

end Sys2Proof.Machine
end


section
/-! PROOFS. A grant and a period that passes keep what speaks of the course alone; and the stages of an activation, with the course
they leave (R47). -/
namespace Sys2Proof.Machine

/-! ### Grants and periods -/

theorem Part.course_handingOver (f : Part → Part) (p : Part) :
    (p.handingOver f).course = (f (p.modEngine fun e => { e with before := some p.engine.instant, handing := true })).course :=
  Part.course_of_exchange (Part.besidesExchange_endInstant _ _)

theorem Part.course_passPeriod (p : Part) : p.passPeriod.course = p.course := (congrArg Part.course (Part.besidesExchange_passPeriod p) :)

section
variable {P : Part → Prop} (of : Part.OfCourse P)
include of

theorem Part.OfCourse.observeWrite (apply : ∀ v p, P p → P (p.observeApply v)) (seconds : ∀ v p, P p → P (p.observeSeconds v))
    (start : Nat) (data : List Byte) {p : Part} (h : P p) : P (p.observeWrite start data) := by
  rw [Part.observeWrite_eq]
  split
  · exact h
  · refine of.same (Part.course_handingOver _ p) ?_
    exact foldl_invariant P _ (fun q x hq => of.observe apply seconds x.2 _ hq) _ _ (of.same (p := p) rfl h)

theorem Part.OfCourse.grantRequest (apply : ∀ v p, P p → P (p.observeApply v)) (seconds : ∀ v p, P p → P (p.observeSeconds v))
    (n : Slot) (q : Request) (rest : List Request) {s : State} (h : P s.part) : P (s.grantRequest n q rest).part := by
  unfold State.grantRequest
  dsimp only
  split
  · exact of.same (p := s.part) rfl h
  · refine of.observeWrite apply seconds _ _ ?_
    exact of.same (p := s.part) rfl h

theorem Part.OfCourse.grantCard (apply : ∀ v p, P p → P (p.observeApply v)) (seconds : ∀ v p, P p → P (p.observeSeconds v))
    (n : Slot) {s : State} (h : P s.part) : P (s.grantCard n).part := by
  unfold State.grantCard
  dsimp only
  split
  · exact of.same (p := s.part) rfl h
  · split
    · exact of.grantRequest apply seconds _ _ _ (of.same (p := s.part) rfl h)
    · exact of.same (p := s.part) rfl h

theorem Part.OfCourse.grantWriter {s : State} (h : P s.part) : P s.grantWriter.part := by
  unfold State.grantWriter
  dsimp only
  split
  · exact of.same (p := s.part) rfl h
  · split <;> exact of.same (p := s.part) rfl h
  · exact of.same (p := s.part) rfl h

theorem Part.OfCourse.grantEngine {s : State} (h : P s.part) : P s.grantEngine.part := by
  have free : (s.modPart fun p => p.modEngine fun e => { e with waiting := none }).part.course = s.part.course := rfl
  have launched : ∀ purpose a len (u : State), (u.launch purpose a len).part.course = u.part.course := fun _ _ _ _ => rfl
  have settled : ∀ (old : Engine) (q : Part), q.course = s.part.course → P (q.settleExchange old) := fun old q same =>
    of.same ((Part.course_of_frame (Part.frame_settleExchange old q)).trans same) h
  unfold State.grantEngine
  dsimp only
  generalize s.modPart (fun p => p.modEngine fun e => { e with waiting := none }) = u at free ⊢
  split
  · rw [State.modPart_part]
    exact settled _ _ free
  · rw [State.modPart_part]
    exact settled _ _ ((launched _ _ _ u).trans free)
  · rw [State.modPart_part]
    exact settled _ _ ((launched _ _ _ u).trans free)
  · rw [State.modPart_part]
    exact settled _ _ ((Part.course_of_exchange (Part.besidesExchange_copyBlockWritten _ _)).trans free)
  · rw [State.modPart_part]
    refine of.same (Part.course_of_alarms (Part.besidesAlarms_report _ _)) (settled _ _ ?_)
    exact (Part.course_of_frame (Part.frame_deliver _ _)).trans free
  · exact of.same free h

/-- A grant keeps what speaks of the course alone, if APPLY, SECONDS and the loader's grant do. -/
theorem Part.OfCourse.grant (apply : ∀ v p, P p → P (p.observeApply v)) (seconds : ∀ v p, P p → P (p.observeSeconds v))
    (loader : ∀ p : Part, P p → P (p.modLoader fun l => { l with readWaiting := false })) {s : State} (h : P s.part) :
    P s.grant.part := by
  have granted : P s.internalGranted.part := of.same (p := s.part) rfl h
  unfold State.grant
  split
  · exact of.grantCard apply seconds _ h
  · exact of.grantWriter granted
  · exact of.grantEngine granted
  · exact loader (s.internalGranted.launch .plan _ 64).part (of.same (p := s.part) rfl h)
  · exact h

end

/-! ### The stages of an activation (R47, Table 3-9) -/

theorem Part.frame_startHeartbeat (n : Slot) (p : Part) : (p.startHeartbeat n).frame = p.frame := rfl

/-- The states in which a slot holds power, or is FENCED (R79). -/
def SlotState.holds (st : SlotState) : Bool := st == .powering || st == .training || st.linked || st == .fenced

/-- What the identity of an ADMITTING or ADMITTED card fails of a slot entry, if anything (R60, R79). -/
def Port.mismatch (x : Port) (plan : SlotPlan) : Option AdmitResult :=
  if x.state = .admitting ∨ x.state = .admitted then x.identity.bind (identityFault plan) else none

/-- Slot 0's supervision and strobe begin as its waiver ends (R77). -/
def Part.endWaiver (n : Slot) (p : Part) : Part :=
  ((p.startHeartbeat n).armStrobe n).modPort n fun x => { x with waived := false }

/-- A check that is under way ends without a result where the slot is in QUARANTINE; a waiver of slot 0 ends (R77, R79). -/
def Part.keepSlot (n : Slot) (p : Part) : Part :=
  if p.ports[n].state = .quarantine ∧ p.ports[n].check.isSome = true then p.cancelCheck n
  else if n = 0 ∧ p.ports[n].state = .admitted ∧ p.ports[n].waived = true then p.endWaiver n
  else p

/-- A card that does not fit the new slot entry: slot 0 notes it, and any other slot is fenced (R78, R79). -/
def Part.rejectCard (n : Slot) (why : AdmitResult) (p : Part) : Part :=
  if n = 0 then p.modPort n fun x => { x with admitResult := why } else p.enterFenced n .planMismatch false

/-- The first change of R79 that applies. -/
theorem Part.compareSlot_eq (n : Slot) (p : Part) :
    p.compareSlot n =
      if p.plan.slots[n].enabled = false ∧ p.ports[n].state.holds = true then p.enterRemoving n false
      else if p.plan.slots[n].enabled = true ∧ p.ports[n].state = .standby then p.enterPowering n
      else match p.ports[n].mismatch p.plan.slots[n] with
        | some why => p.rejectCard n why
        | none => p.keepSlot n := by
  have zero : (n.val = 0) = (n = 0) := propext ⟨fun e => Fin.ext e, fun e => congrArg Fin.val e⟩
  unfold Part.compareSlot Part.rejectCard Part.keepSlot Port.mismatch
  dsimp only
  refine ite_iff_congr ?_ rfl (ite_iff_congr ?_ rfl ?_)
  · rw [Bool.and_eq_true_iff, Bool.not_eq_true']
    cases p.ports[n].state <;> rfl
  · rw [Bool.and_eq_true_iff, beq_iff_eq]
  · generalize (if p.ports[n].state = .admitting ∨ p.ports[n].state = .admitted then
      p.ports[n].identity.bind (identityFault p.plan.slots[n]) else none) = fault
    cases fault with
    | some why => exact ite_iff_congr (Eq.to_iff zero) rfl rfl
    | none =>
      refine ite_iff_congr ?_ rfl (ite_iff_congr ?_ rfl rfl)
      · rw [Bool.and_eq_true_iff, beq_iff_eq]
      · rw [Bool.and_eq_true_iff, Bool.and_eq_true_iff, beq_iff_eq, beq_iff_eq, and_assoc, zero]

theorem Part.frame_compareSlot (n : Slot) (p : Part) : (p.compareSlot n).frame = p.frame := by
  rw [Part.compareSlot_eq]
  split
  · exact Part.frame_enterRemoving _ _ _
  · split
    · exact Part.frame_enterPowering _ _
    · split
      · unfold Part.rejectCard
        split
        · exact Part.frame_modPort _ _ _
        · exact Part.frame_enterFenced _ _ _ _
      · unfold Part.keepSlot
        split
        · exact Part.frame_cancelCheck _ _
        · split <;> rfl

theorem Part.frame_rekey (old : Plan) (n : Slot) (p : Part) : (p.rekey old n).frame = p.frame := by
  unfold Part.rekey
  split <;> rfl

theorem Part.frame_powerFault (n : Slot) (why : FenceReason) (p : Part) : (p.powerFault n why).frame = p.frame := by
  unfold Part.powerFault
  split
  · exact Part.frame_enterRemoving _ _ _
  · exact Part.frame_enterFenced _ _ _ _

theorem Part.frame_loseHeartbeat (n : Slot) (why : FenceReason) (p : Part) : (p.loseHeartbeat n why).frame = p.frame := by
  unfold Part.loseHeartbeat Part.fenceKeepingPower
  dsimp only
  split
  · split
    · exact Part.frame_modPort _ _ _
    · rw [Part.frame_enterFenced, Part.frame_modPort]
  · exact Part.frame_modPort _ _ _

/-- The presence timer of slot `n`, if it has run its length, acts (R55, R80). -/
def Part.expirePresence (n : Slot) (p : Part) : Part :=
  if p.presenceDue n true then p.presenceIsFound n else if p.presenceDue n false then p.presenceIsLost n else p

/-- The state timer of slot `n`, if it has run its length, acts (R57, R58, R62, R80). -/
def Part.expireState (n : Slot) (p : Part) : Part :=
  if p.powerGoodDue n then p.powerFault n .powerFault
  else if p.trainingDue n then p.powerFault n .trainTimeout
  else if p.admitDue n then p.admitSlot n else p

/-- The heartbeat window of slot `n`, if it has run its length, acts (R74, R80). -/
def Part.expireHeartbeat (n : Slot) (p : Part) : Part :=
  if p.heartbeatDue n then p.loseHeartbeat n .heartbeatLost else p

theorem Part.expireSlot_eq (n : Slot) (p : Part) : p.expireSlot n = ((p.expirePresence n).expireState n).expireHeartbeat n := rfl

theorem Part.frame_expireSlot (n : Slot) (p : Part) : (p.expireSlot n).frame = p.frame := by
  have presence : ∀ q : Part, (q.expirePresence n).frame = q.frame := by
    intro q
    unfold Part.expirePresence
    split
    · exact Part.frame_presenceIsFound _ _
    · split
      · exact Part.frame_presenceIsLost _ _
      · rfl
  have state : ∀ q : Part, (q.expireState n).frame = q.frame := by
    intro q
    unfold Part.expireState
    split
    · exact Part.frame_powerFault _ _ _
    · split
      · exact Part.frame_powerFault _ _ _
      · split
        · exact Part.frame_admitSlot _ _
        · rfl
  have heartbeat : ∀ q : Part, (q.expireHeartbeat n).frame = q.frame := by
    intro q
    unfold Part.expireHeartbeat
    split
    · exact Part.frame_loseHeartbeat _ _ _
    · rfl
  rw [Part.expireSlot_eq, heartbeat, state, presence]

theorem Part.frame_activateSlots (old : Plan) (p : Part) : (p.activateSlots old).frame = p.frame := by
  unfold Part.activateSlots
  dsimp only
  rw [forEach_keeps Part.frame 12 _ (fun n q => Part.frame_expireSlot n q)]
  exact forEach_keeps Part.frame 12 _ (fun n q => (Part.frame_rekey old n _).trans (Part.frame_compareSlot n q)) p

/-- The outcome the plan result records for the operation that activates (R49). -/
def Part.activationResult (new : Plan) (p : Part) : PlanResult :=
  p.planResult (if p.loader.clamps = 0 then PlanOutcome.accepted else .acceptedClamped) .none 0 p.loader.clamps new.generation

/-- The first stage: the new plan is in force and the operation is over (R47, R48). -/
def Part.replan (new : Plan) (p : Part) : Part :=
  (({ p with plan := new } : Part).modLoader fun l => l.finish (p.activationResult new)).mark 1

/-- The second stage: the rings under the new plan (R100). -/
def Part.replanRings (old : Plan) (p : Part) : Part := ((p.resetChangedRings old).dropLostDests).reviewAllHigh

/-- The third stage: gates, PROG record and log ring under the new plan `new` (R154, R160, R188). -/
def Part.replanTicks (old new : Plan) (p : Part) : Part :=
  let q := (p.closeGates).retimeProg old
  { q with status := q.status.takeLog old.alarm new.alarm }

/-- The part as the slot ports leave it, before the clock meets the new plan. -/
def Part.replanned (new : Plan) (p : Part) : Part :=
  (((p.replan new).replanRings p.plan).replanTicks p.plan new).activateSlots p.plan

/-- An activation in stages. -/
theorem Part.activate_eq (new : Plan) (p : Part) :
    p.activate new = (((p.endSecondTick.replanned new).activateClock.sweepDests.expireHeads).settleExchange
      p.endSecondTick.engine).activateAlarms := rfl

theorem Part.frame_replanRings (old : Plan) (p : Part) : (p.replanRings old).frame = p.frame := by
  have reset : (p.resetChangedRings old).frame = p.frame := by
    refine forEach_keeps Part.frame 96 _ (fun r q => ?_) p
    split
    · exact Part.frame_resetRing _ _ _
    · rfl
  have dropped : ∀ q : Part, q.dropLostDests.frame = q.frame := by
    refine fun q => forEach_keeps Part.frame 96 _ (fun r q => ?_) q
    split
    · next head => exact Part.frame_of_exchange (Part.besidesExchange_keepDests (Part.egress_of_headRecord head) _ _ _ _)
    · rfl
  have reviewed : ∀ q : Part, q.reviewAllHigh.frame = q.frame := fun q => forEach_keeps Part.frame 96 _ Part.frame_reviewHigh q
  unfold Part.replanRings
  rw [reviewed, dropped, reset]

theorem Part.course_replanTicks (old new : Plan) (p : Part) : (p.replanTicks old new).course = p.course := by
  have retimed : ∀ q : Part, (q.retimeProg old).course = q.course := by
    intro q
    unfold Part.retimeProg
    split <;> rfl
  exact (retimed p.closeGates).trans rfl

/-- What the first four stages make of plan, loader and clock. -/
theorem Part.course_replanned (new : Plan) (p : Part) :
    (p.replanned new).course = (new, p.loader.finish (p.activationResult new), p.clock) := by
  unfold Part.replanned
  rw [Part.course_of_frame (Part.frame_activateSlots _ _), Part.course_replanTicks,
    Part.course_of_frame (Part.frame_replanRings _ _)]
  rfl

theorem Part.replanned_fields (new : Plan) (p : Part) :
    (p.replanned new).plan = new ∧ (p.replanned new).loader = p.loader.finish (p.activationResult new)
      ∧ (p.replanned new).clock = p.clock := by
  have stage := Part.course_replanned new p
  unfold Part.course at stage
  rwa [Prod.mk.injEq, Prod.mk.injEq] at stage

theorem Part.frame_expireHeads (p : Part) : p.expireHeads.frame = p.frame := by
  unfold Part.expireHeads
  refine forEach_keeps Part.frame 96 _ (fun r q => ?_) p
  split
  · exact Part.frame_expireHead _ _
  · rfl

/-- The exchange and the alarm unit end an activation, and leave the course alone. -/
theorem Part.course_activated (old : Engine) (p : Part) :
    ((p.sweepDests.expireHeads).settleExchange old).activateAlarms.course = p.course := by
  unfold Part.activateAlarms
  rw [Part.course_of_alarms (Part.besidesAlarms_mark _ _), Part.course_of_alarms (Part.besidesAlarms_expirePoints _),
    Part.course_of_alarms (Part.besidesAlarms_reintegrate _), Part.course_of_frame (Part.frame_settleExchange _ _),
    Part.course_of_frame (Part.frame_expireHeads _), Part.course_of_exchange (Part.besidesExchange_sweepDests _)]

/-- The event holds that end at the SECOND tick of the instant (R168, R177). -/
def Part.endHolds (p : Part) : Part := forEach 89 (fun i q => if q.eventHoldDue i then q.endHold i else q) p

/-- The SECOND tick of an instant is over. -/
def Part.tickOver (p : Part) : Part := { p with secondTick := false }

theorem Part.endSecondTick_eq (p : Part) : p.endSecondTick = p.endHolds.tickOver := rfl

theorem Part.besidesAlarms_endHolds (p : Part) : p.endHolds.besidesAlarms = p.besidesAlarms := by
  refine forEach_keeps Part.besidesAlarms 89 _ (fun i q => ?_) p
  split
  · exact Part.besidesAlarms_endHold _ _
  · rfl

theorem Part.course_tickOver (p : Part) : p.tickOver.course = p.course := rfl

theorem Part.course_endSecondTick (p : Part) : p.endSecondTick.course = p.course := by
  rw [Part.endSecondTick_eq, Part.course_tickOver, Part.course_of_alarms (Part.besidesAlarms_endHolds p)]

/-- What an activation makes of the course: the clock meets the new plan last (R47, R145). -/
theorem Part.course_activate (new : Plan) (p : Part) :
    (p.activate new).course = (p.endSecondTick.replanned new).activateClock.course := by
  rw [Part.activate_eq, Part.course_activated]

/-- The clock meets the new plan without touching plan or loader (R145). -/
theorem Part.activateClock_view (p : Part) : p.activateClock.plan = p.plan ∧ p.activateClock.loader = p.loader := by
  have ref : ∀ (r : RefId) (q : Part), (q.activateRef r).plan = q.plan ∧ (q.activateRef r).loader = q.loader := by
    intro r q
    unfold Part.activateRef
    dsimp only
    split
    · exact ⟨rfl, rfl⟩
    · split <;> exact ⟨rfl, rfl⟩
  have both := ref .b (p.activateRef .a)
  have first := ref .a p
  unfold Part.activateClock
  dsimp only
  split <;> exact ⟨both.1.trans first.1, both.2.trans first.2⟩

end Sys2Proof.Machine
end


section
/-! PROOFS. Every step keeps the plans laid out, for an image becomes a plan through the structural checks alone (R43, R47), and
the clock sound: its references, its selection and its correction move together (R133 to R143). -/
namespace Sys2Proof.Machine

theorem Part.course_eq_iff {p q : Part} : q.course = p.course ↔ q.plan = p.plan ∧ q.loader = p.loader ∧ q.clock = p.clock := by
  unfold Part.course
  rw [Prod.mk.injEq, Prod.mk.injEq]

theorem Part.plansLaidOut_congr {p q : Part} (plan : q.plan = p.plan) (staged : q.loader.staged = p.loader.staged)
    (h : p.plansLaidOut) : q.plansLaidOut := by
  unfold Part.plansLaidOut
  rw [plan, staged]
  exact h

theorem Part.ofCourse_plansLaidOut : Part.OfCourse Part.plansLaidOut where
  same := fun same laid => by
    obtain ⟨plan, loader, -⟩ := Part.course_eq_iff.mp same
    exact Part.plansLaidOut_congr plan (congrArg Loader.staged loader) laid
  review := fun laid => laid

theorem Part.plansLaidOut_unstaged {p : Part} (plan : p.plan.laidOut) (staged : p.loader.staged = none) : p.plansLaidOut :=
  ⟨plan, fun _ h => absurd (staged.symm.trans h) nofun⟩

theorem Loader.finish_staged (l : Loader) (r : PlanResult) : (l.finish r).staged = none := by
  rw [Loader.finish_eq]
  split <;> rfl

theorem Part.plansLaidOut_observeApply (v : Word) {p : Part} (h : p.plansLaidOut) : (p.observeApply v).plansLaidOut := by
  have staged : (p.loader.applyWord v).staged = p.loader.staged ∨ (p.loader.applyWord v).staged = none := by
    unfold Loader.applyWord
    split
    · exact .inl rfl
    · split
      · exact .inr rfl
      · exact .inl rfl
  rcases staged with same | none
  · exact Part.plansLaidOut_congr (p := p) rfl same h
  · exact Part.plansLaidOut_unstaged (p := p.observeApply v) h.1 none

/-- A plan is staged by the structural checks alone (R43). -/
theorem Part.plansLaidOut_planReadDone (err : Bool) {p : Part} (h : p.plansLaidOut) : (p.planReadDone err).plansLaidOut := by
  have rejected : ∀ (sec : PlanSection) (entry : Nat) (q : Part), q.plan = p.plan → (q.rejectPlan sec entry).plansLaidOut := by
    intro sec entry q same
    refine Part.ofCourse_plansLaidOut.same (p := q.rejected sec entry) (Part.course_of_alarms (Part.besidesAlarms_raiseEvent _ _)) ?_
    exact Part.plansLaidOut_unstaged (same ▸ h.1) (Loader.finish_staged _ _)
  unfold Part.planReadDone
  split
  · next data rest flights =>
    have kept : (p.complete rest err).plansLaidOut := Part.ofCourse_plansLaidOut.same (Part.course_complete rest err p) h
    have plan : (p.complete rest err).plan = p.plan := (Part.course_eq_iff.mp (Part.course_complete rest err p)).1
    dsimp only
    split
    · exact rejected _ _ _ plan
    · by_cases more : (p.complete rest err).loader.block + 1 < 65
      · rw [Part.planBlockRead_of_more more]
        exact Part.plansLaidOut_congr (p := p.complete rest err) rfl rfl kept
      · rw [Part.planBlockRead_of_last (Nat.not_lt.mp more)]
        generalize read : ((p.complete rest err).modLoader fun l => l.took data true) = q
        have same : q.plan = p.plan := by rw [← read]; exact plan
        cases fault : structuralFault q.loader.image (q.loader.generation.getD 0) with
        | some at_ =>
          rw [Part.validatePlan_of_fault fault]
          exact rejected _ _ q same
        | none =>
          rw [Part.validatePlan_of_sound fault]
          refine Part.ofCourse_plansLaidOut.same (Part.course_of_frame (Part.frame_settleExchange _ _)) ?_
          refine ⟨same ▸ h.1, fun staged e => ?_⟩
          rw [← Option.some.inj e]
          exact readPlan_laidOut fault
  · exact h

/-- A staged plan that is laid out becomes the active plan, and none is staged after it (R47). -/
theorem Part.plansLaidOut_activate {new : Plan} (laid : new.laidOut) (p : Part) : (p.activate new).plansLaidOut := by
  refine Part.ofCourse_plansLaidOut.same (Part.course_activate new p) ?_
  obtain ⟨plan, loader⟩ := (p.endSecondTick.replanned new).activateClock_view
  obtain ⟨new', ended, -⟩ := Part.replanned_fields new p.endSecondTick
  refine Part.plansLaidOut_unstaged ?_ ?_
  · rw [plan, new']
    exact laid
  · rw [loader, ended]
    exact Loader.finish_staged _ _

theorem Part.plansLaidOut_activateStaged {p : Part} (h : p.plansLaidOut) : p.activateStaged.plansLaidOut := by
  unfold Part.activateStaged
  split
  · next plan staged => exact Part.plansLaidOut_activate (h.2 plan staged) p
  · exact h

/-! ### The events that move the clock alone -/

/-- What a disciplined pulse makes of a clock (R139 to R142). -/
def Clock.disciplined (k : Clock) (plan : ClockPlan) (e : Int) : Clock :=
  match k.state with
  | .tracking => k.trackingPulse plan e
  | .acquiring => if plan.stepThreshold < e.natAbs then k.step e else k.acquiringPulse plan e
  | .freerun | .holdover => k

/-- The part with its clock replaced. -/
def Part.withClock (k : Clock) (p : Part) : Part := { p with clock := k }

theorem Part.course_withClock (k : Clock) (p : Part) : (p.withClock k).course = (p.plan, p.loader, k) := rfl

theorem Part.course_stepTicks (p : Part) : p.stepTicks.course = p.course := by
  unfold Part.stepTicks
  refine foldl_keeps Part.course _ (fun q k => ?_) tickKinds p
  dsimp only
  split
  · rfl
  · exact Part.course_emitTick _ _ _

theorem Part.course_phaseStep (e : Int) (p : Part) : (p.phaseStep e).course = (p.withClock (p.clock.step e)).course := by
  have stepped : (p.stepped e).course = (p.withClock (p.clock.step e)).course :=
    Part.course_of_alarms (p := p.withClock (p.clock.step e)) (p.besidesAlarms_stepped e)
  rw [Part.phaseStep_eq]
  split
  · rw [Part.course_stepTicks, stepped]
  · exact stepped

theorem Part.course_disciplined (e : Int) (p : Part) :
    (p.disciplined e).course = (p.withClock (p.clock.disciplined p.plan.clock e)).course := by
  unfold Clock.disciplined
  rcases p.clock.state.cases_of with (state | state) | state
  · rw [Part.disciplined_of_tracking e state, state]
    rfl
  · rw [state]
    by_cases far : p.plan.clock.stepThreshold < e.natAbs
    · rw [Part.disciplined_of_far e state far, Part.course_phaseStep]
      exact congrArg (fun k => (p.withClock k).course) (if_pos far).symm
    · rw [Part.disciplined_of_near e state (Nat.not_lt.mp far)]
      exact congrArg (fun k => (p.withClock k).course) (if_neg far).symm
  · rw [Part.disciplined_of_idle e state]
    rcases state with state | state <;> rw [state] <;> rfl

/-- A reference pulse makes of the course what its clock is after it (R128 to R142). -/
theorem Part.course_referencePulse (r : RefId) (p : Part) :
    (p.referencePulse r).course = p.course ∨ (p.referencePulse r).course = (p.withClock (p.pulseTaken r)).course
      ∨ ∃ e, (p.referencePulse r).course
          = (p.withClock (((p.pulseTaken r).noted e).disciplined p.plan.clock e)).course := by
  cases usable : p.usable r with
  | false => exact .inl (congrArg Part.course (Part.referencePulse_of_unusable usable))
  | true =>
    rw [Part.referencePulse_of_usable usable, Part.course_of_alarms (Part.besidesAlarms_report _ _),
      Part.course_of_frame (Part.frame_settleExchange _ _)]
    split
    · refine .inr (.inr ⟨phaseError p.clock.ns (p.plan.clock.ref r).cableDelay, ?_⟩)
      rw [Part.discipline_eq, Part.course_disciplined]
      rfl
    · exact .inr (.inl rfl)

theorem Part.course_takeMiss (r : RefId) (p : Part) :
    (p.takeMiss r).course = (p.withClock
      ((p.clock.setRef r ((p.clock.ref r).miss (p.plan.clock.ref r))).select p.plan.clock p.now)).course :=
  Part.course_of_alarms (p := p.withClock _) (Part.besidesAlarms_report _ _)

theorem Part.course_holdoverLimit (p : Part) :
    (Part.report clockPoints (p.withClock { p.clock with holdoverReached := true })).course
      = (p.withClock { p.clock with holdoverReached := true }).course :=
  Part.course_of_alarms (Part.besidesAlarms_report _ _)

theorem Part.course_turnover (p : Part) : p.turnover.course = (p.withClock p.clock.turnover).course := by
  obtain ⟨plan, loader, -⟩ := Part.course_eq_iff.mp (Part.course_passPeriod p)
  have moved : (p.passPeriod.withClock p.clock.turnover).course = (p.withClock p.clock.turnover).course := by
    rw [Part.course_withClock, Part.course_withClock, plan, loader]
  unfold Part.turnover
  dsimp only
  split <;> exact moved

theorem Part.course_advance (p : Part) :
    p.advance.course = p.course ∨ p.advance.course = (p.withClock p.clock.advance).course := by
  obtain ⟨plan, loader, clock⟩ := Part.course_eq_iff.mp (Part.course_passPeriod p)
  unfold Part.advance
  dsimp only
  split
  · refine .inr ?_
    show (p.passPeriod.withClock p.passPeriod.clock.advance).course = _
    rw [Part.course_withClock, Part.course_withClock, plan, loader, clock]
  · exact .inl (Part.course_passPeriod p)

/-- The start of the part leaves plan and clock alone, and stages no plan (R52, R192). -/
theorem Part.start_view (kind : ResetKind) (p : Part) :
    (p.start kind).plan = p.plan ∧ (p.start kind).clock = p.clock ∧ (p.start kind).loader.staged = none := by
  have view : (p.start kind).course = (if kind = .resetPin then (p.started kind).modLoader fun l => l.begin_ .warmStart none
        else p.started kind).course := Part.course_of_alarms (Part.besidesAlarms_start kind p)
  obtain ⟨plan, loader, clock⟩ := Part.course_eq_iff.mp view
  rw [plan, clock, loader]
  split <;> exact ⟨rfl, rfl, rfl⟩

/-! ### The plans -/

/-- Only the clock has changed. -/
theorem Part.plansLaidOut_of_clock {p q : Part} {k : Clock} (h : q.course = (p.withClock k).course) (laid : p.plansLaidOut) :
    q.plansLaidOut := Part.ofCourse_plansLaidOut.same h (Part.plansLaidOut_congr (p := p) rfl rfl laid)

theorem Part.plansLaidOut_startIfOver {p : Part} (h : p.plansLaidOut) : p.startIfOver.plansLaidOut := by
  unfold Part.startIfOver
  split
  · split
    · next kind _ _ =>
      obtain ⟨plan, -, staged⟩ := Part.start_view kind p
      exact Part.plansLaidOut_unstaged (plan ▸ h.1) staged
    · exact h
  · exact h

/-- Settles O11. -/
theorem stepKeepsPlansLaidOut : Obligations.StepKeepsPlansLaidOut := by
  unfold Obligations.StepKeepsPlansLaidOut
  intro s t
  refine step_keeps (P := Part.plansLaidOut) ?_ ?_ ?_ ?_
  · intro c p ne h
    have reset : ∀ kind control, (p.underReset kind control).plansLaidOut := fun kind control =>
      Part.plansLaidOut_unstaged bootstrap_laidOut rfl
    cases c with
    | apply v => exact Part.whileRunning_keeps (fun _ hp => Part.plansLaidOut_observeApply v hp) h
    | seconds v => exact Part.whileRunning_keeps (fun _ hp => hp) h
    | planReadComplete err => exact Part.whileRunning_keeps (fun _ hp => Part.plansLaidOut_planReadDone err hp) h
    | activation =>
      rw [Part.after_activation]
      exact Part.whenDue_keeps (fun _ _ hp => Part.plansLaidOut_activateStaged hp) h
    | referencePulse r =>
      refine Part.whileRunning_keeps (fun _ hp => ?_) h
      rcases Part.course_referencePulse r p with same | same | ⟨e, same⟩
      · exact Part.ofCourse_plansLaidOut.same same hp
      · exact Part.plansLaidOut_of_clock same hp
      · exact Part.plansLaidOut_of_clock same hp
    | miss r =>
      rw [Part.after_miss]
      exact Part.whenDue_keeps (fun _ _ hp => Part.plansLaidOut_of_clock (Part.course_takeMiss r p) hp) h
    | holdoverLimit =>
      rw [Part.after_holdoverLimit]
      exact Part.whenDue_keeps (fun _ _ hp => Part.plansLaidOut_of_clock (Part.course_holdoverLimit p) hp) h
    | secondTurnover =>
      rw [Part.after_secondTurnover]
      split
      · exact Part.plansLaidOut_of_clock (Part.course_turnover p) h
      · exact h
    | powerOnReset => exact reset _ _
    | supplyDipReset =>
      rw [Part.after_supplyDipReset]
      split
      · exact reset _ _
      · exact h
    | resetPinAssert =>
      rw [Part.after_resetPinAssert]
      split
      · exact reset _ _
      · exact h
    | resetEnd => exact Part.plansLaidOut_startIfOver (p := p.releasePin) h
    | _ => exact Part.ofCourse_plansLaidOut.after ne rfl h
  · exact fun s _ h =>
      Part.ofCourse_plansLaidOut.grant (fun v _ => Part.plansLaidOut_observeApply v) (fun _ _ hp => hp) (fun _ hp => hp) h
  · exact fun _ _ h => h
  · intro p h
    rcases Part.course_advance p with same | same
    · exact Part.ofCourse_plansLaidOut.same same h
    · exact Part.plansLaidOut_of_clock same h

end Sys2Proof.Machine
end


section
/-! PROOFS. Every step keeps the clock sound: the correction and the increment move together, and the selection with the references
and the clock state (R133 to R143). -/
namespace Sys2Proof.Machine

/-! ### The clock's own operations -/

/-- The clock but for the references its selection rests on: the increment and the correction agree, and the clock is ACQUIRING or
TRACKING exactly while a reference is selected (R133, R135, R136). -/
def Clock.steered (k : Clock) : Prop :=
  k.increment = incrementOf k.c ∧ k.c = k.facc + k.p
    ∧ (k.selected.isSome = true ↔ k.state = .acquiring ∨ k.state = .tracking)

theorem Clock.sound_iff {k : Clock} : k.sound ↔ k.steered ∧ ∀ r, k.selected = some r → (k.ref r).state = .qualified :=
  ⟨fun ⟨inc, sum, refs, state⟩ => ⟨⟨inc, sum, state⟩, refs⟩, fun ⟨⟨inc, sum, state⟩, refs⟩ => ⟨inc, sum, refs, state⟩⟩

/-- A clock whose references alone changed. -/
theorem Clock.steered_setRef {k : Clock} (h : k.steered) (r : RefId) (x : Reference) : (k.setRef r x).steered := by
  cases r <;> exact h

theorem Clock.steered_setCorrection {k : Clock} (h : k.steered) (facc p : Int) : (k.setCorrection facc p).steered :=
  ⟨rfl, rfl, h.2.2⟩

theorem Clock.ref_setCorrection (k : Clock) (facc p : Int) (r : RefId) : (k.setCorrection facc p).ref r = k.ref r := by
  cases r <;> rfl

theorem Clock.sound_setCorrection {k : Clock} (h : k.sound) (facc p : Int) : (k.setCorrection facc p).sound := by
  obtain ⟨steered, refs⟩ := Clock.sound_iff.mp h
  refine Clock.sound_iff.mpr ⟨Clock.steered_setCorrection steered facc p, fun r selected => ?_⟩
  rw [Clock.ref_setCorrection]
  exact refs r selected

/-- The selection finds QUALIFIED references alone (R133). -/
theorem Clock.found_qualified {k : Clock} {plan : ClockPlan} {r : RefId} (h : k.found plan = some r) :
    (k.ref r).state = .qualified := by
  by_cases kept : ∃ r', plan.revertive = false ∧ k.selected = some r' ∧ (k.ref r').state = .qualified
  · obtain ⟨r', fixed, selected, qualified⟩ := kept
    rw [Clock.found_of_kept fixed selected qualified] at h
    rwa [← Option.some.inj h]
  · rw [Clock.found_of_not_kept (not_exists.mp kept)] at h
    unfold Clock.preferred at h
    by_cases first : (k.ref plan.first).state = .qualified
    · rw [if_pos first] at h
      rwa [← Option.some.inj h]
    · rw [if_neg first] at h
      by_cases second : (k.ref (if plan.first = .a then .b else .a)).state = .qualified
      · rw [if_pos second] at h
        rwa [← Option.some.inj h]
      · rw [if_neg second] at h
        cases h

theorem Clock.steered_select {k : Clock} (h : k.steered) (plan : ClockPlan) (now : Nat) : (k.select plan now).steered := by
  obtain ⟨inc, sum, state⟩ := h
  by_cases same : k.found plan = k.selected
  · rw [Clock.select_of_found same]
    exact ⟨inc, sum, state⟩
  · cases found : k.found plan with
    | some r =>
      rw [Clock.select_of_some found fun e => same (found.trans e.symm)]
      exact ⟨inc, sum, by simp⟩
    | none =>
      have change : k.selected ≠ none := fun e => same (found.trans e.symm)
      have busy : k.state = .tracking ∨ k.state = .acquiring := (state.mp (Option.isSome_iff_ne_none.mpr change)).symm
      rw [Clock.select_of_none found change busy]
      refine ⟨rfl, (Int.add_zero _).symm, ?_⟩
      by_cases holds : k.state = .tracking ∨ k.trained = true
      · simp [holds]
      · simp [holds]

/-- The selection found afresh makes a steered clock sound (R133). -/
theorem Clock.sound_select {k : Clock} (h : k.steered) (plan : ClockPlan) (now : Nat) : (k.select plan now).sound := by
  refine Clock.sound_iff.mpr ⟨Clock.steered_select h plan now, fun r selected => ?_⟩
  rw [Clock.ref_select]
  rw [Clock.select_selected] at selected
  exact Clock.found_qualified selected

/-- A change that leaves the references, the selection and the correction alone, and the clock ACQUIRING or TRACKING where it was
one of them. -/
theorem Clock.sound_of_same {k k' : Clock} (h : k.sound) (refs : k'.refA = k.refA ∧ k'.refB = k.refB)
    (selected : k'.selected = k.selected)
    (state : (k'.state = .acquiring ∨ k'.state = .tracking) ↔ (k.state = .acquiring ∨ k.state = .tracking))
    (correction : k'.increment = k.increment ∧ k'.c = k.c ∧ k'.facc = k.facc ∧ k'.p = k.p) : k'.sound := by
  obtain ⟨inc, sum, qualified, busy⟩ := h
  obtain ⟨inc', c', facc', p'⟩ := correction
  refine ⟨by rw [inc', c', inc], by rw [c', facc', p', sum], fun r here => ?_, by rw [selected, state, busy]⟩
  have ref : k'.ref r = k.ref r := by
    cases r
    · exact refs.1
    · exact refs.2
  rw [ref]
  exact qualified r (selected ▸ here)

theorem Clock.sound_noted {k : Clock} (h : k.sound) (e : Int) : (k.noted e).sound :=
  Clock.sound_of_same h ⟨rfl, rfl⟩ rfl Iff.rfl ⟨rfl, rfl, rfl, rfl⟩

theorem Clock.sound_step {k : Clock} (h : k.sound) (e : Int) : (k.step e).sound := by
  unfold Clock.step
  dsimp only
  repeat' split
  all_goals exact Clock.sound_of_same h ⟨rfl, rfl⟩ rfl Iff.rfl ⟨rfl, rfl, rfl, rfl⟩

theorem Clock.sound_update {k : Clock} (h : k.sound) (plan : ClockPlan) (e : Int) : (k.update plan e).sound :=
  Clock.sound_setCorrection h _ _

theorem Clock.sound_trackingPulse {k : Clock} (h : k.sound) (tracking : k.state = .tracking) (plan : ClockPlan) (e : Int) :
    (k.trackingPulse plan e).sound := by
  unfold Clock.trackingPulse
  split
  · split
    · exact Clock.sound_of_same h ⟨rfl, rfl⟩ rfl (by simp [tracking, Clock.enterAcquiring]) ⟨rfl, rfl, rfl, rfl⟩
    · exact Clock.sound_of_same h ⟨rfl, rfl⟩ rfl Iff.rfl ⟨rfl, rfl, rfl, rfl⟩
  · refine Clock.sound_update ?_ plan e
    exact Clock.sound_of_same h ⟨rfl, rfl⟩ rfl Iff.rfl ⟨rfl, rfl, rfl, rfl⟩

theorem Clock.sound_acquiringPulse {k : Clock} (h : k.sound) (acquiring : k.state = .acquiring) (plan : ClockPlan) (e : Int) :
    (k.acquiringPulse plan e).sound := by
  have updated := Clock.sound_update h plan e
  have state : (k.update plan e).state = .acquiring := acquiring
  rw [Clock.acquiringPulse_eq]
  split
  · exact Clock.sound_of_same updated ⟨rfl, rfl⟩ rfl Iff.rfl ⟨rfl, rfl, rfl, rfl⟩
  · exact Clock.sound_of_same updated ⟨rfl, rfl⟩ rfl (by simp [state]) ⟨rfl, rfl, rfl, rfl⟩

theorem Clock.sound_disciplined {k : Clock} (h : k.sound) (plan : ClockPlan) (e : Int) : (k.disciplined plan e).sound := by
  unfold Clock.disciplined
  split
  · next tracking => exact Clock.sound_trackingPulse h tracking plan e
  · next acquiring =>
    split
    · exact Clock.sound_step h e
    · exact Clock.sound_acquiringPulse h acquiring plan e
  · exact h
  · exact h

theorem Clock.sound_turnover {k : Clock} (h : k.sound) : k.turnover.sound := by
  unfold Clock.turnover
  dsimp only
  split <;> exact Clock.sound_of_same h ⟨rfl, rfl⟩ rfl Iff.rfl ⟨rfl, rfl, rfl, rfl⟩

theorem Clock.sound_advance {k : Clock} (h : k.sound) : k.advance.sound :=
  Clock.sound_of_same h ⟨rfl, rfl⟩ rfl Iff.rfl ⟨rfl, rfl, rfl, rfl⟩

theorem Clock.sound_holdover {k : Clock} (h : k.sound) : Clock.sound { k with holdoverReached := true } :=
  Clock.sound_of_same h ⟨rfl, rfl⟩ rfl Iff.rfl ⟨rfl, rfl, rfl, rfl⟩

/-- A reset-pin reset leaves the clock without a reference, its correction Facc (R148). -/
theorem Clock.sound_warmReset (k : Clock) : k.warmReset.sound := by
  unfold Clock.warmReset Clock.loseReference
  dsimp only
  split <;> exact ⟨rfl, rfl, nofun, by simp [Clock.setCorrection]⟩

theorem Clock.sound_reset : Clock.reset.sound := ⟨by decide +kernel, rfl, nofun, by decide⟩

/-! ### The clock at an activation and at a review (R129, R145) -/

theorem Part.activateRef_clock (r : RefId) (p : Part) : ∃ x, (p.activateRef r).clock = p.clock.setRef r x := by
  unfold Part.activateRef
  dsimp only
  split
  · exact ⟨_, rfl⟩
  · split
    · exact ⟨_, rfl⟩
    · refine ⟨p.clock.ref r, ?_⟩
      cases r <;> rfl

theorem Part.sound_activateClock {p : Part} (h : p.clock.sound) : p.activateClock.clock.sound := by
  have refs : ((p.activateRef .a).activateRef .b).clock.steered := by
    obtain ⟨x, a⟩ := p.activateRef_clock .a
    obtain ⟨y, b⟩ := (p.activateRef .a).activateRef_clock .b
    rw [b, a]
    exact Clock.steered_setRef (Clock.steered_setRef (Clock.sound_iff.mp h).1 _ _) _ _
  have corrected := fun plan now facc pTerm => Clock.sound_setCorrection (Clock.sound_select refs plan now) facc pTerm
  unfold Part.activateClock
  dsimp only
  split
  · exact Clock.sound_holdover (corrected _ _ _ _)
  · exact corrected _ _ _ _

theorem Part.sound_reviewReferences {p : Part} (h : p.clock.sound) : p.reviewReferences.clock.sound := by
  have steered := (Clock.sound_iff.mp h).1
  unfold Part.reviewReferences
  dsimp only
  refine Clock.sound_select ?_ _ _
  split <;> split <;> exact steered

theorem Part.ofCourse_clockSound : Part.OfCourse fun p => p.clock.sound where
  same := fun same sound => by
    rw [(Part.course_eq_iff.mp same).2.2]
    exact sound
  review := Part.sound_reviewReferences

/-- Only the clock has changed, to a sound one. -/
theorem Part.sound_of_course {p q : Part} {k : Clock} (h : q.course = (p.withClock k).course) (sound : k.sound) :
    q.clock.sound := Part.ofCourse_clockSound.same h sound

/-! ### The step -/

theorem Part.sound_planReadDone (err : Bool) {p : Part} (h : p.clock.sound) : (p.planReadDone err).clock.sound := by
  have rejected : ∀ (sec : PlanSection) (entry : Nat) (q : Part), q.clock.sound → (q.rejectPlan sec entry).clock.sound := by
    intro sec entry q sound
    exact Part.ofCourse_clockSound.same (p := q.rejected sec entry) (Part.course_of_alarms (Part.besidesAlarms_raiseEvent _ _)) sound
  unfold Part.planReadDone
  split
  · next data rest flights =>
    have kept : (p.complete rest err).clock.sound := Part.ofCourse_clockSound.same (Part.course_complete rest err p) h
    dsimp only
    split
    · exact rejected _ _ _ kept
    · by_cases more : (p.complete rest err).loader.block + 1 < 65
      · rw [Part.planBlockRead_of_more more]
        exact kept
      · rw [Part.planBlockRead_of_last (Nat.not_lt.mp more)]
        generalize read : ((p.complete rest err).modLoader fun l => l.took data true) = q
        have same : q.clock.sound := by rw [← read]; exact kept
        cases fault : structuralFault q.loader.image (q.loader.generation.getD 0) with
        | some found =>
          rw [Part.validatePlan_of_fault fault]
          exact rejected _ _ q same
        | none =>
          rw [Part.validatePlan_of_sound fault]
          exact Part.ofCourse_clockSound.same (Part.course_of_frame (Part.frame_settleExchange _ _)) same
  · exact h

theorem Part.sound_activate (new : Plan) {p : Part} (h : p.clock.sound) : (p.activate new).clock.sound := by
  refine Part.ofCourse_clockSound.same (Part.course_activate new p) (Part.sound_activateClock ?_)
  rw [(Part.replanned_fields new p.endSecondTick).2.2]
  exact Part.ofCourse_clockSound.same (Part.course_endSecondTick p) h

/-- Settles O7. -/
theorem stepKeepsClockSound : Obligations.StepKeepsClockSound := by
  unfold Obligations.StepKeepsClockSound
  intro s t
  refine step_keeps (P := fun p => p.clock.sound) ?_ ?_ ?_ ?_
  · intro c p ne h
    have reset : ∀ kind control, (p.underReset kind control).clock.sound := by
      intro kind control
      show (if kind = .resetPin then p.clock.warmReset else Clock.reset).sound
      split
      · exact Clock.sound_warmReset _
      · exact Clock.sound_reset
    cases c with
    | apply v => exact Part.whileRunning_keeps (P := fun p => p.clock.sound) (fun _ hp => hp) h
    | seconds v =>
      exact Part.whileRunning_keeps (P := fun p => p.clock.sound)
        (fun _ hp => Clock.sound_of_same hp ⟨rfl, rfl⟩ rfl Iff.rfl ⟨rfl, rfl, rfl, rfl⟩) h
    | planReadComplete err =>
      exact Part.whileRunning_keeps (P := fun p => p.clock.sound) (fun _ hp => Part.sound_planReadDone err hp) h
    | activation =>
      rw [Part.after_activation]
      refine Part.whenDue_keeps (P := fun p => p.clock.sound) (fun _ _ hp => ?_) h
      unfold Part.activateStaged
      split
      · exact Part.sound_activate _ hp
      · exact hp
    | referencePulse r =>
      refine Part.whileRunning_keeps (P := fun p => p.clock.sound) (fun _ hp => ?_) h
      have taken : (p.pulseTaken r).sound :=
        Clock.sound_select (Clock.steered_setRef (Clock.sound_iff.mp hp).1 _ _) _ _
      rcases Part.course_referencePulse r p with same | same | ⟨e, same⟩
      · exact Part.ofCourse_clockSound.same same hp
      · exact Part.sound_of_course same taken
      · exact Part.sound_of_course same (Clock.sound_disciplined (Clock.sound_noted taken e) _ _)
    | miss r =>
      rw [Part.after_miss]
      refine Part.whenDue_keeps (P := fun p => p.clock.sound) (fun _ _ hp => ?_) h
      exact Part.sound_of_course (Part.course_takeMiss r p)
        (Clock.sound_select (Clock.steered_setRef (Clock.sound_iff.mp hp).1 _ _) _ _)
    | holdoverLimit =>
      rw [Part.after_holdoverLimit]
      exact Part.whenDue_keeps (P := fun p => p.clock.sound)
        (fun _ _ hp => Part.sound_of_course (Part.course_holdoverLimit p) (Clock.sound_holdover hp)) h
    | secondTurnover =>
      rw [Part.after_secondTurnover]
      split
      · exact Part.sound_of_course (Part.course_turnover p) (Clock.sound_turnover h)
      · exact h
    | powerOnReset => exact reset _ _
    | supplyDipReset =>
      rw [Part.after_supplyDipReset]
      split
      · exact reset _ _
      · exact h
    | resetPinAssert =>
      rw [Part.after_resetPinAssert]
      split
      · exact reset _ _
      · exact h
    | resetEnd =>
      show p.releasePin.startIfOver.clock.sound
      unfold Part.startIfOver
      split
      · split
        · rw [(Part.start_view _ _).2.1]
          exact h
        · exact h
      · exact h
    | _ => exact Part.ofCourse_clockSound.after ne rfl h
  · exact fun s _ h => Part.ofCourse_clockSound.grant (fun _ _ hp => hp)
      (fun _ _ hp => Clock.sound_of_same hp ⟨rfl, rfl⟩ rfl Iff.rfl ⟨rfl, rfl, rfl, rfl⟩) (fun _ hp => hp) h
  · exact fun _ _ h => h
  · intro p h
    rcases Part.course_advance p with same | same
    · exact Part.ofCourse_clockSound.same same h
    · exact Part.sound_of_course same (Clock.sound_advance h)

end Sys2Proof.Machine
end


section
/-! PROOFS. What the moves of a slot event make of a port and of the reads in flight: `Port.Step` lists the ways, and every move of a
slot event, and of an activation, turns the slot's port by a run of them (4.1 to 4.8). -/
namespace Sys2Proof.Machine

/-! ### The steps of a port -/

/-- The ways in which a slot event turns port `x` of slot `n` and the reads in flight `l`. -/
inductive Port.Step (n : Slot) (x : Port) (l : List Flight) : Port → List Flight → Prop
  | fence (ne : n ≠ 0) (why : FenceReason) (off : Bool) : Step n x l (x.fencedBy why off) (markedFlights n (x.link && !off) l)
  | cutFence (ne : n ≠ 0) (why : FenceReason) : Step n x l (x.linkDown.fencedBy why false) (markedFlights n false l)
  | remove (cycle : Bool) (now : Nat) : Step n x l (x.removedBy cycle now) (markedFlights n false l)
  | retrain (now : Nat) : Step n x l (x.retrained now) (markedFlights n false l)
  | release (fenced : x.state = .fenced) (enabled : Bool) (now : Nat) : Step n x l (x.released n enabled now) l
  | power (rest : x.state = .standby ∨ x.state = .empty) (now : Nat) : Step n x l (x.powered now) l
  | standBy (empty : x.state = .empty) : Step n x l x.stoodBy l
  | empty (unserved : x.state.unserved) : Step n x l x.emptied l
  | train (powering : x.state = .powering) (now : Nat) : Step n x l (x.trained now) l
  | quarantine (training : x.state = .training) : Step n x l x.quarantined l
  | waive (training : x.state = .training) (zero : n = 0) : Step n x l x.waivedIn l
  | enroll (admitting : x.state = .admitting) (key : Word) (now : Nat) : Step n x l (x.admittedBy key now) l
  | leave (removing : x.state = .removing) (cycle : Bool) (now : Nat) : Step n x l (x.left n cycle now) l
  | lose : Step n x l x.withoutHeartbeat l
  | settle : Step n x l { x with settlementOwed := false } l
  | cancel : Step n x l { x with check := none } (uncheckedFlights n l)
  | endWaiver (admitted : x.state = .admitted) (key : Word) (now : Nat) :
      Step n x l { x with heartbeat := Heartbeat.begun key now, strobe := { x.strobe with armed := true }, waived := false } l
  | rekey (supervised : x.heartbeat.supervising = true) (key : Word) (now : Nat) :
      Step n x l { x with heartbeat := Heartbeat.begun key now } l
  | note (y : Port) (same : y.besidesSigns = x.besidesSigns) : Step n x l y l

/-- A run of such steps. -/
def Port.Steps (n : Slot) : Port × List Flight → Port × List Flight → Prop :=
  Run fun a b => Port.Step n a.1 a.2 b.1 b.2

theorem Port.Step.single {n : Slot} {x y : Port} {l k : List Flight} (h : Port.Step n x l y k) :
    Port.Steps n (x, l) (y, k) := Run.single h

theorem Port.Steps.refl {n : Slot} {a : Port × List Flight} : Port.Steps n a a := Run.refl

theorem Port.Steps.trans {n : Slot} {a b c : Port × List Flight} (h : Port.Steps n a b) (h' : Port.Steps n b c) :
    Port.Steps n a c := Run.trans h h'

/-- Part `q` differs from part `p` in the ports at slot `n` alone, whose port is `y` but for its counters, and has the reads `l` in
flight. -/
structure Part.Turn (n : Slot) (p q : Part) (y : Port) (l : List Flight) : Prop where
  port : q.ports[n].besidesCounters = y.besidesCounters
  flights : q.flights = l
  others : ∀ m, n ≠ m → q.ports[m].besidesCounters = p.ports[m].besidesCounters

/-- Slot `n` of part `p` turns by steps to what it is in part `q`. -/
def Part.Turns (n : Slot) (p q : Part) : Prop :=
  ∃ y l, Port.Steps n (p.ports[n], p.flights) (y, l) ∧ p.Turn n q y l

theorem Part.turns_of_slot {n : Slot} {p q : Part} {y : Port} {l : List Flight} (view : q.besidesSlot n = p.besidesSlot n)
    (port : q.ports[n].besidesCounters = y.besidesCounters) (flights : q.flights = l)
    (steps : Port.Steps n (p.ports[n], p.flights) (y, l)) : p.Turns n q :=
  ⟨y, l, steps, port, flights, fun _ ne => Part.port_of_besidesSlot ne view⟩

theorem Part.turns_modPort {n : Slot} {f : Port → Port} {p : Part} (step : Port.Step n p.ports[n] p.flights (f p.ports[n]) p.flights) :
    p.Turns n (p.modPort n f) :=
  Part.turns_of_slot (Part.besidesSlot_modPort n f p) (congrArg _ (Part.modPort_self n f p)) (Part.modPort_flights n f p) step.single

theorem Part.port_of_besidesAdmission {n m : Slot} (ne : n ≠ m) {p q : Part} (h : q.besidesAdmission n = p.besidesAdmission n) :
    q.ports[m].besidesCounters = p.ports[m].besidesCounters := by
  have entry : ∀ r : Part, (r.besidesAdmission n).ports[m] = r.ports[m].besidesCounters := by
    intro r
    refine (getElem_modify_ne _ n _ m.val m.isLt fun e => ne (Fin.ext e)).trans ?_
    exact getElem_mapTable _ _ _ _
  rw [← entry, ← entry, h]

theorem SlotState.ne_admitted {st st' : SlotState} (h : st = st') (ne : st' ≠ .admitted) : st ≠ .admitted := h ▸ ne

/-! ### The moves of a slot event -/

theorem Part.turns_enterFenced {n : Slot} (ne : n ≠ 0) (why : FenceReason) (off : Bool) (p : Part) :
    p.Turns n (p.enterFenced n why off) :=
  Part.turns_of_slot (Part.besidesSlot_enterFenced n why off p) (congrArg _ (Part.enterFenced_port n why off p))
    (Part.enterFenced_flights n why off p) (Port.Step.fence ne why off).single

theorem Part.turns_enterRemoving (n : Slot) (cycle : Bool) (p : Part) : p.Turns n (p.enterRemoving n cycle) :=
  Part.turns_of_slot (Part.besidesSlot_enterRemoving n cycle p) (congrArg _ (Part.enterRemoving_port n cycle p))
    (Part.enterRemoving_flights n cycle p) (Port.Step.remove cycle p.now).single

theorem Part.turns_enterPowering {n : Slot} {p : Part} (rest : p.ports[n].state = .standby) :
    p.Turns n (p.enterPowering n) :=
  Part.turns_of_slot (Part.besidesSlot_enterPowering n p)
    (congrArg _ (Part.enterPowering_port (SlotState.ne_admitted rest nofun))) (Part.enterPowering_flights n p)
    (Port.Step.power (.inl rest) p.now).single

theorem Part.turns_presenceIsFound (n : Slot) (p : Part) : p.Turns n (p.presenceIsFound n) := by
  refine Part.turns_of_slot (Part.besidesSlot_presenceIsFound n p) (congrArg _ (Part.presenceIsFound_port n p))
    (Part.presenceIsFound_flights n p) ?_
  have seen : Port.Steps n (p.ports[n], p.flights) (p.ports[n].debounced true, p.flights) :=
    (Port.Step.note (x := p.ports[n]) (p.ports[n].debounced true) rfl).single
  unfold Port.found
  split
  · next empty =>
    split
    · exact seen.trans (Port.Step.power (x := p.ports[n].debounced true) (.inr empty) _).single
    · exact seen.trans (Port.Step.standBy (x := p.ports[n].debounced true) empty).single
  · exact seen

theorem Part.turns_presenceIsLost (n : Slot) (p : Part) : p.Turns n (p.presenceIsLost n) := by
  have view := Part.besidesSlot_presenceIsLost n p
  have seen : Port.Steps n (p.ports[n], p.flights) (p.ports[n].debounced false, p.flights) :=
    (Port.Step.note (x := p.ports[n]) (p.ports[n].debounced false) rfl).single
  have gone : (p.modPort n fun x => x.debounced false).ports[n] = p.ports[n].debounced false := Part.modPort_self _ _ _
  rcases SlotState.cases_of_presence p.ports[n].state with h | h | h
  · have down : (p.modPort n fun x => x.debounced false).ports[n].state ≠ .admitted := by
      rw [gone]
      show p.ports[n].state ≠ .admitted
      rcases h with e | e | e <;> exact SlotState.ne_admitted e nofun
    rw [Part.presenceIsLost_of_unserved h] at view ⊢
    refine Part.turns_of_slot view (congrArg _ ((Part.enterEmpty_port down).trans (congrArg Port.emptied gone)))
      (Part.enterEmpty_flights n _) ?_
    exact seen.trans (Port.Step.empty (x := p.ports[n].debounced false) h).single
  · rw [Part.presenceIsLost_of_absent h] at view ⊢
    exact Part.turns_of_slot view (congrArg _ gone) rfl seen
  · rw [Part.presenceIsLost_of_linked h] at view ⊢
    refine Part.turns_of_slot view (congrArg _ ((Part.enterRemoving_port n false _).trans
      (congrArg (fun x : Port => x.removedBy false _) gone))) (Part.enterRemoving_flights n false _) ?_
    exact seen.trans (Port.Step.remove (x := p.ports[n].debounced false) false _).single

theorem Part.turns_admitSlot {n : Slot} {p : Part} (admitting : p.ports[n].state = .admitting) : p.Turns n (p.admitSlot n) :=
  ⟨_, _, (Port.Step.enroll admitting _ p.now).single,
    Part.admitSlot_port (SlotState.ne_admitted admitting nofun), Part.admitSlot_flights n p,
    fun _ ne => Part.port_of_besidesAdmission ne (Part.besidesAdmission_admitSlot n p)⟩

theorem Part.turns_leaveRemoving {n : Slot} {p : Part} (removing : p.ports[n].state = .removing) : p.Turns n (p.leaveRemoving n) := by
  have view := Part.besidesSlot_leaveRemoving n p
  have settled : (p.settleSlot n).ports[n].state ≠ .admitted := by
    rw [Part.settleSlot_port]
    exact SlotState.ne_admitted removing nofun
  have port : (p.leaveRemoving n).ports[n].besidesCounters
      = (({ p.ports[n] with settlementOwed := false } : Port).left n p.ports[n].powerCycle p.now).besidesCounters := by
    have same : (p.ports[n].settled (p.heldDests n)).besidesCounters
        = ({ p.ports[n] with settlementOwed := false } : Port).besidesCounters := rfl
    rw [Part.leaveRemoving_eq, Part.leave_port settled, Part.settleSlot_port, Part.settleSlot_now]
    generalize p.ports[n].settled (p.heldDests n) = y at same
    generalize ({ p.ports[n] with settlementOwed := false } : Port) = z at same
    have fields : ∀ x : Port, (x.left n p.ports[n].powerCycle p.now).besidesCounters
        = (x.besidesCounters.left n p.ports[n].powerCycle p.now).besidesCounters := by
      intro x
      unfold Port.left
      show _ = (if x.presence = false then _ else _ : Port).besidesCounters
      split
      · rfl
      · split <;> rfl
    rw [fields, same, ← fields]
  have flights : (p.leaveRemoving n).flights = p.flights := by
    rw [Part.leaveRemoving_eq, Part.leave_flights, Part.settleSlot_flights]
  refine Part.turns_of_slot view port flights (Port.Steps.trans Port.Step.settle.single ?_)
  exact (Port.Step.leave (x := { p.ports[n] with settlementOwed := false }) removing _ _).single

/-- Every move of a slot event turns the slot's port by steps (R55 to R78). -/
theorem Part.SlotMove.turns {n : Slot} {p q : Part} (h : p.SlotMove n q) : p.Turns n q := by
  cases h with
  | fence ne why off => exact Part.turns_enterFenced ne why off p
  | cutFence ne why =>
    have cut : (p.modPort n Port.linkDown).ports[n] = p.ports[n].linkDown := Part.modPort_self _ _ _
    refine Part.turns_of_slot ((Part.besidesSlot_enterFenced n why false _).trans (Part.besidesSlot_modPort n _ p))
      (congrArg _ ((Part.enterFenced_port n why false _).trans (congrArg (fun x : Port => x.fencedBy why false) cut))) ?_
      (Port.Step.cutFence ne why).single
    rw [Part.enterFenced_flights, cut, Part.modPort_flights]
    rfl
  | remove cycle => exact Part.turns_enterRemoving n cycle p
  | retrain _ =>
    exact Part.turns_of_slot (Part.besidesSlot_retrain n p) (congrArg _ (Part.retrain_port n p)) (Part.retrain_flights n p)
      (Port.Step.retrain p.now).single
  | release fenced =>
    exact Part.turns_of_slot (Part.besidesSlot_takeRelease n p)
      (congrArg _ (Part.takeRelease_port (SlotState.ne_admitted fenced nofun))) (Part.takeRelease_flights n p)
      (Port.Step.release fenced _ p.now).single
  | power standby => exact Part.turns_enterPowering standby
  | train powering =>
    exact Part.turns_of_slot (Part.besidesSlot_enterTraining n p)
      (congrArg _ (Part.enterTraining_port (SlotState.ne_admitted powering nofun))) (Part.enterTraining_flights n p)
      (Port.Step.train powering p.now).single
  | endTraining training =>
    refine Part.turns_of_slot (Part.besidesSlot_endTraining n p)
      (congrArg _ (Part.endTraining_port (SlotState.ne_admitted training nofun))) (Part.endTraining_flights n p) ?_
    split
    · next waived => exact (Port.Step.waive training waived.1).single
    · exact (Port.Step.quarantine training).single
  | found => exact Part.turns_presenceIsFound n p
  | lost => exact Part.turns_presenceIsLost n p
  | enroll admitting => exact Part.turns_admitSlot admitting
  | settle =>
    have same : (p.settleSlot n).ports[n].besidesCounters = ({ p.ports[n] with settlementOwed := false } : Port).besidesCounters :=
      (congrArg Port.besidesCounters (Part.settleSlot_port n p)).trans rfl
    exact Part.turns_of_slot (Part.besidesSlot_settleSlot n p) same (Part.settleSlot_flights n p) Port.Step.settle.single
  | leave removing => exact Part.turns_leaveRemoving removing
  | event i _ =>
    have same := Part.besidesAlarms_raiseEvent i p
    have ports := Part.ports_of_alarms same
    exact ⟨p.ports[n], p.flights, .refl, congrArg (fun v : Vector Port 12 => v[n].besidesCounters) ports,
      Part.flights_of_alarms same, fun m _ => congrArg (fun v : Vector Port 12 => v[m].besidesCounters) ports⟩
  | lose => exact Part.turns_modPort Port.Step.lose
  | note f same => exact Part.turns_modPort (Port.Step.note _ same)

/-! ### The moves of an activation (R79, R80) -/

theorem Part.turns_refl (n : Slot) (p : Part) : p.Turns n p := ⟨_, _, .refl, rfl, rfl, fun _ _ => rfl⟩

theorem Part.turns_endWaiver {n : Slot} {p : Part} (admitted : p.ports[n].state = .admitted) : p.Turns n (p.endWaiver n) := by
  have port : (p.endWaiver n).ports[n] = { p.ports[n] with
      heartbeat := Heartbeat.begun p.plan.slots[n].key p.now, strobe := { p.ports[n].strobe with armed := true }
      waived := false } := by
    unfold Part.endWaiver Part.armStrobe Part.startHeartbeat
    rw [Part.modPort_self, Part.modPort_self, Part.modPort_self]
    rfl
  refine Part.turns_of_slot ?_ (congrArg _ port) rfl (Port.Step.endWaiver admitted _ _).single
  unfold Part.endWaiver
  rw [Part.besidesSlot_modPort, Part.besidesSlot_armStrobe, Part.besidesSlot_startHeartbeat]

theorem Part.turns_compareSlot (n : Slot) (p : Part) : p.Turns n (p.compareSlot n) := by
  rw [Part.compareSlot_eq]
  split
  · exact Part.turns_enterRemoving n false p
  · split
    · next on => exact Part.turns_enterPowering on.2
    · split
      · unfold Part.rejectCard
        split
        · exact Part.turns_modPort (Port.Step.note _ rfl)
        · next ne => exact Part.turns_enterFenced ne _ _ p
      · unfold Part.keepSlot
        split
        · exact Part.turns_of_slot (Part.besidesSlot_cancelCheck n p) (congrArg _ (Part.cancelCheck_port n p))
            (Part.cancelCheck_flights n p) Port.Step.cancel.single
        · split
          · next waived => exact Part.turns_endWaiver waived.2.1
          · exact Part.turns_refl n p

theorem Part.turns_rekey (old : Plan) (n : Slot) (p : Part) : p.Turns n (p.rekey old n) := by
  unfold Part.rekey
  split
  · next changed => exact Part.turns_modPort (Port.Step.rekey (Bool.and_eq_true_iff.mp changed).1 _ _)
  · exact Part.turns_refl n p

end Sys2Proof.Machine
end


section
/-! PROOFS. Laws of the slot ports: what speaks of a slot's port and its own reads in flight is kept by every step once the few ways
in which these change keep it. -/
namespace Sys2Proof.Machine

/-- A read in flight is one of slot `n`: a READ of its card, or its admission check read. -/
def Flight.of (n : Slot) (f : Flight) : Bool :=
  match f.purpose with
  | .card m _ _ _ | .check m _ => m == n
  | .plan | .header _ | .copy => false

/-- The port of a slot after the judgement of its check (R60 to R62). -/
inductive Port.Judged (x : Port) : Port → Prop
  | failed (why : AdmitResult) : Judged x { x with check := none, admitResult := why }
  | passed (i : Identity) (short : i.serial.length ≤ 8) (now : Nat) : Judged x
      { ({ x with check := none, identity := some i, identityShown := false, admitResult := .passed } : Port).restated .admitting with
        stateTimer := some now }
  | admitted (i : Identity) (short : i.serial.length ≤ 8) (key : Word) (now : Nat) : Judged x
      (({ x with check := none, identity := some i, identityShown := false, admitResult := .passed } : Port).restated
        .admitting |>.admittedBy key now)

/-- The head of a slot's queue has been granted, and `rest` is left of it (R9). -/
def Port.served (x : Port) (rest : List Request) : Port :=
  { x with queue := rest, credits := if x.link then x.credits + 1 else x.credits }

/-- `Q` is a law of the slot ports: it speaks of a slot's port but for the exchange counters, and of the slot's own reads in flight,
and each way in which these change keeps it. -/
structure Port.Law (Q : Slot → Port → List Flight → Prop) : Prop where
  counters : ∀ {n x y l}, y.besidesCounters = x.besidesCounters → Q n x l → Q n y l
  flights : ∀ {n x l k}, k.filter (Flight.of n) = l.filter (Flight.of n) → Q n x l → Q n x k
  step : ∀ {n x y l k}, Port.Step n x l y k → Q n x l → Q n y k
  change : ∀ {n plan x y l}, Port.Change n plan x y → Q n x l → Q n y l
  drop : ∀ {n x l}, (x.state = .fenced ∨ x.state = .removing) → Q n x l → Q n x.linkDown.dropReads (markFlights n false l)
  powerOff : ∀ {n x l}, x.state = .fenced → Q n x l →
    Q n ({ x.linkDown with powerRemoved := true } : Port).dropReads (markFlights n false l)
  beat : ∀ {n x l} v now, x.heartbeat.supervising = true → Q n x l → Q n (x.beaten v now) l
  answer : ∀ {n x l t a b err data}, Q n x ({ purpose := .card n t a b, data := data } :: l) →
    Q n (x.answered t (x.answers t a b err data)) l
  judge : ∀ {n x y l data}, Q n x ({ purpose := .check n true, data := data } :: l) → x.Judged y → Q n y l
  stale : ∀ {n x l data}, Q n x ({ purpose := .check n false, data := data } :: l) → Q n x l
  grantCheck : ∀ {n x l k data}, x.check = some k → k.inFlight = false → Q n x l →
    Q n { x with check := some { k with inFlight := true } } (l ++ [{ purpose := .check n true, data := data }])
  grantRead : ∀ {n x l q rest data}, x.queue = q :: rest → q.isRead = true → Q n x l →
    Q n (x.served rest) (l ++ [{ purpose := .card n q.tag false false, data := data }])
  grantWrite : ∀ {n x l q rest}, x.queue = q :: rest → q.isRead = false → Q n x l →
    Q n { x.served rest with tags := x.tags.filter (· != q.tag) } l
  tick : ∀ {n x l} plan osc, Q n x l → Q n { x with strobe := x.strobe.tick plan osc } l
  held : ∀ {n x l keeps}, Q n x l → Q n (x.held keeps) []

/-- A law holds of every slot of a part. -/
def Part.Obeys (Q : Slot → Port → List Flight → Prop) (p : Part) : Prop := ∀ n : Slot, Q n p.ports[n] p.flights

/-- Two parts whose ports agree but for the counters, with the same reads of every slot in flight. -/
structure Part.SameDesks (p q : Part) : Prop where
  ports : ∀ n : Slot, q.ports[n].besidesCounters = p.ports[n].besidesCounters
  flights : ∀ n : Slot, q.flights.filter (Flight.of n) = p.flights.filter (Flight.of n)

theorem Part.SameDesks.refl (p : Part) : p.SameDesks p := ⟨fun _ => rfl, fun _ => rfl⟩

theorem Part.SameDesks.trans {p q r : Part} (h : p.SameDesks q) (h' : q.SameDesks r) : p.SameDesks r :=
  ⟨fun n => (h'.ports n).trans (h.ports n), fun n => (h'.flights n).trans (h.flights n)⟩

theorem Part.SameDesks.of_eq {p q : Part} (ports : q.ports = p.ports) (flights : q.flights = p.flights) : p.SameDesks q :=
  ⟨fun n => congrArg (fun v : Vector Port 12 => v[n].besidesCounters) ports, fun n => by rw [flights]⟩

theorem Part.SameDesks.of_exchange {p q : Part} (h : q.besidesExchange = p.besidesExchange) : p.SameDesks q :=
  ⟨Part.port_of_exchange h, fun n => by rw [Part.flights_of_exchange h]⟩

theorem Part.SameDesks.of_alarms {p q : Part} (h : q.besidesAlarms = p.besidesAlarms) : p.SameDesks q :=
  .of_eq (Part.ports_of_alarms h) (Part.flights_of_alarms h)

theorem Part.desks_settleExchange (old : Engine) (p : Part) : p.SameDesks (p.settleExchange old) :=
  .of_exchange (Part.besidesExchange_settleExchange old p)

theorem Part.desks_report (l : List Point) (p : Part) : p.SameDesks (p.report l) := .of_alarms (Part.besidesAlarms_report l p)

/-! ### The marks of another slot's entry -/

theorem filter_of_map {n : Slot} {g : Flight → Flight} (same : ∀ f : Flight, (g f).of n = f.of n ∧ (f.of n = true → g f = f))
    (l : List Flight) : (l.map g).filter (Flight.of n) = l.filter (Flight.of n) := by
  induction l with
  | nil => rfl
  | cons f l ih =>
    rw [List.map_cons, List.filter_cons, List.filter_cons, ih, (same f).1]
    split
    · next own => rw [(same f).2 own]
    · rfl

section others
variable {n m : Slot} (ne : n ≠ m) (l : List Flight)
include ne

theorem filter_markFlights (fence : Bool) : (markFlights n fence l).filter (Flight.of m) = l.filter (Flight.of m) := by
  refine filter_of_map (fun f => ?_) l
  obtain ⟨purpose, data⟩ := f
  cases purpose with
  | card k t a b => by_cases e : k = n <;> simp [Flight.of, e, ne]
  | _ => exact ⟨rfl, fun _ => rfl⟩

theorem filter_markedFlights (fence : Bool) : (markedFlights n fence l).filter (Flight.of m) = l.filter (Flight.of m) := by
  refine filter_of_map (fun f => ?_) l
  obtain ⟨purpose, data⟩ := f
  cases purpose with
  | card k t a b => by_cases e : k = n <;> simp [Flight.of, e, ne]
  | check k live =>
    by_cases e : k = n
    · simp [Flight.of, e, ne]
    · have other : (k != n) = true := bne_iff_ne.mpr e
      simp [other]
  | _ => exact ⟨rfl, fun _ => rfl⟩

theorem filter_uncheckedFlights : (uncheckedFlights n l).filter (Flight.of m) = l.filter (Flight.of m) := by
  refine filter_of_map (fun f => ?_) l
  obtain ⟨purpose, data⟩ := f
  cases purpose with
  | check k live =>
    by_cases e : k = n
    · simp [Flight.of, e, ne]
    · have other : (k != n) = true := bne_iff_ne.mpr e
      simp [other]
  | _ => exact ⟨rfl, fun _ => rfl⟩

/-- A step of one slot leaves the reads of the others alone. -/
theorem Port.Step.flights_others {x y : Port} {k : List Flight} (h : Port.Step n x l y k) :
    k.filter (Flight.of m) = l.filter (Flight.of m) := by
  cases h with
  | fence | cutFence | remove | retrain => exact filter_markedFlights ne l _
  | cancel => exact filter_uncheckedFlights ne l
  | _ => rfl

end others

theorem Port.Steps.flights_others {n m : Slot} (ne : n ≠ m) {a b : Port × List Flight} (h : Port.Steps n a b) :
    b.2.filter (Flight.of m) = a.2.filter (Flight.of m) := by
  induction h with
  | refl => rfl
  | tail _ step ih => exact (step.flights_others ne _).trans ih

/-! ### What the deeds of a slot and the completions keep -/

section law
variable {Q : Slot → Port → List Flight → Prop} (law : Port.Law Q)
include law

theorem Port.Law.desks {p q : Part} (same : p.SameDesks q) (h : p.Obeys Q) : q.Obeys Q := fun n =>
  law.flights (same.flights n) (law.counters (same.ports n) (h n))

theorem Port.Law.steps {n : Slot} {a b : Port × List Flight} (h : Port.Steps n a b) (ha : Q n a.1 a.2) : Q n b.1 b.2 := by
  induction h with
  | refl => exact ha
  | tail _ step ih => exact law.step step ih

/-- The slot whose port is `y`, with the reads `l` in flight, is the only one whose port or reads have changed. -/
theorem Port.Law.turn {n : Slot} {p q : Part} {y : Port} {l : List Flight} (turn : p.Turn n q y l)
    (others : ∀ m, n ≠ m → l.filter (Flight.of m) = p.flights.filter (Flight.of m)) (own : Q n y l) (h : p.Obeys Q) :
    q.Obeys Q := by
  intro m
  by_cases e : n = m
  · subst e
    rw [turn.flights]
    exact law.counters turn.port own
  · rw [turn.flights]
    exact law.flights (others m e) (law.counters (turn.others m e) (h m))

theorem Port.Law.turns {n : Slot} {p q : Part} (turns : p.Turns n q) (h : p.Obeys Q) : q.Obeys Q := by
  obtain ⟨y, l, steps, turn⟩ := turns
  exact law.turn turn (fun m ne => steps.flights_others ne) (law.steps steps (h n)) h

theorem Port.Law.moves {n : Slot} {p q : Part} (moves : p.SlotMoves n q) (h : p.Obeys Q) : q.Obeys Q :=
  moves.keeps (fun _ _ move ha => law.turns move.turns ha) h

theorem Port.Law.settleSlots (old : Engine) {p : Part} (h : p.Obeys Q) : (p.settleSlots old).Obeys Q :=
  law.desks ⟨Part.settleSlots_port old p, fun n => by rw [Part.settleSlots_flights]⟩ h

/-- A port changed on its own, with the slot's reads in flight as they were. -/
theorem Port.Law.modPort {n : Slot} {f : Port → Port} {p : Part} (own : Q n (f p.ports[n]) p.flights) (h : p.Obeys Q) :
    (p.modPort n f).Obeys Q :=
  law.turn ⟨congrArg _ (Part.modPort_self n f p), rfl, fun _ ne => congrArg _ (Part.modPort_ne ne f p)⟩ (fun _ _ => rfl) own h

theorem Port.Law.dropRequests {n : Slot} {f : Port → Port} {p : Part}
    (own : Q n (f p.ports[n]).dropReads (markFlights n false p.flights)) (h : p.Obeys Q) :
    ((p.modPort n f).dropRequests n).Obeys Q := by
  have port : ((p.modPort n f).dropRequests n).ports[n] = (f p.ports[n]).dropReads :=
    (Part.dropRequests_port n _).trans (congrArg Port.dropReads (Part.modPort_self n f p))
  have others : ∀ m, n ≠ m → ((p.modPort n f).dropRequests n).ports[m] = p.ports[m] := fun m ne =>
    (Part.modPort_ne ne Port.dropReads _).trans (Part.modPort_ne ne f p)
  exact law.turn ⟨congrArg _ port, rfl, fun m ne => congrArg _ (others m ne)⟩ (fun _ ne => filter_markFlights ne _ false) own h

/-- The deeds of a slot keep a law of the ports. -/
theorem Port.Law.deeds {n : Slot} {p q : Part} (deeds : p.SlotDeeds n q) (h : p.Obeys Q) : q.Obeys Q := by
  refine deeds.keeps (fun a b deed ha => ?_) h
  cases deed with
  | event r moves => exact law.settleSlots _ (law.moves moves ha)
  | change f change => exact law.modPort (law.change change (ha n)) ha
  | drop waiting => exact law.dropRequests (law.drop waiting (ha n)) ha
  | powerOff fenced => exact law.dropRequests (law.powerOff fenced (ha n)) ha
  | beat v supervised =>
    refine law.desks (Part.desks_report _ _) (law.desks (Part.desks_settleExchange _ _) ?_)
    exact law.modPort (law.beat v a.now supervised (ha n)) ha
  | word k v => exact law.desks (p := a) (.of_eq rfl rfl) ha

/-- The oldest read in flight leaves (R13, R16). -/
theorem Port.Law.complete {p : Part} {f : Flight} {rest : List Flight} (flights : p.flights = f :: rest) (err : Bool)
    (own : ∀ n, f.of n = true → Q n p.ports[n] rest) (h : p.Obeys Q) : (p.complete rest err).Obeys Q := by
  have left : Part.Obeys Q { p with flights := rest } := by
    intro n
    by_cases e : f.of n = true
    · exact own n e
    · refine law.flights ?_ (h n)
      rw [flights, List.filter_cons, if_neg e]
  exact law.desks (p := { p with flights := rest }) (.of_alarms (Part.besidesAlarms_complete rest err p)) left

theorem Port.Law.cardReadDone (err : Bool) {p : Part} (h : p.Obeys Q) : (p.cardReadDone err).Obeys Q := by
  unfold Part.cardReadDone
  split
  · next n t a b data rest flights =>
    have view := Part.besidesAlarms_complete rest err p
    have port : (p.complete rest err).ports[n] = p.ports[n] :=
      congrArg (fun v : Vector Port 12 => v[n]) (Part.ports_of_alarms (p := { p with flights := rest }) view)
    have left : (p.complete rest err).flights = rest := Part.flights_of_alarms (p := { p with flights := rest }) view
    have answered : Q n (p.ports[n].answered t (p.ports[n].answers t a b err data)) rest := law.answer (flights ▸ h n)
    rw [Part.completeCard_eq]
    have others : ∀ m, n ≠ m → rest.filter (Flight.of m) = p.flights.filter (Flight.of m) := by
      intro m ne
      rw [flights, List.filter_cons, if_neg (by simpa [Flight.of] using ne)]
    refine law.turn (y := p.ports[n].answered t (p.ports[n].answers t a b err data)) (l := rest) ⟨?_, left, fun m ne => ?_⟩
      others answered h
    · rw [Part.modPort_self, port]
    · rw [Part.modPort_ne ne]
      exact congrArg (fun v : Vector Port 12 => v[m].besidesCounters) (Part.ports_of_alarms (p := { p with flights := rest }) view)
  · exact h

end law

/-! ### The judgement of a check -/

/-- What the judgement of a check makes of the slot's port (R60 to R62). -/
theorem Part.judgeCheck_judged (n : Slot) (err : Bool) (data : List Byte) (p : Part) :
    ∃ y, p.ports[n].Judged y ∧ (p.judgeCheck n err data).ports[n].besidesCounters = y.besidesCounters := by
  have short : (readIdentity data).serial.length ≤ 8 := List.length_take_le 8 _
  have passed : (p.passCheck n data).ports[n] = { p.ports[n] with
      check := none, identity := some (readIdentity data), identityShown := false, admitResult := .passed } :=
    Part.passCheck_port n data p
  have waits : ((p.passCheck n data).awaitAdmission n).ports[n] = { (({ p.ports[n] with
      check := none, identity := some (readIdentity data), identityShown := false, admitResult := .passed } : Port).restated
        .admitting) with stateTimer := some p.now } := by
    unfold Part.awaitAdmission
    rw [Part.modPort_self, Part.setState_port, passed, Part.passCheck_now]
  cases err with
  | true =>
    refine ⟨_, .failed .memory, ?_⟩
    rw [Part.judgeCheck_of_error, Part.modPort_self, Part.endCheck_port]
  | false =>
    cases fault : identityFault p.plan.slots[n] (readIdentity data) with
    | some why =>
      refine ⟨_, .failed why, ?_⟩
      rw [Part.judgeCheck_of_fault fault, Part.modPort_self, Part.endCheck_port]
    | none =>
      rw [Part.judgeCheck_of_pass fault, Part.enterAdmitting_eq]
      split
      · refine ⟨_, .admitted (readIdentity data) short ((p.passCheck n data).awaitAdmission n).plan.slots[n].key
          ((p.passCheck n data).awaitAdmission n).now, ?_⟩
        rw [Part.admitSlot_port (by rw [waits]; nofun), waits]
        rfl
      · exact ⟨_, .passed (readIdentity data) short p.now, congrArg _ waits⟩

theorem Port.Law.checkReadDone {Q : Slot → Port → List Flight → Prop} (law : Port.Law Q) (err : Bool) {p : Part}
    (h : p.Obeys Q) : (p.checkReadDone err).Obeys Q := by
  cases flights : p.flights with
  | nil =>
    unfold Part.checkReadDone
    rw [flights]
    exact h
  | cons f rest =>
    obtain ⟨purpose, data⟩ := f
    cases purpose with
    | check n live =>
      rw [Part.checkReadDone_of_check flights]
      have own : ∀ m, Flight.of m { purpose := .check n live, data := data } = true → m = n := fun m e => (eq_of_beq e).symm
      cases live with
      | false =>
        rw [if_neg Bool.false_ne_true]
        refine law.complete flights err (fun m e => ?_) h
        rw [own m e]
        exact law.stale (flights ▸ h n)
      | true =>
        rw [if_pos rfl]
        obtain ⟨y, judged, port⟩ := (p.complete rest err).judgeCheck_judged n err data
        have view := Part.besidesAlarms_complete rest err p
        have ports := Part.ports_of_alarms (p := { p with flights := rest }) view
        have left : (p.complete rest err).flights = rest := Part.flights_of_alarms (p := { p with flights := rest }) view
        have same : (p.complete rest err).ports[n] = p.ports[n] := congrArg (fun v : Vector Port 12 => v[n]) ports
        rw [same] at judged
        have other : ∀ m, n ≠ m → rest.filter (Flight.of m) = p.flights.filter (Flight.of m) := by
          intro m ne
          rw [flights, List.filter_cons, if_neg (by simpa [Flight.of] using ne)]
        refine law.settleSlots _ (law.turn (y := y) (l := rest) ⟨port, ?_, fun m ne => ?_⟩ other (law.judge (flights ▸ h n) judged) h)
        · rw [Part.judgeCheck_flights, left]
        · rw [Part.port_of_besidesAdmission ne (Part.besidesAdmission_judgeCheck n err data _)]
          exact congrArg (fun v : Vector Port 12 => v[m].besidesCounters) ports
    | _ =>
      unfold Part.checkReadDone
      rw [flights]
      exact h

end Sys2Proof.Machine
end


section
/-! PROOFS. Every step keeps a law of the slot ports: the events that leave the ports alone, the ticks, the grants, the activation
and the resets. -/
namespace Sys2Proof.Machine

/-! ### Events of the exchange -/

theorem Part.desks_modRing (r : RingNo) (f : Ring → Ring) (p : Part) : p.SameDesks (p.modRing r f) := .of_eq rfl rfl

theorem Part.desks_retire (r : RingNo) (k : Nat) (p : Part) : p.SameDesks (p.retire r k) := by
  refine .of_eq (Part.retire_ports r k p) ?_
  unfold Part.retire
  dsimp only
  rw [Part.flights_of_exchange (Part.besidesExchange_countBatch r _), Part.flights_of_exchange (Part.besidesExchange_setTake _ _ _),
    Part.flights_of_exchange (Part.besidesExchange_orphanCopy r _), Part.flights_of_exchange (Part.besidesExchange_writeIndex _ _ _)]
  rfl

theorem Part.desks_takeFrame (r : RingNo) (h : FrameHeader) (p : Part) : p.SameDesks (p.takeFrame r h) := by
  have charged : p.SameDesks (p.chargeTake r h) := .of_exchange (p.sameRings_chargeTake r h).2
  rw [Part.takeFrame_eq]
  split
  · exact charged.trans (Part.desks_retire _ _ _)
  · exact charged.trans (.of_exchange (Part.besidesExchange_setTake _ _ _))

theorem Part.desks_abandonRing (r : RingNo) (p : Part) : p.SameDesks (p.abandonRing r) := by
  unfold Part.abandonRing
  refine (Part.desks_modRing r (fun x => { x with consumer := x.producer }) p).trans (.of_exchange ?_)
  rw [Part.besidesExchange_setTake, Part.besidesExchange_modCounters, Part.besidesExchange_writeIndex]

theorem Part.desks_headerDone (r : RingNo) (err : Bool) (data : List Byte) (p : Part) : p.SameDesks (p.headerDone r err data) := by
  have waiting : p.SameDesks (p.setTake r .waiting) := .of_exchange (Part.besidesExchange_setTake _ _ _)
  unfold Part.headerDone
  dsimp only
  split
  · exact .refl p
  · split
    · exact waiting
    · split
      · rw [Part.malformedHeader_eq]
        exact (Part.desks_abandonRing r p).trans (.of_alarms (Part.besidesAlarms_raiseEvent _ _))
      · split
        · exact waiting
        · exact Part.desks_takeFrame _ _ _

theorem Part.desks_reviewHigh (r : RingNo) (p : Part) : p.SameDesks (p.reviewHigh r) := by
  unfold Part.reviewHigh
  split
  · exact .refl p
  · exact .of_eq rfl rfl

theorem Part.desks_deliver (c : Copy) (p : Part) : p.SameDesks (p.deliver c) := by
  cases head : p.headRecord c.ring with
  | some h =>
    rw [Part.deliver_of_head head]
    have stowed : p.SameDesks (p.stowed c h) :=
      (Part.desks_modRing (ingressRing c.dest (ringClass c.ring)) (fun _ => p.filled c h) p).trans
        (.of_exchange (Part.besidesExchange_stowed c h p))
    exact stowed.trans (.of_exchange (Part.besidesExchange_keepOthers (Part.egress_of_headRecord head) h _))
  | none =>
    unfold Part.deliver
    rw [head]
    exact .of_exchange (Part.besidesExchange_endCopy p)

theorem Part.desks_choose (p : Part) : p.SameDesks p.choose := by
  unfold Part.choose
  split
  · refine .of_exchange ((Part.besidesExchange_settleExchange _ _).trans ((Part.besidesExchange_serveHead _ _).trans ?_))
    exact Part.besidesExchange_modEngine _ _ rfl
  · exact .refl p

theorem Part.desks_expireHead (r : RingNo) (p : Part) : p.SameDesks (p.expireHead r) := by
  unfold Part.expireHead
  split
  · next h head =>
    have kept : p.SameDesks (p.keepDests r h .holdExpired fun _ => false) :=
      .of_exchange (Part.besidesExchange_keepDests (Part.egress_of_headRecord head) h _ _ p)
    dsimp only
    split
    · split
      · exact kept.trans (.of_exchange (Part.besidesExchange_endBatch _ _))
      · exact kept
    · exact kept
  · exact .refl p

theorem Part.desks_resetRing (why : Discard) (r : RingNo) (p : Part) : p.SameDesks (p.resetRing why r) := by
  refine ⟨Part.resetRing_port why r p, fun n => ?_⟩
  rw [Part.resetRing_eq, Part.flights_of_exchange (Part.besidesExchange_writeIndex _ _ _)]
  show (p.cleared why r).flights.filter _ = _
  rw [Part.flights_of_exchange (Part.besidesExchange_cleared why r p)]

theorem Part.SameDesks.forEach {n : Nat} {f : Fin n → Part → Part} (same : ∀ i (q : Part), q.SameDesks (f i q)) (p : Part) :
    p.SameDesks (forEach n f p) :=
  forEach_invariant p.SameDesks n f (fun i q h => h.trans (same i q)) p (.refl p)

theorem Part.desks_modLoader (f : Loader → Loader) (p : Part) : p.SameDesks (p.modLoader f) := .of_eq rfl rfl

theorem filter_append_foreign {n : Slot} {f : Flight} (foreign : f.of n = false) (l : List Flight) :
    (l ++ [f]).filter (Flight.of n) = l.filter (Flight.of n) := by
  rw [List.filter_append, List.filter_cons, if_neg (ne_true_of_eq_false foreign), List.filter_nil, List.append_nil]

theorem Part.desks_passPeriod (p : Part) : p.SameDesks p.passPeriod :=
  .of_eq (Part.passPeriod_ports p) (congrArg Part.flights (Part.besidesExchange_passPeriod p) :)

section law
variable {Q : Slot → Port → List Flight → Prop} (law : Port.Law Q)
include law

theorem Port.Law.ringFault (n : Slot) {p : Part} (h : p.Obeys Q) : (p.ringFault n).Obeys Q := by
  unfold Part.ringFault
  have step : Port.Step n p.ports[n] p.flights { p.ports[n] with ringFaults := min 65535 (p.ports[n].ringFaults + 1) } p.flights :=
    .note _ rfl
  exact law.desks (.of_alarms (Part.besidesAlarms_raiseEvent _ _)) (law.modPort (law.step step (h n)) h)

theorem Port.Law.judgeProducer (r : RingNo) (v : BitVec 16) {p : Part} (h : p.Obeys Q) : (p.judgeProducer r v).Obeys Q := by
  unfold Part.judgeProducer
  split
  · exact h
  · split
    · refine law.desks (Part.desks_settleExchange _ _) (law.desks ?_ h)
      exact (Part.desks_modRing r (fun x => { x with producer := v }) p).trans (.of_exchange (Part.besidesExchange_takeProducer r v p))
    · exact law.ringFault _ h

theorem Port.Law.judgeConsumer (r : RingNo) (v : BitVec 16) {p : Part} (h : p.Obeys Q) : (p.judgeConsumer r v).Obeys Q := by
  unfold Part.judgeConsumer
  split
  · exact h
  · split
    · refine law.desks (Part.desks_report _ _) (law.desks (Part.desks_settleExchange _ _) (law.desks ?_ h))
      exact (Part.desks_modRing r _ p).trans (Part.desks_reviewHigh r _)
    · exact law.ringFault _ h

theorem Port.Law.headerReadDone (err : Bool) {p : Part} (h : p.Obeys Q) : (p.headerReadDone err).Obeys Q := by
  unfold Part.headerReadDone
  split
  · next r data rest flights =>
    exact law.desks (Part.desks_settleExchange _ _) (law.desks (Part.desks_headerDone _ _ _ _) (law.complete flights err nofun h))
  · exact h

theorem Port.Law.copyReadDone (err : Bool) {p : Part} (h : p.Obeys Q) : (p.copyReadDone err).Obeys Q := by
  unfold Part.copyReadDone
  split
  · next data rest c flights _ =>
    have completed := law.complete flights err nofun h
    refine law.desks (Part.desks_settleExchange _ _) ?_
    split
    · exact law.desks (.of_exchange (Part.besidesExchange_copyReadError _ _)) completed
    · exact law.desks (.of_exchange (Part.besidesExchange_copyBlockRead _ _ _)) completed
  · next flights _ => exact law.complete flights err nofun h
  · exact h

/-! ### Plan reads, ticks and observations -/

theorem Port.Law.planReadDone (err : Bool) {p : Part} (h : p.Obeys Q) : (p.planReadDone err).Obeys Q := by
  have rejected : ∀ (sec : PlanSection) (entry : Nat) (q : Part), q.SameDesks (q.rejectPlan sec entry) := fun sec entry q =>
    (Part.SameDesks.of_eq (p := q) (q := q.rejected sec entry) rfl rfl).trans (.of_alarms (Part.besidesAlarms_raiseEvent _ _))
  unfold Part.planReadDone
  split
  · next data rest flights =>
    have completed := law.complete flights err nofun h
    generalize p.complete rest err = q at completed ⊢
    dsimp only
    split
    · exact law.desks (rejected _ _ _) completed
    · refine law.desks ?_ completed
      by_cases more : q.loader.block + 1 < 65
      · rw [Part.planBlockRead_of_more more]
        exact Part.desks_modLoader _ q
      · rw [Part.planBlockRead_of_last (Nat.not_lt.mp more)]
        refine (Part.desks_modLoader (fun l => l.took data true) q).trans ?_
        generalize q.modLoader (fun l => l.took data true) = u
        cases fault : structuralFault u.loader.image (u.loader.generation.getD 0) with
        | some found =>
          rw [Part.validatePlan_of_fault fault]
          exact rejected _ _ u
        | none =>
          rw [Part.validatePlan_of_sound fault]
          exact (Part.desks_modLoader _ u).trans (Part.desks_settleExchange _ _)
  · exact h

theorem Port.Law.emitTick (k : TickKind) (n : Nat) {p : Part} (h : p.Obeys Q) : (p.emitTick k n).Obeys Q := by
  have view := Part.emitTick_view k n p
  have flights : (p.emitTick k n).flights = p.flights := by
    rw [Part.flights_of_alarms view]
    split <;> rfl
  intro m
  have port : (p.emitTick k n).ports[m] = if p.plan.slots[m].strobeKind = some k then
      { p.ports[m] with strobe := p.ports[m].strobe.tick p.plan.slots[m] p.osc } else p.ports[m] :=
    (congrArg (fun v : Vector Port 12 => v[m]) (Part.emitTick_tables k n p).2.1).trans (getElem_mapTable _ _ _ _)
  rw [port, flights]
  split
  · exact law.tick _ _ (h m)
  · exact h m

theorem Port.Law.stepTicks {p : Part} (h : p.Obeys Q) : p.stepTicks.Obeys Q := by
  unfold Part.stepTicks
  refine foldl_invariant (Part.Obeys Q) _ (fun q k hq => ?_) tickKinds p h
  dsimp only
  split
  · exact hq
  · exact law.emitTick _ _ hq

theorem Port.Law.referencePulse (r : RefId) {p : Part} (h : p.Obeys Q) : (p.referencePulse r).Obeys Q := by
  have clock : ∀ (k : Clock) (q : Part), q.Obeys Q → (q.withClock k).Obeys Q := fun k q hq => hq
  have stepped : ∀ (e : Int) (q : Part), q.Obeys Q → (q.phaseStep e).Obeys Q := by
    intro e q hq
    have one : (q.stepped e).Obeys Q :=
      law.desks (p := q.withClock (q.clock.step e)) (.of_alarms (q.besidesAlarms_stepped e)) (clock _ _ hq)
    rw [Part.phaseStep_eq]
    split
    · exact law.stepTicks one
    · exact one
  have disciplined : ∀ (e : Int) (q : Part), q.Obeys Q → (q.disciplined e).Obeys Q := by
    intro e q hq
    unfold Part.disciplined
    split
    · exact clock _ _ hq
    · split
      · exact stepped e q hq
      · exact clock _ _ hq
    · exact hq
    · exact hq
  cases usable : p.usable r with
  | false => rwa [Part.referencePulse_of_unusable usable]
  | true =>
    rw [Part.referencePulse_of_usable usable]
    refine law.desks (Part.desks_report _ _) (law.desks (Part.desks_settleExchange _ _) ?_)
    split
    · rw [Part.discipline_eq]
      exact disciplined _ _ (clock _ _ (clock (p.pulseTaken r) p h))
    · exact clock (p.pulseTaken r) p h

theorem Port.Law.observe (k : WatchedWord) (v : Word) {p : Part} (h : p.Obeys Q) : (p.observe k v).Obeys Q := by
  have word : (p.setWatched k v).Obeys Q := law.desks (p := p) (.of_eq rfl rfl) h
  cases k with
  | egressProducer n c => exact law.judgeProducer _ _ word
  | ingressConsumer n c => exact law.judgeConsumer _ _ word
  | heartbeat n => exact law.deeds (Part.deeds_observeHeartbeat n v p) h
  | admitWord n => exact law.deeds (Part.deeds_observeAdmit n v p) h
  | apply => exact h
  | logConsumer =>
    show (p.observeLogConsumer v).Obeys Q
    unfold Part.observeLogConsumer
    dsimp only
    split <;> exact h
  | cutoff => exact law.desks (.of_alarms (Part.besidesAlarms_setCutoff _ _)) word
  | seconds => exact h
  | slotCommand n => exact law.deeds (Part.deeds_observeSlotCommand n v p) h

theorem Port.Law.observeWrite (start : Nat) (data : List Byte) {p : Part} (h : p.Obeys Q) : (p.observeWrite start data).Obeys Q := by
  rw [Part.observeWrite_eq]
  split
  · exact h
  · refine law.desks (.of_exchange (Part.besidesExchange_endInstant _ _)) ?_
    have words : (Part.observeWords (observedWords start data.length) start data
        (p.modEngine fun e => { e with before := some p.engine.instant, handing := true })).Obeys Q :=
      foldl_invariant (Part.Obeys Q) _ (fun q x hq => law.observe x.2 _ hq) _ _ h
    exact words

/-! ### Grants -/

theorem Port.Law.grantRequest {n : Slot} {q : Request} {rest : List Request} {s : State}
    (queue : s.part.ports[n].queue = q :: rest) (h : s.part.Obeys Q) : (s.grantRequest n q rest).part.Obeys Q := by
  have own : ∀ m, n ≠ m → ∀ data,
      (s.part.flights ++ [({ purpose := .card n q.tag false false, data := data } : Flight)]).filter (Flight.of m)
        = s.part.flights.filter (Flight.of m) := fun m ne data => filter_append_foreign (by simpa [Flight.of] using ne) _
  unfold State.grantRequest
  dsimp only
  cases body : q.body with
  | read len =>
    have isRead : q.isRead = true := by rw [Request.isRead, body]
    exact law.turn ⟨congrArg _ (Part.modPort_self n _ s.part), rfl, fun m ne => congrArg _ (Part.modPort_ne ne _ s.part)⟩
      (fun m ne => own m ne _) (law.grantRead queue isRead (h n)) h
  | write data =>
    have isWrite : q.isRead = false := by rw [Request.isRead, body]
    refine law.observeWrite _ _ ?_
    have port : (((s.part.modPort n fun x => x.served rest).modPort n fun x => { x with tags := x.tags.filter (· != q.tag) })).ports[n]
        = { s.part.ports[n].served rest with tags := s.part.ports[n].tags.filter (· != q.tag) } := by
      rw [Part.modPort_self, Part.modPort_self]
      rfl
    exact law.turn ⟨congrArg _ port, rfl, fun m ne => congrArg _ ((Part.modPort_ne ne _ _).trans (Part.modPort_ne ne _ s.part))⟩
      (fun _ _ => rfl) (law.grantWrite queue isWrite (h n)) h

/-- The admission check read of a slot is granted (R59). -/
theorem Port.Law.grantCheck_obeys {n : Slot} {s : State} (h : s.part.Obeys Q)
    (waits : (s.part.ports[n].check.map fun k => !k.inFlight).getD false = true) :
    ((s.launch (.check n true) (admitBase n) 12).modPart fun p => p.modPort n fun x =>
      { x with check := x.check.map fun k => { k with inFlight := true } }).part.Obeys Q := by
  cases check : s.part.ports[n].check with
  | none =>
    rw [check] at waits
    cases waits
  | some k =>
    rw [check] at waits
    have free : k.inFlight = false := by simpa using waits
    refine law.turn (n := n) (p := s.part) (y := { s.part.ports[n] with check := some { k with inFlight := true } })
      (l := s.part.flights ++ [{ purpose := .check n true, data := s.memory.read (admitBase n) 12 }])
      ⟨?_, rfl, fun m ne => congrArg _ (Part.modPort_ne ne _ _)⟩ (fun m ne => ?_) (law.grantCheck check free (h n)) h
    · rw [State.modPart_part, Part.modPort_self]
      show ({ s.part.ports[n] with check := s.part.ports[n].check.map _ } : Port).besidesCounters = _
      rw [check]
      rfl
    · have foreign : Flight.of m { purpose := .check n true, data := s.memory.read (admitBase n) 12 } = false := by
        simpa [Flight.of] using ne
      exact filter_append_foreign foreign _

theorem Port.Law.grantCard (n : Slot) {s : State} (h : s.part.Obeys Q) : (s.grantCard n).part.Obeys Q := by
  have chosen : (s.modPart fun p => { p with arbiter := { lastGroup := .card, lastSlot := n } }).part.Obeys Q := h
  unfold State.grantCard
  dsimp only
  generalize (s.modPart fun p => { p with arbiter := { lastGroup := .card, lastSlot := n } }) = u at chosen ⊢
  split
  · next waits => exact law.grantCheck_obeys chosen waits
  · split
    · next queue => exact law.grantRequest queue chosen
    · exact chosen

theorem Port.Law.launch {purpose : Purpose} (foreign : ∀ n data, Flight.of n { purpose := purpose, data := data } = false) (a len : Nat)
    {s : State} (h : s.part.Obeys Q) : (s.launch purpose a len).part.Obeys Q := fun n =>
  law.flights (filter_append_foreign (foreign n _) _) (h n)

omit law in
theorem Part.obeys_grantWriter {s : State} (h : s.part.Obeys Q) : s.grantWriter.part.Obeys Q := by
  unfold State.grantWriter
  dsimp only
  split
  · exact h
  · split <;> exact h
  · exact h

theorem Port.Law.grantEngine {s : State} (h : s.part.Obeys Q) : s.grantEngine.part.Obeys Q := by
  have free : (s.modPart fun p => p.modEngine fun e => { e with waiting := none }).part.Obeys Q := h
  have settled : ∀ (old : Engine) (q : Part), q.Obeys Q → (q.settleExchange old).Obeys Q := fun old q =>
    law.desks (Part.desks_settleExchange old q)
  unfold State.grantEngine
  dsimp only
  generalize s.modPart (fun p => p.modEngine fun e => { e with waiting := none }) = u at free ⊢
  split
  · rw [State.modPart_part]
    exact settled _ _ free
  · rw [State.modPart_part]
    exact settled _ _ (law.launch (fun _ _ => rfl) _ _ free)
  · rw [State.modPart_part]
    exact settled _ _ (law.launch (fun _ _ => rfl) _ _ free)
  · rw [State.modPart_part]
    exact settled _ _ (law.desks (.of_exchange (Part.besidesExchange_copyBlockWritten _ _)) free)
  · rw [State.modPart_part]
    exact law.desks (Part.desks_report _ _) (settled _ _ (law.desks (Part.desks_deliver _ _) free))
  · exact free

theorem Port.Law.grant {s : State} (h : s.part.Obeys Q) : s.grant.part.Obeys Q := by
  unfold State.grant
  split
  · exact law.grantCard _ h
  · exact Part.obeys_grantWriter (s := s.internalGranted) h
  · exact law.grantEngine (s := s.internalGranted) h
  · exact law.launch (s := s.internalGranted) (fun _ _ => rfl) _ _ h
  · exact h

end law

end Sys2Proof.Machine
end


section
/-! PROOFS. Every step keeps a law of the slot ports: the activation, the resets and the step as a whole. -/
namespace Sys2Proof.Machine

/-! ### The activation -/

theorem Part.desks_endSecondTick (p : Part) : p.SameDesks p.endSecondTick := by
  have ended : ∀ q : Part, q.SameDesks q.tickOver := fun _ => .of_eq rfl rfl
  rw [Part.endSecondTick_eq]
  exact (Part.SameDesks.of_alarms (Part.besidesAlarms_endHolds p)).trans (ended _)

theorem Part.desks_replan (new : Plan) (p : Part) : p.SameDesks (p.replan new) := .of_eq rfl rfl

theorem Part.desks_replanRings (old : Plan) (p : Part) : p.SameDesks (p.replanRings old) := by
  have reset : p.SameDesks (p.resetChangedRings old) := by
    refine Part.SameDesks.forEach (fun r q => ?_) p
    split
    · exact Part.desks_resetRing _ _ _
    · exact .refl q
  have dropped : ∀ q : Part, q.SameDesks q.dropLostDests := by
    refine fun q => Part.SameDesks.forEach (fun r q => ?_) q
    split
    · next head => exact .of_exchange (Part.besidesExchange_keepDests (Part.egress_of_headRecord head) _ _ _ _)
    · exact .refl q
  have reviewed : ∀ q : Part, q.SameDesks q.reviewAllHigh := fun q => Part.SameDesks.forEach Part.desks_reviewHigh q
  exact (reset.trans (dropped _)).trans (reviewed _)

theorem Part.desks_replanTicks (old new : Plan) (p : Part) : p.SameDesks (p.replanTicks old new) := by
  have retimed : ∀ q : Part, q.SameDesks (q.retimeProg old) := by
    intro q
    unfold Part.retimeProg
    split
    · exact .refl q
    · exact .of_eq rfl rfl
  exact (Part.SameDesks.of_eq (p := p) (q := p.closeGates) rfl rfl).trans ((retimed _).trans (.of_eq rfl rfl))

theorem Part.activateRef_desks (r : RefId) (p : Part) : (p.activateRef r).ports = p.ports ∧ (p.activateRef r).flights = p.flights := by
  unfold Part.activateRef
  dsimp only
  split
  · exact ⟨rfl, rfl⟩
  · split <;> exact ⟨rfl, rfl⟩

theorem Part.desks_activateClock (p : Part) : p.SameDesks p.activateClock := by
  obtain ⟨ports, flights⟩ := Part.activateRef_desks .a p
  obtain ⟨ports', flights'⟩ := Part.activateRef_desks .b (p.activateRef .a)
  unfold Part.activateClock
  dsimp only
  split <;> exact .of_eq (ports'.trans ports) (flights'.trans flights)

theorem Part.desks_expireHeads (p : Part) : p.SameDesks p.expireHeads := by
  refine Part.SameDesks.forEach (fun r q => ?_) p
  split
  · exact Part.desks_expireHead _ _
  · exact .refl q

theorem Part.desks_activateAlarms (p : Part) : p.SameDesks p.activateAlarms := by
  unfold Part.activateAlarms
  refine .of_alarms ?_
  rw [Part.besidesAlarms_mark, Part.besidesAlarms_expirePoints, Part.besidesAlarms_reintegrate]

section law
variable {Q : Slot → Port → List Flight → Prop} (law : Port.Law Q)
include law

theorem Port.Law.expireSlot (n : Slot) {p : Part} (h : p.Obeys Q) : (p.expireSlot n).Obeys Q := by
  have presence : (p.expirePresence n).Obeys Q := by
    unfold Part.expirePresence
    split
    · exact law.turns (Part.turns_presenceIsFound n p) h
    · split
      · exact law.turns (Part.turns_presenceIsLost n p) h
      · exact h
  have state : ∀ q : Part, q.Obeys Q → (q.expireState n).Obeys Q := by
    intro q hq
    unfold Part.expireState
    split
    · exact law.moves (Part.moves_powerFault n _ q) hq
    · split
      · exact law.moves (Part.moves_powerFault n _ q) hq
      · split
        · next due => exact law.turns (Part.turns_admitSlot (SlotState.eq_of_due due)) hq
        · exact hq
  have heartbeat : ∀ q : Part, q.Obeys Q → (q.expireHeartbeat n).Obeys Q := by
    intro q hq
    unfold Part.expireHeartbeat
    split
    · exact law.moves (Part.moves_loseHeartbeat n _ q) hq
    · exact hq
  rw [Part.expireSlot_eq]
  exact heartbeat _ (state _ presence)

theorem Port.Law.activateSlots (old : Plan) {p : Part} (h : p.Obeys Q) : (p.activateSlots old).Obeys Q := by
  unfold Part.activateSlots
  dsimp only
  refine forEach_invariant (Part.Obeys Q) 12 _ (fun n q hq => law.expireSlot n hq) _ ?_
  refine forEach_invariant (Part.Obeys Q) 12 _ (fun n q hq => ?_) p h
  exact law.turns (Part.turns_rekey old n _) (law.turns (Part.turns_compareSlot n q) hq)

theorem Port.Law.activate (new : Plan) {p : Part} (h : p.Obeys Q) : (p.activate new).Obeys Q := by
  rw [Part.activate_eq]
  refine law.desks (Part.desks_activateAlarms _) (law.desks (Part.desks_settleExchange _ _) ?_)
  refine law.desks (Part.desks_expireHeads _) (law.desks (.of_exchange (Part.besidesExchange_sweepDests _)) ?_)
  refine law.desks (Part.desks_activateClock _) (law.activateSlots _ ?_)
  refine law.desks (Part.desks_replanTicks _ _ _) (law.desks (Part.desks_replanRings _ _) (law.desks (Part.desks_replan _ _) ?_))
  exact law.desks (Part.desks_endSecondTick p) h

/-! ### Resets -/

theorem Port.Law.underReset (kind : ResetKind) (control : ResetControl) {p : Part} (h : p.Obeys Q) :
    (p.underReset kind control).Obeys Q := by
  intro n
  have port : (p.underReset kind control).ports[n] = p.ports[n].held (kind == .resetPin && p.keepsPower n) :=
    getElem_mapTable _ _ _ _
  rw [port]
  exact law.held (h n)

theorem Port.Law.startIfOver {p : Part} (h : p.Obeys Q) : p.startIfOver.Obeys Q := by
  unfold Part.startIfOver
  split
  · next kind _ =>
    split
    · have started : (p.started kind).Obeys Q := by
        intro n
        have port : (p.started kind).ports[n] = p.ports[n].start := getElem_mapTable _ _ _ _
        have same : p.ports[n].start.besidesSigns = p.ports[n].besidesSigns := by
          rw [Port.start_eq]
          rfl
        rw [port]
        exact law.step (Port.Step.note _ same) (h n)
      refine law.desks (.of_alarms (Part.besidesAlarms_start kind p)) ?_
      split
      · exact law.desks (Part.desks_modLoader _ _) started
      · exact started
    · exact h
  · exact h

/-! ### The step -/

theorem Port.Law.after {c : Instr} (ne : c ≠ .accessGrant) {p : Part} (h : p.Obeys Q) : (p.after c).Obeys Q := by
  cases slot : commandSlot c with
  | some n => exact law.deeds (Part.deeds_after slot p) h
  | none =>
    have running : ∀ f : Part → Part, (f p).Obeys Q → (p.whileRunning f).Obeys Q := fun f hf =>
      Part.whileRunning_keeps (fun _ _ => hf) h
    have due : ∀ (d : Part → Bool) (f : Part → Part), (f p).Obeys Q → (p.whenDue d f).Obeys Q := fun d f hf =>
      Part.whenDue_keeps (fun _ _ _ => hf) h
    cases c <;> simp only [commandSlot, reduceCtorEq] at slot
    case accessGrant => exact absurd rfl ne
    case apply v => exact running _ (law.observe .apply v h)
    case logConsumer v => exact running _ (law.observe .logConsumer v h)
    case cutoff v => exact running _ (law.observe .cutoff v h)
    case seconds v => exact running _ (law.observe .seconds v h)
    case egressProducer n c v => exact running _ (law.observe (.egressProducer n c) v h)
    case ingressConsumer n c v => exact running _ (law.observe (.ingressConsumer n c) v h)
    case readCompletion err => exact running _ (law.cardReadDone err h)
    case admissionCheckReadComplete err => exact running _ (law.checkReadDone err h)
    case planReadComplete err => exact running _ (law.planReadDone err h)
    case activation =>
      rw [Part.after_activation]
      refine due _ _ ?_
      unfold Part.activateStaged
      split
      · exact law.activate _ h
      · exact h
    case headerReadComplete err => exact running _ (law.headerReadDone err h)
    case serviceChoice =>
      rw [Part.after_serviceChoice]
      exact due _ _ (law.desks (Part.desks_choose p) h)
    case copyReadComplete err => exact running _ (law.copyReadDone err h)
    case holdExpired n c =>
      rw [Part.after_holdExpired]
      exact due _ _ (law.desks (Part.desks_settleExchange _ _) (law.desks (Part.desks_expireHead _ p) h))
    case referencePulse r => exact running _ (law.referencePulse r h)
    case miss r =>
      rw [Part.after_miss]
      refine due _ _ (law.desks (Part.desks_report _ _) ?_)
      exact h
    case holdoverLimit =>
      rw [Part.after_holdoverLimit]
      exact due _ _ (law.desks (Part.desks_report _ _) h)
    case secondTurnover =>
      rw [Part.after_secondTurnover]
      split
      · refine law.desks (.of_eq (Part.turnover_ports p) ?_) h
        have passed : p.passPeriod.flights = p.flights := (congrArg Part.flights (Part.besidesExchange_passPeriod p) :)
        unfold Part.turnover
        dsimp only
        split <;> exact passed
      · exact h
    case tick k =>
      rw [Part.after_tick]
      exact due _ _ (law.desks (Part.desks_settleExchange _ _) (law.emitTick k 1 h))
    case gateOpenDelayExpiry g =>
      rw [Part.after_gateOpenDelayExpiry]
      exact due _ _ (law.desks (Part.desks_settleExchange _ _) h)
    case gateWindowExpiry g =>
      rw [Part.after_gateWindowExpiry]
      exact due _ _ (law.desks (Part.desks_settleExchange _ _) h)
    case envChange i l =>
      rw [Part.after_envChange]
      exact Part.whileRunning_keeps (P := Part.Obeys Q) (fun _ hp => law.desks (Part.desks_report _ _) hp) h
    case raiseTimerExpiry i =>
      rw [Part.after_raiseTimerExpiry]
      exact due _ _ (law.desks (.of_alarms (Part.besidesAlarms_raisePoint _ _)) h)
    case clearTimerExpiry i =>
      rw [Part.after_clearTimerExpiry]
      exact due _ _ (law.desks (.of_alarms (Part.besidesAlarms_clearPoint _ _)) h)
    case eventHoldExpiry i =>
      rw [Part.after_eventHoldExpiry]
      exact due _ _ (law.desks (.of_alarms (Part.besidesAlarms_endHold _ _)) h)
    case statusRecordBegin =>
      rw [Part.after_statusRecordBegin]
      refine due _ _ ?_
      unfold Part.beginLowest
      split <;> exact h
    case powerOnReset => exact law.underReset _ _ h
    case supplyFall => exact h
    case supplyReturn => exact h
    case supplyDipReset =>
      rw [Part.after_supplyDipReset]
      split
      · exact law.underReset _ _ h
      · exact h
    case resetPinAssert =>
      rw [Part.after_resetPinAssert]
      split
      · exact law.underReset _ _ h
      · exact h
    case resetEnd => exact law.startIfOver (p := p.releasePin) h

/-- Every step keeps a law of the slot ports. -/
theorem Part.obeys_step {s t : State} (h : s.part.Obeys Q) (run : step s = .next t) : t.part.Obeys Q := by
  refine step_keeps (fun c p ne hp => law.after ne hp) (fun s _ hs => law.grant hs) (fun n p hp => ?_) (fun p hp => ?_) h run
  · exact law.modPort (law.change (plan := p.plan) .send (hp n)) hp
  · refine law.desks ?_ hp
    have passed := Part.desks_passPeriod p
    unfold Part.advance
    dsimp only
    split
    · exact passed.trans (.of_eq rfl rfl)
    · exact passed

end law

end Sys2Proof.Machine
end


section
/-! PROOFS. Three laws of the slot ports: slot 0 is not FENCED (R32, R78), an identity's serial number is at most 8 bytes (R54, R60),
and the service of an ADMITTED card is given to no other (R72, R75, R77, R162). -/
namespace Sys2Proof.Machine

/-- What a step, a change or a judgement makes of a port, when only the signs of it are to be compared. -/
theorem Port.state_of_besidesSigns {x y : Port} (h : y.besidesSigns = x.besidesSigns) : y.state = x.state :=
  (congrArg Port.state h :)

theorem Port.identity_of_besidesSigns {x y : Port} (h : y.besidesSigns = x.besidesSigns) : y.identity = x.identity :=
  (congrArg Port.identity h :)

theorem Port.identity_of_besidesCounters {x y : Port} (h : y.besidesCounters = x.besidesCounters) : y.identity = x.identity :=
  (congrArg Port.identity h :)

@[simp] theorem Port.served_state (x : Port) (rest : List Request) : (x.served rest).state = x.state := rfl
@[simp] theorem Port.served_identity (x : Port) (rest : List Request) : (x.served rest).identity = x.identity := rfl

/-! ### Slot 0 is not FENCED -/

/-- Slot 0 is not FENCED; other slots may be. -/
def Port.Unfenced (n : Slot) (x : Port) (_ : List Flight) : Prop := n = 0 → x.state ≠ .fenced

/-- A port that keeps its state, or takes one other than FENCED, stays as the law asks. -/
theorem Port.Unfenced.of_state {n : Slot} {x y : Port} {l k : List Flight} (h : Port.Unfenced n x l)
    (state : y.state = x.state ∨ y.state ≠ .fenced) : Port.Unfenced n y k := by
  intro zero
  rcases state with same | other
  · rw [same]
    exact h zero
  · exact other

theorem Port.left_state_ne (x : Port) (n : Slot) (cycle : Bool) (now : Nat) : (x.left n cycle now).state ≠ .fenced := by
  unfold Port.left
  dsimp only
  split
  · nofun
  · split
    · unfold Port.powered
      dsimp only
      split <;> nofun
    · nofun

theorem Port.powered_state_ne (x : Port) (now : Nat) : (x.powered now).state ≠ .fenced := by
  unfold Port.powered
  dsimp only
  split <;> nofun

theorem Port.retrained_state (x : Port) (now : Nat) : (x.retrained now).state = .training := by
  unfold Port.retrained
  dsimp only
  split <;> rfl

theorem Port.released_state_ne (x : Port) (n : Slot) (enabled : Bool) (now : Nat) :
    (x.released n enabled now).state ≠ .fenced := by
  rw [Port.released_state]
  split
  · split <;> nofun
  · split
    · split <;> nofun
    · nofun

theorem Port.sendOldest_state (x : Port) : x.sendOldest.state = x.state := by
  unfold Port.sendOldest
  split <;> rfl

theorem Port.sendOldest_identity (x : Port) : x.sendOldest.identity = x.identity := by
  unfold Port.sendOldest
  split <;> rfl

theorem Port.held_state_ne (x : Port) (keeps : Bool) : (x.held keeps).state ≠ .fenced := by
  unfold Port.held
  split <;> nofun

theorem Port.law_unfenced : Port.Law Port.Unfenced where
  counters same h := h.of_state (.inl (Port.state_of_besidesCounters same))
  flights _ h := h
  step := by
    intro n x y l k move h
    cases move with
    | fence ne | cutFence ne => exact fun zero => absurd zero ne
    | remove | standBy | empty | train | quarantine | waive | enroll => exact h.of_state (.inr nofun)
    | retrain now => exact h.of_state (.inr (by rw [Port.retrained_state]; nofun))
    | release _ e now => exact h.of_state (.inr (x.released_state_ne n e now))
    | power _ now => exact h.of_state (.inr (x.powered_state_ne now))
    | leave _ cycle now => exact h.of_state (.inr (x.left_state_ne n cycle now))
    | lose | settle | cancel | endWaiver | rekey => exact h.of_state (.inl rfl)
    | note _ same => exact h.of_state (.inl (Port.state_of_besidesSigns same))
  change := by
    intro n plan x y l change h
    cases change with
    | send => exact h.of_state (.inl x.sendOldest_state)
    | note _ same => exact h.of_state (.inl (Port.state_of_besidesSigns same))
    | _ => exact h.of_state (.inl rfl)
  drop _ h := h.of_state (.inl rfl)
  powerOff _ h := h.of_state (.inl rfl)
  beat _ _ _ h := h.of_state (.inl rfl)
  answer h := h.of_state (.inl rfl)
  judge h judged := by
    cases judged with
    | failed => exact h.of_state (.inl rfl)
    | passed | admitted => exact h.of_state (.inr nofun)
  stale h := h
  grantCheck _ _ h := h.of_state (.inl rfl)
  grantRead _ _ h := h.of_state (.inl rfl)
  grantWrite _ _ h := h.of_state (.inl rfl)
  tick _ _ h := h.of_state (.inl rfl)
  held h := h.of_state (.inr (Port.held_state_ne _ _))

/-- Settles O6. -/
theorem stepNeverFencesSlotZero : Obligations.StepNeverFencesSlotZero := by
  unfold Obligations.StepNeverFencesSlotZero
  intro s t h run
  have law : s.part.Obeys Port.Unfenced := fun n zero => by
    subst zero
    exact h
  exact Part.obeys_step Port.law_unfenced law run 0 rfl

/-! ### Serial numbers -/

/-- The serial number of the port's identity is at most 8 bytes. -/
def Port.Named (_ : Slot) (x : Port) (_ : List Flight) : Prop := ∀ i, x.identity = some i → i.serial.length ≤ 8

/-- A port that keeps its identity, or has none, stays as the law asks. -/
theorem Port.Named.of_identity {n : Slot} {x y : Port} {l k : List Flight} (h : Port.Named n x l)
    (identity : y.identity = x.identity ∨ y.identity = none) : Port.Named n y k := by
  intro i some
  rcases identity with same | none
  · exact h i (same ▸ some)
  · cases none.symm.trans some

theorem Port.fencedBy_identity (x : Port) (why : FenceReason) (off : Bool) : (x.fencedBy why off).identity = x.identity := by
  have ended : ∀ y : Port, (if y.link then y.refuseReads else y.dropReads).identity = y.identity := by
    intro y
    split <;> rfl
  exact (ended (if off then x.linkDown else x)).trans (by split <;> rfl)

theorem Port.retrained_identity (x : Port) (now : Nat) : (x.retrained now).identity = x.identity := by
  unfold Port.retrained
  dsimp only
  split <;> rfl

theorem Port.released_identity (x : Port) (n : Slot) (enabled : Bool) (now : Nat) :
    (x.released n enabled now).identity = x.identity := by
  unfold Port.released
  split
  · split <;> rfl
  · split
    · rfl
    · split <;> rfl

theorem Port.left_identity (x : Port) (n : Slot) (cycle : Bool) (now : Nat) :
    (x.left n cycle now).identity = x.identity ∨ (x.left n cycle now).identity = none := by
  unfold Port.left
  dsimp only
  split
  · exact .inr rfl
  · split <;> exact .inl rfl

theorem Port.law_named : Port.Law Port.Named where
  counters same h := h.of_identity (.inl (Port.identity_of_besidesCounters same))
  flights _ h := h
  step := by
    intro n x y l k move h
    cases move with
    | fence _ why off => exact h.of_identity (.inl (x.fencedBy_identity why off))
    | cutFence _ why => exact h.of_identity (.inl (x.linkDown.fencedBy_identity why false))
    | retrain now => exact h.of_identity (.inl (x.retrained_identity now))
    | release _ e now => exact h.of_identity (.inl (x.released_identity n e now))
    | leave _ cycle now => exact h.of_identity (x.left_identity n cycle now)
    | empty | waive => exact h.of_identity (.inr rfl)
    | note _ same => exact h.of_identity (.inl (Port.identity_of_besidesSigns same))
    | _ => exact h.of_identity (.inl rfl)
  change := by
    intro n plan x y l change h
    cases change with
    | send => exact h.of_identity (.inl x.sendOldest_identity)
    | note _ same => exact h.of_identity (.inl (Port.identity_of_besidesSigns same))
    | _ => exact h.of_identity (.inl rfl)
  drop _ h := h.of_identity (.inl rfl)
  powerOff _ h := h.of_identity (.inl rfl)
  beat _ _ _ h := h.of_identity (.inl rfl)
  answer h := h.of_identity (.inl rfl)
  judge h judged := by
    cases judged with
    | failed => exact h.of_identity (.inl rfl)
    | passed i short | admitted i short => exact fun j here => Option.some.inj here ▸ short
  stale h := h
  grantCheck _ _ h := h.of_identity (.inl rfl)
  grantRead _ _ h := h.of_identity (.inl rfl)
  grantWrite _ _ h := h.of_identity (.inl rfl)
  tick _ _ h := h.of_identity (.inl rfl)
  held h := h.of_identity (.inr (by unfold Port.held; split <;> rfl))

/-- Every step keeps the serial numbers within their 8 bytes. -/
theorem step_keeps_identitiesSound {s t : State} (h : s.part.identitiesSound) (run : step s = .next t) :
    t.part.identitiesSound := Part.obeys_step Port.law_named h run

/-! ### The service of an ADMITTED card -/

/-- A port gives no service: no strobe, no supervision and no waiver. -/
structure Port.OffDuty (x : Port) : Prop where
  armed : x.strobe.armed = false
  pending : x.strobe.pending = none
  driven : x.strobe.driven = none
  supervising : x.heartbeat.supervising = false
  waived : x.waived = false

/-- A port outside ADMITTED is off duty, and the waiver is slot 0's. -/
def Port.Serves (n : Slot) (x : Port) (_ : List Flight) : Prop :=
  (x.state ≠ .admitted → x.OffDuty) ∧ (x.waived = true → n = 0)

theorem Part.serviceSound_iff (p : Part) : p.serviceSound ↔ p.Obeys Port.Serves := by
  refine forall_congr' fun n => ?_
  have attention : p.attn n = true → p.ports[n].state = .admitted := by
    intro on
    unfold Part.attn at on
    exact eq_of_beq (Bool.and_eq_true_iff.mp on).1
  constructor
  · rintro ⟨serves, waives⟩
    refine ⟨fun out => ?_, fun waived => (waives waived).1⟩
    have idle : ∀ b : Bool, (b = true → p.ports[n].state = .admitted) → b = false := fun b on =>
      Bool.eq_false_iff.mpr fun e => out (on e)
    exact
      { armed := idle _ fun e => serves (.inl e)
        pending := Option.isSome_eq_false_iff.mp (idle _ fun e => serves (.inr (.inl e))) |> Option.isNone_iff_eq_none.mp
        driven := Option.isSome_eq_false_iff.mp (idle _ fun e => serves (.inr (.inr (.inl e)))) |> Option.isNone_iff_eq_none.mp
        supervising := idle _ fun e => serves (.inr (.inr (.inr (.inr e))))
        waived := idle _ fun e => (waives e).2 }
  · rintro ⟨off, zero⟩
    refine ⟨fun busy => Classical.byContradiction fun out => ?_, fun waived => ⟨zero waived, Classical.byContradiction fun out => ?_⟩⟩
    · obtain ⟨armed, pending, driven, supervising, -⟩ := off out
      rcases busy with e | e | e | e | e
      · cases armed.symm.trans e
      · rw [pending] at e
        cases e
      · rw [driven] at e
        cases e
      · exact out (attention e)
      · cases supervising.symm.trans e
    · cases (off out).waived.symm.trans waived

/-- A port that keeps its service and its state, or one that is off duty. -/
theorem Port.Serves.of_same {n : Slot} {x y : Port} {l k : List Flight} (h : Port.Serves n x l) (state : y.state = x.state)
    (strobe : y.strobe = x.strobe) (heartbeat : y.heartbeat.supervising = x.heartbeat.supervising) (waived : y.waived = x.waived) :
    Port.Serves n y k := by
  refine ⟨fun out => ?_, fun on => h.2 (waived ▸ on)⟩
  obtain ⟨a, b, c, d, e⟩ := h.1 (state ▸ out)
  exact ⟨strobe ▸ a, strobe ▸ b, strobe ▸ c, heartbeat.trans d, waived.trans e⟩

theorem Port.Serves.of_off {n : Slot} {y : Port} {k : List Flight} (off : y.OffDuty) : Port.Serves n y k :=
  ⟨fun _ => off, fun on => by cases off.waived.symm.trans on⟩

/-- A port that stands outside ADMITTED and only changes its state stays off duty. -/
theorem Port.OffDuty.of_same {x y : Port} (h : x.OffDuty) (strobe : y.strobe = x.strobe) (heartbeat : y.heartbeat.supervising
    = x.heartbeat.supervising) (waived : y.waived = x.waived) : y.OffDuty :=
  ⟨strobe ▸ h.armed, strobe ▸ h.pending, strobe ▸ h.driven, heartbeat.trans h.supervising, waived.trans h.waived⟩

theorem Port.offDuty_fencedBy (x : Port) (why : FenceReason) (off : Bool) : (x.fencedBy why off).OffDuty := by
  unfold Port.fencedBy
  exact ⟨rfl, rfl, rfl, rfl, rfl⟩

theorem Port.OffDuty.powered {x : Port} (h : x.OffDuty) (now : Nat) : (x.powered now).OffDuty := h.of_same rfl rfl rfl
theorem Port.OffDuty.stoodBy {x : Port} (h : x.OffDuty) : x.stoodBy.OffDuty := h.of_same rfl rfl rfl
theorem Port.OffDuty.trained {x : Port} (h : x.OffDuty) (now : Nat) : (x.trained now).OffDuty := h.of_same rfl rfl rfl
theorem Port.OffDuty.freed {x : Port} (h : x.OffDuty) : x.freed.OffDuty := h.of_same rfl rfl rfl
theorem Port.OffDuty.emptied {x : Port} (h : x.OffDuty) : x.emptied.OffDuty := ⟨h.armed, h.pending, h.driven, h.supervising, rfl⟩

theorem Port.OffDuty.released {x : Port} (h : x.OffDuty) (n : Slot) (enabled : Bool) (now : Nat) :
    (x.released n enabled now).OffDuty := by
  unfold Port.released
  split
  · split
    · exact h.freed.of_same rfl rfl rfl
    · exact h.freed.trained now
  · split
    · exact h.freed.powered now
    · split
      · exact h.freed.powered now
      · exact h.freed.stoodBy

theorem Port.OffDuty.left {x : Port} (h : x.OffDuty) (n : Slot) (cycle : Bool) (now : Nat) : (x.left n cycle now).OffDuty := by
  have out : ({ x with powerCycle := false, stateTimer := none } : Port).OffDuty := h.of_same rfl rfl rfl
  unfold Port.left
  dsimp only
  split
  · exact out.emptied
  · split
    · exact out.powered now
    · exact out.stoodBy

theorem Port.offDuty_retrained {x : Port} (h : x.state ≠ .admitted → x.OffDuty) (now : Nat) : (x.retrained now).OffDuty := by
  unfold Port.retrained
  dsimp only
  split
  · exact ⟨rfl, rfl, rfl, rfl, rfl⟩
  · next out => exact (h out).of_same rfl rfl rfl

theorem Port.offDuty_restated {x : Port} (h : x.state ≠ .admitted → x.OffDuty) (st : SlotState) : (x.restated st).OffDuty := by
  by_cases was : x.state = .admitted
  · rw [Port.restated_of_admitted was]
    exact ⟨rfl, rfl, rfl, rfl, rfl⟩
  · rw [Port.restated_of_not_admitted was]
    exact (h was).of_same rfl rfl rfl

theorem Strobe.tick_of_idle {x : Strobe} (h : x.armed = false) (plan : SlotPlan) (osc : Nat) : x.tick plan osc = x := by
  unfold Strobe.tick
  rw [h]
  rfl

/-- A port in a state other than ADMITTED is off duty. -/
theorem Port.Serves.off {n : Slot} {x : Port} {l : List Flight} (h : Port.Serves n x l) {st : SlotState} (state : x.state = st)
    (ne : st ≠ .admitted) : x.OffDuty := h.1 (SlotState.ne_admitted state ne)

theorem Port.law_serves : Port.Law Port.Serves where
  counters same h := h.of_same (Port.state_of_besidesCounters same) (congrArg Port.strobe same :)
    (congrArg (fun x => x.heartbeat.supervising) same :) (congrArg Port.waived same :)
  flights _ h := h
  step := by
    intro n x y l k move h
    cases move with
    | fence _ why off => exact .of_off (x.offDuty_fencedBy why off)
    | cutFence _ why => exact .of_off (x.linkDown.offDuty_fencedBy why false)
    | remove => exact .of_off ⟨rfl, rfl, rfl, rfl, rfl⟩
    | retrain now => exact .of_off (Port.offDuty_retrained h.1 now)
    | release fenced e now => exact .of_off ((h.off fenced nofun).released n e now)
    | power rest now =>
      rcases rest with e | e <;> exact .of_off ((h.off e nofun).powered now)
    | standBy empty => exact .of_off (h.off empty nofun).stoodBy
    | empty unserved =>
      rcases unserved with e | e | e <;> exact .of_off (h.off e nofun).emptied
    | train powering now => exact .of_off ((h.off powering nofun).trained now)
    | quarantine training => exact .of_off ((h.off training nofun).of_same rfl rfl rfl)
    | waive _ zero => exact ⟨fun out => absurd rfl out, fun _ => zero⟩
    | enroll admitting =>
      have off := h.off admitting nofun
      exact ⟨fun out => absurd rfl out, fun on => by cases off.waived.symm.trans on⟩
    | leave removing cycle now => exact .of_off ((h.off removing nofun).left n cycle now)
    | endWaiver admitted => exact ⟨fun out => absurd admitted out, nofun⟩
    | rekey supervised =>
      refine ⟨fun out => ?_, h.2⟩
      cases (h.1 out).supervising.symm.trans supervised
    | lose | settle | cancel => exact h.of_same rfl rfl rfl rfl
    | note _ same =>
      exact h.of_same (Port.state_of_besidesSigns same) (congrArg Port.strobe same :)
        (congrArg (fun x => x.heartbeat.supervising) same :) (congrArg Port.waived same :)
  change := by
    intro n plan x y l change h
    cases change with
    | send =>
      unfold Port.sendOldest
      split <;> exact h.of_same rfl rfl rfl rfl
    | drive t pending =>
      refine ⟨fun out => ?_, h.2⟩
      rw [(h.1 out).pending] at pending
      cases pending
    | release =>
      refine ⟨fun out => ?_, h.2⟩
      obtain ⟨a, b, -, d, e⟩ := h.1 out
      exact ⟨a, b, rfl, d, e⟩
    | note _ same =>
      exact h.of_same (Port.state_of_besidesSigns same) (congrArg Port.strobe same :)
        (congrArg (fun x => x.heartbeat.supervising) same :) (congrArg Port.waived same :)
    | _ => exact h.of_same rfl rfl rfl rfl
  drop _ h := h.of_same rfl rfl rfl rfl
  powerOff _ h := h.of_same rfl rfl rfl rfl
  beat _ _ _ h := h.of_same rfl rfl rfl rfl
  answer h := h.of_same rfl rfl rfl rfl
  judge := by
    intro n x y l data h judged
    have checked : ∀ i r, ({ x with check := none, identity := i, identityShown := false, admitResult := r } : Port).state ≠ .admitted →
        ({ x with check := none, identity := i, identityShown := false, admitResult := r } : Port).OffDuty := fun i r out =>
      (h.1 out).of_same rfl rfl rfl
    cases judged with
    | failed => exact h.of_same rfl rfl rfl rfl
    | passed i _ now => exact .of_off ((Port.offDuty_restated (checked (some i) .passed) .admitting).of_same rfl rfl rfl)
    | admitted i _ key now =>
      have off := Port.offDuty_restated (checked (some i) .passed) .admitting
      exact ⟨fun out => absurd rfl out, fun on => by cases off.waived.symm.trans on⟩
  stale h := h
  grantCheck _ _ h := h.of_same rfl rfl rfl rfl
  grantRead _ _ h := h.of_same rfl rfl rfl rfl
  grantWrite _ _ h := h.of_same rfl rfl rfl rfl
  tick := by
    intro n x l plan osc h
    refine ⟨fun out => ?_, h.2⟩
    have off := h.1 out
    exact off.of_same (Strobe.tick_of_idle off.armed plan osc) rfl rfl
  held _ := .of_off (by unfold Port.held; split <;> exact ⟨rfl, rfl, rfl, rfl, rfl⟩)

/-- Settles O13. -/
theorem stepKeepsServiceToAdmittedSlots : Obligations.StepKeepsServiceToAdmittedSlots := by
  unfold Obligations.StepKeepsServiceToAdmittedSlots
  intro s t h run
  exact (Part.serviceSound_iff _).mpr (Part.obeys_step Port.law_serves ((Part.serviceSound_iff _).mp h) run)

end Sys2Proof.Machine
end


section
/-! PROOFS. The request side of the slot ports as three laws of the ports: queue and credits (R4), the tag table (R3), and what a card
is owed, with its admission check (R12, R58 to R61). -/
namespace Sys2Proof.Machine

/-! ### Queue and credits -/

/-- What the flow of requests rests on. -/
def Port.flow (x : Port) : List Request × Nat × Bool := (x.queue, x.credits, x.link)

/-- The queue is within its places and the credits follow it; the reads in flight have no part in it. -/
def Port.Flows (_ : Slot) (x : Port) (_ : List Flight) : Prop := x.flowSound

theorem Port.flowSound_of_flow {x y : Port} (h : y.flow = x.flow) (sound : x.flowSound) : y.flowSound := by
  obtain ⟨queue, credits, link⟩ : y.queue = x.queue ∧ y.credits = x.credits ∧ y.link = x.link := by
    simpa [Port.flow] using h
  unfold Port.flowSound
  rw [queue, credits, link]
  exact sound

theorem Port.flow_of_besidesSigns {x y : Port} (h : y.besidesSigns = x.besidesSigns) : y.flow = x.flow := (congrArg Port.flow h :)

theorem Port.flow_of_besidesCounters {x y : Port} (h : y.besidesCounters = x.besidesCounters) : y.flow = x.flow :=
  (congrArg Port.flow h :)

theorem Port.flowSound_linkDown {x : Port} (h : x.flowSound) : x.linkDown.flowSound := ⟨h.1, rfl⟩

theorem Port.flowSound_linkUp {x : Port} (h : x.flowSound) : x.linkUp.flowSound := ⟨h.1, rfl⟩

/-- The READs that leave the queue give their credits back, while the link is up (R4). -/
theorem Port.flowSound_unqueueReads {x : Port} (h : x.flowSound) : x.unqueueReads.flowSound := by
  obtain ⟨short, credits⟩ := h
  have places := writesOnly_readTags_length x.queue
  unfold Port.flowSound Port.unqueueReads
  dsimp only
  cases link : x.link
  · rw [link, if_neg Bool.false_ne_true] at credits
    exact ⟨by omega, by rw [if_neg Bool.false_ne_true, if_neg Bool.false_ne_true, credits]⟩
  · rw [link, if_pos rfl] at credits
    exact ⟨by omega, by rw [if_pos rfl, if_pos rfl, credits]; omega⟩

/-- A port that gives up its queued READs flows soundly, whether they are refused or dropped (R11, R12). -/
theorem Port.flowSound_of_unqueued {x y : Port} (h : x.flowSound) (unqueued : y.flow = x.unqueueReads.flow) : y.flowSound :=
  Port.flowSound_of_flow unqueued (Port.flowSound_unqueueReads h)

theorem Port.flowSound_fencedBy {x : Port} (h : x.flowSound) (why : FenceReason) (off : Bool) : (x.fencedBy why off).flowSound := by
  have ended : ∀ y : Port, y.flowSound → (if y.link then y.refuseReads else y.dropReads).flowSound := by
    intro y sound
    split <;> exact Port.flowSound_of_unqueued sound rfl
  refine Port.flowSound_of_flow rfl (ended (if off then x.linkDown else x) ?_)
  split
  · exact Port.flowSound_linkDown h
  · exact h

theorem Port.flowSound_released {x : Port} (h : x.flowSound) (n : Slot) (enabled : Bool) (now : Nat) :
    (x.released n enabled now).flowSound := by
  have down := Port.flowSound_linkDown h
  unfold Port.released
  split
  · split
    · exact Port.flowSound_of_flow rfl h
    · exact Port.flowSound_of_flow rfl down
  · split
    · exact Port.flowSound_of_flow rfl down
    · split <;> exact Port.flowSound_of_flow rfl down

theorem Port.flowSound_left {x : Port} (h : x.flowSound) (n : Slot) (cycle : Bool) (now : Nat) :
    (x.left n cycle now).flowSound := by
  have down := Port.flowSound_linkDown h
  unfold Port.left
  dsimp only
  split
  · exact Port.flowSound_of_flow rfl down
  · split <;> exact Port.flowSound_of_flow rfl down

theorem Port.flowSound_retrained {x : Port} (h : x.flowSound) (now : Nat) : (x.retrained now).flowSound := by
  unfold Port.retrained
  dsimp only
  split <;> exact Port.flowSound_of_unqueued (Port.flowSound_linkDown h) rfl

/-- The head of the queue leaves and its credit goes back, while the link is up (R9). -/
theorem Port.flowSound_served {x : Port} {q : Request} {rest : List Request} (queue : x.queue = q :: rest) (h : x.flowSound) :
    (x.served rest).flowSound := by
  obtain ⟨short, credits⟩ := h
  rw [queue, List.length_cons] at short credits
  unfold Port.flowSound Port.served
  dsimp only
  cases link : x.link
  · rw [link, if_neg Bool.false_ne_true] at credits
    exact ⟨by omega, by rw [if_neg Bool.false_ne_true, if_neg Bool.false_ne_true, credits]⟩
  · rw [link, if_pos rfl] at credits
    exact ⟨by omega, by rw [if_pos rfl, if_pos rfl, credits]; omega⟩

theorem Port.flow_sendOldest (x : Port) : x.sendOldest.flow = x.flow := by
  unfold Port.sendOldest
  split <;> rfl

theorem Port.law_flows : Port.Law Port.Flows where
  counters same h := Port.flowSound_of_flow (Port.flow_of_besidesCounters same) h
  flights _ h := h
  step := by
    intro n x y l k move h
    have h : x.flowSound := h
    cases move with
    | fence _ why off => exact Port.flowSound_fencedBy h why off
    | cutFence _ why => exact Port.flowSound_fencedBy (Port.flowSound_linkDown h) why false
    | remove => exact Port.flowSound_of_unqueued h rfl
    | retrain now => exact Port.flowSound_retrained h now
    | release _ e now => exact Port.flowSound_released h n e now
    | power | standBy | empty | train => exact Port.flowSound_of_flow (x := x.linkDown) rfl (Port.flowSound_linkDown h)
    | quarantine | waive => exact Port.flowSound_of_flow (x := x.linkUp) rfl (Port.flowSound_linkUp h)
    | leave _ cycle now => exact Port.flowSound_left h n cycle now
    | enroll | lose | settle | cancel | endWaiver | rekey => exact h
    | note _ same => exact Port.flowSound_of_flow (Port.flow_of_besidesSigns same) h
  change := by
    intro n plan x y l change h
    have h : x.flowSound := h
    cases change with
    | accept q link credit passed =>
      obtain ⟨short, credits⟩ := h
      rw [link, if_pos rfl] at credits
      refine ⟨?_, ?_⟩
      · show (x.queue ++ [q]).length ≤ 8
        rw [List.length_append, List.length_singleton]
        omega
      · show x.credits - 1 = if x.link then 8 - (x.queue ++ [q]).length else 0
        rw [link, if_pos rfl, List.length_append, List.length_singleton]
        omega
    | send => exact Port.flowSound_of_flow x.flow_sendOldest h
    | link => exact Port.flowSound_linkUp h
    | note _ same => exact Port.flowSound_of_flow (Port.flow_of_besidesSigns same) h
    | refuse | check | drive | release => exact h
  drop {_ x _} _ h := Port.flowSound_of_unqueued (x := x.linkDown) (Port.flowSound_linkDown h) rfl
  powerOff {_ x _} _ h := Port.flowSound_of_unqueued (x := x.linkDown) (Port.flowSound_linkDown h) rfl
  beat _ _ _ h := h
  answer h := h
  judge h judged := by cases judged <;> exact h
  stale h := h
  grantCheck _ _ h := h
  grantRead queue _ h := Port.flowSound_served queue h
  grantWrite queue _ h := Port.flowSound_of_flow rfl (Port.flowSound_served queue h)
  tick _ _ h := h
  held _ := by
    unfold Port.Flows Port.held
    split <;> exact ⟨Nat.zero_le _, rfl⟩

/-! ### Reads of one slot in flight -/

/-- The tag of a READ of slot `n`'s card in flight. -/
def Flight.cardTag (n : Slot) (f : Flight) : Option Tag :=
  match f.purpose with
  | .card m t _ _ => if m = n then some t else none
  | .check _ _ | .plan | .header _ | .copy => none

/-- The tags of slot `n`'s READs in flight. -/
def cardTags (n : Slot) (l : List Flight) : List Tag := l.filterMap (Flight.cardTag n)

/-- How many reads in flight are live check reads of slot `n`. -/
def liveChecks (n : Slot) (l : List Flight) : Nat := (l.filter fun f => f.purpose == .check n true).length

/-- Every READ of slot `n` in flight is dropped when it completes. -/
def allDropped (n : Slot) (l : List Flight) : Prop :=
  ∀ f ∈ l, ∀ t fenced dropped, f.purpose = .card n t fenced dropped → dropped = true

theorem Flight.cardTag_of_foreign {n : Slot} {f : Flight} (h : f.of n = false) : f.cardTag n = none := by
  obtain ⟨purpose, data⟩ := f
  cases purpose with
  | card m t a b =>
    have ne : m ≠ n := by simpa [Flight.of] using h
    exact if_neg ne
  | _ => rfl

theorem cardTags_filter (n : Slot) (l : List Flight) : cardTags n (l.filter (Flight.of n)) = cardTags n l := by
  unfold cardTags
  rw [List.filterMap_filter]
  refine filterMap_eq_of_forall fun f _ => ?_
  cases own : f.of n with
  | true => rfl
  | false => exact (Flight.cardTag_of_foreign own).symm

theorem liveChecks_filter (n : Slot) (l : List Flight) : liveChecks n (l.filter (Flight.of n)) = liveChecks n l := by
  unfold liveChecks
  rw [List.filter_filter]
  refine congrArg _ (List.filter_congr fun f _ => ?_)
  cases live : f.purpose == .check n true with
  | false => rfl
  | true =>
    rw [Bool.true_and, Flight.of, beq_iff_eq.mp live]
    exact beq_self_eq_true n

theorem allDropped_iff_filter (n : Slot) (l : List Flight) : allDropped n (l.filter (Flight.of n)) ↔ allDropped n l := by
  refine ⟨fun h f hf t a b card => ?_, fun h f hf => h f (List.mem_filter.mp hf).1⟩
  refine h f (List.mem_filter.mpr ⟨hf, ?_⟩) t a b card
  rw [Flight.of, card]
  exact beq_self_eq_true n

/-- Marks of a slot's reads leave their tags, drop its READs where the slot lost its link, and leave or end its check reads. -/
theorem cardTags_markFlights (n m : Slot) (fence : Bool) (l : List Flight) : cardTags n (markFlights m fence l) = cardTags n l := by
  unfold cardTags markFlights
  rw [List.filterMap_map]
  refine filterMap_eq_of_forall fun f _ => ?_
  obtain ⟨purpose, data⟩ := f
  cases purpose with
  | card k t a b => by_cases e : k = m <;> simp [Flight.cardTag, e]
  | _ => rfl

theorem cardTags_uncheckedFlights (n m : Slot) (l : List Flight) : cardTags n (uncheckedFlights m l) = cardTags n l := by
  unfold cardTags uncheckedFlights
  rw [List.filterMap_map]
  refine filterMap_eq_of_forall fun f _ => ?_
  obtain ⟨purpose, data⟩ := f
  cases purpose <;> rfl

theorem cardTags_markedFlights (n m : Slot) (fence : Bool) (l : List Flight) :
    cardTags n (markedFlights m fence l) = cardTags n l := by
  rw [← markFlights_uncheckedFlights, cardTags_markFlights, cardTags_uncheckedFlights]

theorem liveChecks_markFlights (n m : Slot) (fence : Bool) (l : List Flight) :
    liveChecks n (markFlights m fence l) = liveChecks n l := by
  unfold liveChecks markFlights
  rw [List.filter_map, List.length_map]
  refine congrArg _ (List.filter_congr fun f _ => ?_)
  obtain ⟨purpose, data⟩ := f
  cases purpose with
  | card k t a b =>
    rw [Function.comp_apply]
    dsimp only
    split <;> rfl
  | _ => rfl

theorem liveChecks_uncheckedFlights (n : Slot) (l : List Flight) : liveChecks n (uncheckedFlights n l) = 0 := by
  unfold liveChecks uncheckedFlights
  rw [List.filter_map, List.length_map, List.length_eq_zero_iff, List.filter_eq_nil_iff]
  intro f _
  obtain ⟨purpose, data⟩ := f
  cases purpose with
  | check k live =>
    simp only [Function.comp_apply, beq_iff_eq, Purpose.check.injEq, not_and]
    rintro rfl
    simp
  | _ => simp

theorem liveChecks_markedFlights (n : Slot) (fence : Bool) (l : List Flight) : liveChecks n (markedFlights n fence l) = 0 := by
  rw [← markFlights_uncheckedFlights, liveChecks_markFlights, liveChecks_uncheckedFlights]

theorem allDropped_markFlights (n : Slot) (l : List Flight) : allDropped n (markFlights n false l) := by
  intro f hf t a b card
  obtain ⟨⟨purpose, data⟩, _, rfl⟩ := List.mem_map.mp hf
  cases purpose with
  | card k u c d =>
    dsimp only at card
    by_cases e : k = n
    · rw [if_pos e] at card
      have dropped : (d || !false) = b := by injection card
      rw [← dropped, Bool.not_false, Bool.or_true]
    · rw [if_neg e] at card
      exact absurd (by injection card) e
  | _ => cases card

theorem allDropped_uncheckedFlights {n m : Slot} {l : List Flight} (h : allDropped n l) : allDropped n (uncheckedFlights m l) := by
  intro f hf t a b card
  obtain ⟨g, hg, rfl⟩ := List.mem_map.mp hf
  refine h g hg t a b ?_
  obtain ⟨purpose, data⟩ := g
  cases purpose with
  | check k live => cases card
  | _ => exact card

theorem allDropped_markedFlights (n : Slot) (l : List Flight) : allDropped n (markedFlights n false l) := by
  rw [← uncheckedFlights_markFlights]
  exact allDropped_uncheckedFlights (allDropped_markFlights n l)

/-! ### The tag table -/

/-- A tag table holds exactly the tags of the open requests, each once (R3). -/
structure tagsMatch (tags opened : List Tag) : Prop where
  once : opened.Nodup
  nodup : tags.Nodup
  mem : ∀ t, t ∈ tags ↔ t ∈ opened

theorem tagsMatch.perm {tags a b : List Tag} (h : tagsMatch tags a) (same : a.Perm b) : tagsMatch tags b :=
  ⟨same.nodup_iff.mp h.once, h.nodup, fun t => (h.mem t).trans same.mem_iff⟩

/-- The tags of the requests that end leave the table. -/
theorem tagsMatch.remove {tags a b : List Tag} {f : Tag → Bool} (h : tagsMatch tags (a ++ b)) (keeps : ∀ t, f t = true ↔ t ∉ a) :
    tagsMatch (tags.filter f) b := by
  obtain ⟨_, rest, disjoint⟩ := List.nodup_append.mp h.once
  refine ⟨rest, h.nodup.filter f, fun t => ?_⟩
  rw [List.mem_filter, h.mem, keeps, List.mem_append]
  exact ⟨fun ⟨either, out⟩ => either.resolve_left out, fun inside => ⟨.inr inside, fun other => disjoint t other t inside rfl⟩⟩

/-- A tag that is not in the table may be taken. -/
theorem tagsMatch.add {tags opened : List Tag} {t : Tag} (h : tagsMatch tags opened) (free : t ∉ tags) :
    tagsMatch (tags ++ [t]) (t :: opened) := by
  refine ⟨List.nodup_cons.mpr ⟨fun open' => free ((h.mem t).mpr open'), h.once⟩, ?_, fun u => ?_⟩
  · exact nodup_append_singleton h.nodup free
  · rw [List.mem_append, List.mem_singleton, List.mem_cons, h.mem]
    exact or_comm

/-- The tags of a port's requests that wait for the memory port or for their response to be sent. -/
def Port.waitingTags (x : Port) : List Tag := x.queue.map Request.tag ++ x.unsent.map Response.tag

/-- The tag table is that of the open requests. -/
def Port.Tagged (n : Slot) (x : Port) (l : List Flight) : Prop := tagsMatch x.tags (x.waitingTags ++ cardTags n l)

/-- What the tag table rests on in a port. -/
def Port.desk (x : Port) : List Request × List Response × List Tag := (x.queue, x.unsent, x.tags)

theorem Port.Tagged.of_desk {n : Slot} {x y : Port} {l k : List Flight} (h : Port.Tagged n x l) (desk : y.desk = x.desk)
    (cards : cardTags n k = cardTags n l) : Port.Tagged n y k := by
  obtain ⟨queue, unsent, tags⟩ : y.queue = x.queue ∧ y.unsent = x.unsent ∧ y.tags = x.tags := by
    simpa [Port.desk] using desk
  unfold Port.Tagged Port.waitingTags
  rw [queue, unsent, tags, cards]
  exact h

/-- READs and WRITEs of a queue together hold its tags. -/
theorem queueTags_perm (q : List Request) : (readTags q ++ (writesOnly q).map Request.tag).Perm (q.map Request.tag) := by
  unfold readTags writesOnly
  rw [← List.map_append]
  exact (List.filter_append_perm Request.isRead q).map _

/-- The queued READs are refused: their tags wait to be sent instead (R11). -/
theorem Port.Tagged.refuseReads {n : Slot} {x : Port} {l : List Flight} (h : Port.Tagged n x l) : Port.Tagged n x.refuseReads l := by
  have made : ((readTags x.queue).map fun t => Response.refusal t .fenced).map Response.tag = readTags x.queue := by
    rw [List.map_map]
    exact List.map_id _
  have waiting : x.refuseReads.waitingTags
      = (writesOnly x.queue).map Request.tag ++ (x.unsent.map Response.tag ++ readTags x.queue) := by
    show (writesOnly x.queue).map Request.tag
      ++ (x.unsent ++ (readTags x.queue).map fun t => Response.refusal t .fenced).map Response.tag = _
    rw [List.map_append, made]
  refine tagsMatch.perm (tags := x.tags) h (List.Perm.append_right _ ?_)
  rw [waiting]
  refine ((queueTags_perm x.queue).symm.append_right _).trans ?_
  rw [List.append_assoc, ← List.append_assoc (List.map Request.tag _)]
  exact List.perm_append_comm

/-- The queued READs and the responses not yet sent are dropped with their tags (R12). -/
theorem Port.Tagged.dropReads {n : Slot} {x : Port} {l : List Flight} (h : Port.Tagged n x l) : Port.Tagged n x.dropReads l := by
  have split : (x.waitingTags ++ cardTags n l).Perm
      ((readTags x.queue ++ x.unsent.map Response.tag) ++ (x.dropReads.waitingTags ++ cardTags n l)) := by
    show (x.queue.map Request.tag ++ x.unsent.map Response.tag ++ cardTags n l).Perm
      ((readTags x.queue ++ x.unsent.map Response.tag) ++ ((writesOnly x.queue).map Request.tag ++ [] ++ cardTags n l))
    rw [List.append_nil, ← List.append_assoc]
    refine List.Perm.append_right _ ?_
    refine ((queueTags_perm x.queue).symm.append_right _).trans ?_
    rw [List.append_assoc, List.append_assoc]
    exact List.perm_append_comm.append_left _
  refine tagsMatch.remove (tagsMatch.perm h split) fun t => ?_
  simp [not_or]

/-- The responses not yet sent are sent, and their tags leave the table (R2, R3). -/
theorem Port.Tagged.sendNow {n : Slot} {x : Port} {l : List Flight} (r : Response) (h : Port.Tagged n x l) :
    Port.Tagged n (x.sendNow r) l := by
  have split : (x.waitingTags ++ cardTags n l).Perm
      (x.unsent.map Response.tag ++ ((x.sendNow r).waitingTags ++ cardTags n l)) := by
    show (x.queue.map Request.tag ++ x.unsent.map Response.tag ++ cardTags n l).Perm
      (x.unsent.map Response.tag ++ (x.queue.map Request.tag ++ [] ++ cardTags n l))
    rw [List.append_nil, ← List.append_assoc]
    exact List.perm_append_comm.append_right _
  refine tagsMatch.remove (tagsMatch.perm h split) fun t => ?_
  simp

theorem Port.Tagged.sendOldest {n : Slot} {x : Port} {l : List Flight} (h : Port.Tagged n x l) : Port.Tagged n x.sendOldest l := by
  cases unsent : x.unsent with
  | nil =>
    have same : x.sendOldest = x := by
      unfold Port.sendOldest
      rw [unsent]
    rwa [same]
  | cons r rest =>
    have sent : x.sendOldest = { x with
        responses := x.responses ++ [r], tags := x.tags.filter (· != r.tag), unsent := rest } := by
      unfold Port.sendOldest
      rw [unsent]
    have split : (x.waitingTags ++ cardTags n l).Perm
        ([r.tag] ++ ((x.queue.map Request.tag ++ rest.map Response.tag) ++ cardTags n l)) := by
      unfold Port.waitingTags
      rw [unsent, List.map_cons, ← List.append_assoc]
      exact List.perm_middle.append_right _
    rw [sent]
    refine tagsMatch.remove (tagsMatch.perm h split) fun t => ?_
    simp

/-- A request that passes the arrival tests joins the queue with its tag (R5, R6). -/
theorem Port.Tagged.accept {n : Slot} {plan : Plan} {x : Port} {l : List Flight} {q : Request} (h : Port.Tagged n x l)
    (passed : arrivalCheck plan x n q = none) :
    Port.Tagged n { x with tags := x.tags ++ [q.tag], queue := x.queue ++ [q], credits := x.credits - 1 } l := by
  have free : q.tag ∉ x.tags := by
    intro busy
    unfold arrivalCheck at passed
    split at passed
    · cases passed
    · rw [if_pos (List.contains_iff_mem.mpr busy)] at passed
      cases passed
  refine tagsMatch.perm (tagsMatch.add h free) ?_
  show (q.tag :: (x.queue.map Request.tag ++ x.unsent.map Response.tag ++ cardTags n l)).Perm
    ((x.queue ++ [q]).map Request.tag ++ x.unsent.map Response.tag ++ cardTags n l)
  rw [List.map_append, List.append_assoc, List.append_assoc, List.append_assoc]
  exact List.perm_middle.symm

theorem cardTags_card (n : Slot) (t : Tag) (a b : Bool) (data) (l : List Flight) :
    cardTags n ({ purpose := .card n t a b, data := data } :: l) = t :: cardTags n l := by
  have tag : Flight.cardTag n { purpose := .card n t a b, data := data } = some t := if_pos rfl
  exact List.filterMap_cons_some tag

theorem Port.answers_tags (x : Port) (t : Tag) (a b err : Bool) (data : List Byte) :
    x.answers t a b err data = [] ∨ (x.answers t a b err data).map Response.tag = [t] := by
  unfold Port.answers
  split
  · exact .inl rfl
  · split
    · exact .inr rfl
    · split
      · split <;> exact .inr rfl
      · exact .inl rfl

/-- A completed READ's tag leaves the table, or waits with the response (R3, R10). -/
theorem Port.Tagged.answer {n : Slot} {x : Port} {l : List Flight} {t : Tag} {a b : Bool} {made : List Response} {data}
    (h : Port.Tagged n x ({ purpose := .card n t a b, data := data } :: l)) (tags : made = [] ∨ made.map Response.tag = [t]) :
    Port.Tagged n (x.answered t made) l := by
  have opened : tagsMatch x.tags (x.waitingTags ++ t :: cardTags n l) := by rwa [← cardTags_card n t a b data]
  rcases tags with none | one
  · subst none
    refine Port.Tagged.of_desk (x := { x with tags := x.tags.filter (· != t) }) ?_ (by simp [Port.desk, Port.answered]) rfl
    refine tagsMatch.remove (opened.perm (b := [t] ++ (x.waitingTags ++ cardTags n l)) List.perm_middle) fun u => ?_
    simp
  · have some : made ≠ [] := by
      rintro rfl
      cases one
    refine tagsMatch.perm (tags := (x.answered t made).tags) (a := x.waitingTags ++ t :: cardTags n l) ?_ ?_
    · rw [Port.answered, if_neg some]
      exact opened
    · show (x.waitingTags ++ t :: cardTags n l).Perm
        (x.queue.map Request.tag ++ (x.unsent ++ made).map Response.tag ++ cardTags n l)
      rw [List.map_append, one, ← List.append_assoc, List.append_assoc _ [t]]
      rfl

/-- The READ at the head of the queue is in flight (R9). -/
theorem Port.Tagged.grantRead {n : Slot} {x : Port} {l : List Flight} {q : Request} {rest : List Request} {data}
    (queue : x.queue = q :: rest) (h : Port.Tagged n x l) :
    Port.Tagged n (x.served rest) (l ++ [{ purpose := .card n q.tag false false, data := data }]) := by
  have cards : cardTags n (l ++ [{ purpose := .card n q.tag false false, data := data }]) = cardTags n l ++ [q.tag] := by
    unfold cardTags
    rw [List.filterMap_append]
    exact congrArg _ (cardTags_card n q.tag false false data [])
  have opened : tagsMatch x.tags (x.waitingTags ++ cardTags n l) := h
  unfold Port.Tagged
  rw [cards]
  refine opened.perm ?_
  unfold Port.waitingTags
  rw [queue]
  show (q.tag :: (rest.map Request.tag ++ x.unsent.map Response.tag ++ cardTags n l)).Perm
    (rest.map Request.tag ++ x.unsent.map Response.tag ++ (cardTags n l ++ [q.tag]))
  rw [← List.append_assoc]
  exact (List.perm_append_singleton _ _).symm

/-- The WRITE at the head of the queue is done with (R9). -/
theorem Port.Tagged.grantWrite {n : Slot} {x : Port} {l : List Flight} {q : Request} {rest : List Request}
    (queue : x.queue = q :: rest) (h : Port.Tagged n x l) :
    Port.Tagged n { x.served rest with tags := x.tags.filter (· != q.tag) } l := by
  have opened : tagsMatch x.tags ([q.tag] ++ ((rest.map Request.tag ++ x.unsent.map Response.tag) ++ cardTags n l)) := by
    have h : tagsMatch x.tags (x.waitingTags ++ cardTags n l) := h
    unfold Port.waitingTags at h
    rw [queue] at h
    exact h
  refine opened.remove fun t => ?_
  simp

theorem Port.Tagged.marked {n : Slot} {x : Port} {l : List Flight} (fence : Bool) (h : Port.Tagged n x l) :
    Port.Tagged n x (markedFlights n fence l) := h.of_desk rfl (cardTags_markedFlights n n fence l)

theorem Port.Tagged.fencedBy {n : Slot} {x : Port} {l : List Flight} (h : Port.Tagged n x l) (why : FenceReason) (off : Bool) :
    Port.Tagged n (x.fencedBy why off) l := by
  have ended : ∀ y : Port, Port.Tagged n y l → Port.Tagged n (if y.link then y.refuseReads else y.dropReads) l := by
    intro y tagged
    split
    · exact tagged.refuseReads
    · exact tagged.dropReads
  refine Port.Tagged.of_desk (ended (if off then x.linkDown else x) (h.of_desk ?_ rfl)) rfl rfl
  split <;> rfl

theorem Port.desk_retrained (x : Port) (now : Nat) : (x.retrained now).desk = x.dropReads.desk := by
  unfold Port.retrained
  dsimp only
  split <;> rfl

theorem Port.desk_released (x : Port) (n : Slot) (enabled : Bool) (now : Nat) : (x.released n enabled now).desk = x.desk := by
  unfold Port.released
  split
  · split <;> rfl
  · split
    · rfl
    · split <;> rfl

theorem Port.desk_left (x : Port) (n : Slot) (cycle : Bool) (now : Nat) : (x.left n cycle now).desk = x.desk := by
  unfold Port.left
  dsimp only
  split
  · rfl
  · split <;> rfl

theorem Port.desk_of_besidesSigns {x y : Port} (h : y.besidesSigns = x.besidesSigns) : y.desk = x.desk := (congrArg Port.desk h :)

theorem Port.desk_of_besidesCounters {x y : Port} (h : y.besidesCounters = x.besidesCounters) : y.desk = x.desk :=
  (congrArg Port.desk h :)

theorem Port.law_tagged : Port.Law Port.Tagged where
  counters same h := h.of_desk (Port.desk_of_besidesCounters same) rfl
  flights same h := h.of_desk rfl (by rw [← cardTags_filter, same, cardTags_filter])
  step := by
    intro n x y l k move h
    cases move with
    | fence _ why off => exact (h.fencedBy why off).marked _
    | cutFence _ why => exact ((Port.Tagged.of_desk (y := x.linkDown) h rfl rfl).fencedBy why false).marked _
    | remove cycle now => exact (h.dropReads.of_desk (y := x.removedBy cycle now) rfl rfl).marked _
    | retrain now => exact (h.dropReads.of_desk (x.desk_retrained now) rfl).marked _
    | release _ e now => exact h.of_desk (x.desk_released n e now) rfl
    | leave _ cycle now => exact h.of_desk (x.desk_left n cycle now) rfl
    | power | standBy | empty | train | quarantine | waive => exact h.of_desk rfl rfl
    | cancel => exact h.of_desk rfl (cardTags_uncheckedFlights n n l)
    | enroll | lose | settle | endWaiver | rekey => exact h.of_desk rfl rfl
    | note _ same => exact h.of_desk (Port.desk_of_besidesSigns same) rfl
  change := by
    intro n plan x y l change h
    cases change with
    | accept q _ _ passed => exact h.accept passed
    | refuse r => exact h.sendNow r
    | send => exact h.sendOldest
    | check | link | drive | release => exact h.of_desk rfl rfl
    | note _ same => exact h.of_desk (Port.desk_of_besidesSigns same) rfl
  drop {n x l} _ h := h.dropReads.of_desk (y := x.linkDown.dropReads) rfl (cardTags_markFlights n n false l)
  powerOff {n x l} _ h := h.dropReads.of_desk (y := { x.linkDown with powerRemoved := true }.dropReads) rfl
    (cardTags_markFlights n n false l)
  beat _ _ _ h := h.of_desk rfl rfl
  answer h := h.answer (Port.answers_tags _ _ _ _ _ _)
  judge h judged := by cases judged <;> exact h.of_desk rfl rfl
  stale h := h.of_desk rfl rfl
  grantCheck {n x l k data} _ _ h := h.of_desk rfl (by
    unfold cardTags
    rw [List.filterMap_append]
    exact List.append_nil _)
  grantRead queue _ h := h.grantRead queue
  grantWrite queue _ h := h.grantWrite queue
  tick _ _ h := h.of_desk rfl rfl
  held _ := by
    unfold Port.held
    split <;> exact ⟨List.nodup_nil, List.nodup_nil, fun _ => Iff.rfl⟩

end Sys2Proof.Machine
end


section
/-! PROOFS. What a card is owed, and its admission check, as a law of the slot ports (R12, R58 to R61), and with it the soundness of the
request side of every port. -/
namespace Sys2Proof.Machine

/-- A card is owed nothing: no READ of it waits, no response waits to be sent, and its READs in flight are dropped (R12). -/
structure Port.Quiet (n : Slot) (x : Port) (l : List Flight) : Prop where
  unsent : x.unsent = []
  queue : ∀ q ∈ x.queue, q.isRead = false
  cards : allDropped n l

/-- How many live check reads the check record allows. -/
def Port.checksAllowed (x : Port) : Nat :=
  match x.check with
  | some k => if k.inFlight then 1 else 0
  | none => 0

/-- The link is up by the slot's state, a card without one is owed nothing, and the check record stands in QUARANTINE. -/
structure Port.Owed (n : Slot) (x : Port) (l : List Flight) : Prop where
  linked : x.state.linked = true → x.link = true
  link : x.link = true → x.state.linked = true ∨ x.state = .removing ∨ (x.state = .fenced ∧ x.powerRemoved = false)
  quiet : x.link = false ∨ x.state = .removing → x.Quiet n l
  check : x.check.isSome = true → x.state = .quarantine
  live : liveChecks n l ≤ x.checksAllowed

section owed
variable {n : Slot} {x y : Port} {l k : List Flight}

theorem Port.Owed.check_none (h : Port.Owed n x l) (ne : x.state ≠ .quarantine) : x.check = none := by
  refine Classical.byContradiction fun some => ?_
  exact ne (h.check (Option.isSome_iff_ne_none.mpr some))

theorem Port.checksAllowed_of_none (none : x.check = none) : x.checksAllowed = 0 := by
  unfold Port.checksAllowed
  rw [none]

theorem Port.Owed.live_zero (h : Port.Owed n x l) (none : x.check = none) : liveChecks n l = 0 :=
  Nat.le_zero.mp (Port.checksAllowed_of_none none ▸ h.live)

/-- A slot that is neither linked nor REMOVING nor FENCED has no link. -/
theorem Port.Owed.link_false (h : Port.Owed n x l) (unlinked : x.state.linked = false) (removing : x.state ≠ .removing)
    (fenced : x.state ≠ .fenced) : x.link = false := by
  refine Classical.byContradiction fun up => ?_
  rcases h.link (Bool.not_eq_false _ ▸ up) with e | e | e
  · rw [unlinked] at e
    cases e
  · exact removing e
  · exact fenced e.1

/-- A port without a check record, in a state that is not a linked one. -/
theorem Port.Owed.of_unlinked (state : y.state.linked = false)
    (link : y.link = true → y.state = .removing ∨ (y.state = .fenced ∧ y.powerRemoved = false))
    (quiet : y.link = false ∨ y.state = .removing → y.Quiet n k) (check : y.check = none) (live : liveChecks n k = 0) :
    Port.Owed n y k :=
  ⟨fun on => absurd (on.symm.trans state) nofun, fun up => .inr (link up), quiet, fun some => absurd (check ▸ some) nofun,
    live ▸ Nat.zero_le _⟩

/-- A port that is cut off: its link is down and its card is owed nothing. -/
theorem Port.Owed.of_down (state : y.state.linked = false) (link : y.link = false) (quiet : y.Quiet n k) (check : y.check = none)
    (live : liveChecks n k = 0) : Port.Owed n y k :=
  .of_unlinked state (fun up => absurd (link.symm.trans up) nofun) (fun _ => quiet) check live

/-- A port in a linked state other than QUARANTINE, or in QUARANTINE without a check record yet. -/
theorem Port.Owed.of_linked (state : y.state.linked = true) (link : y.link = true) (check : y.check = none)
    (live : liveChecks n k = 0) : Port.Owed n y k := by
  refine ⟨fun _ => link, fun _ => .inl state, fun off => ?_, fun some => absurd (check ▸ some) nofun, live ▸ Nat.zero_le _⟩
  rcases off with down | removing
  · exact absurd (down.symm.trans link) nofun
  · rw [removing] at state
    cases state

/-- What the law speaks of in a port. -/
def Port.dues (x : Port) : SlotState × Bool × Bool × List Response × List Request × Option CheckRecord :=
  (x.state, x.link, x.powerRemoved, x.unsent, x.queue, x.check)

theorem Port.Owed.of_dues (h : Port.Owed n x l) (same : y.dues = x.dues) (cards : allDropped n l → allDropped n k)
    (live : liveChecks n k ≤ liveChecks n l) : Port.Owed n y k := by
  obtain ⟨state, link, power, unsent, queue, check⟩ : y.state = x.state ∧ y.link = x.link ∧ y.powerRemoved = x.powerRemoved
      ∧ y.unsent = x.unsent ∧ y.queue = x.queue ∧ y.check = x.check := by simpa [Port.dues] using same
  refine ⟨?_, ?_, fun off => ?_, ?_, ?_⟩
  · rw [state, link]
    exact h.linked
  · rw [state, link, power]
    exact h.link
  · rw [state, link] at off
    exact ⟨unsent.trans (h.quiet off).unsent, queue ▸ (h.quiet off).queue, cards (h.quiet off).cards⟩
  · rw [check, state]
    exact h.check
  · rw [show y.checksAllowed = x.checksAllowed by unfold Port.checksAllowed; rw [check]]
    exact Nat.le_trans live h.live

theorem Port.Owed.of_same (h : Port.Owed n x l) (same : y.dues = x.dues) : Port.Owed n y l := h.of_dues same id (Nat.le_refl _)

/-- A port that gives up what it owes is quiet, given that its READs in flight are dropped. -/
theorem Port.quiet_dropReads (x : Port) (cards : allDropped n k) : x.dropReads.Quiet n k :=
  ⟨rfl, fun _ hq => (isRead_of_mem_writesOnly hq).2, cards⟩

theorem Port.owed_fencedBy (x : Port) (l : List Flight) (why : FenceReason) (off : Bool) :
    Port.Owed n (x.fencedBy why off) (markedFlights n (x.link && !off) l) := by
  have link : (x.fencedBy why off).link = (x.link && !off) := by
    unfold Port.fencedBy
    cases off <;> cases up : x.link <;> simp [Port.linkDown, up]
  refine .of_unlinked rfl (fun up => .inr ⟨rfl, ?_⟩) (fun down => ?_) rfl (liveChecks_markedFlights n _ l)
  · rw [link] at up
    show off = false
    exact Bool.not_eq_true' _ ▸ (Bool.and_eq_true_iff.mp up).2
  · have down : (x.link && !off) = false := link ▸ down.resolve_right nofun
    rw [down]
    have gone : ∀ z : Port, z.link = false → ((if z.link then z.refuseReads else z.dropReads) : Port) = z.dropReads := fun z cut => by
      rw [cut, if_neg Bool.false_ne_true]
    have cut : (if off then x.linkDown else x).link = false := by
      cases off
      · rwa [Bool.not_false, Bool.and_true] at down
      · rfl
    have quiet := (if off then x.linkDown else x).quiet_dropReads (allDropped_markedFlights n l)
    refine ⟨?_, ?_, quiet.cards⟩
    · show (if (if off then x.linkDown else x).link then (if off then x.linkDown else x).refuseReads
        else (if off then x.linkDown else x).dropReads).unsent = []
      rw [gone _ cut]
      exact quiet.unsent
    · show ∀ q ∈ (if (if off then x.linkDown else x).link then (if off then x.linkDown else x).refuseReads
        else (if off then x.linkDown else x).dropReads).queue, q.isRead = false
      rw [gone _ cut]
      exact quiet.queue

/-- What a quiet port keeps is quiet. -/
theorem Port.Quiet.of_same (h : x.Quiet n l) (unsent : y.unsent = x.unsent) (queue : y.queue = x.queue) : y.Quiet n l :=
  ⟨unsent.trans h.unsent, queue ▸ h.queue, h.cards⟩

theorem Port.retrained_cut (x : Port) (now : Nat) : (x.retrained now).link = false
    ∧ (x.retrained now).unsent = [] ∧ (x.retrained now).queue = writesOnly x.queue ∧ (x.retrained now).check = none := by
  unfold Port.retrained
  dsimp only
  split <;> exact ⟨rfl, rfl, rfl, rfl⟩

theorem Port.Owed.retrained (x : Port) (l : List Flight) (now : Nat) :
    Port.Owed n (x.retrained now) (markedFlights n false l) := by
  obtain ⟨link, unsent, queue, check⟩ := x.retrained_cut now
  refine .of_down (by rw [x.retrained_state now]; rfl) link ?_ check (liveChecks_markedFlights n false l)
  exact (x.quiet_dropReads (allDropped_markedFlights n l)).of_same unsent queue

/-- A slot of no link and no check record goes to a state of no link. -/
theorem Port.Owed.stays_down (quiet : x.Quiet n l) (none : x.check = none) (live : liveChecks n l = 0)
    (same : y.unsent = x.unsent ∧ y.queue = x.queue ∧ y.check = x.check) (state : y.state.linked = false) (link : y.link = false) :
    Port.Owed n y l := by
  obtain ⟨unsent, queue, check⟩ := same
  exact .of_down state link (quiet.of_same unsent queue) (check.trans none) live

theorem Port.powered_linked (x : Port) (now : Nat) : (x.powered now).state.linked = false := by
  unfold Port.powered
  dsimp only
  split <;> rfl

theorem Port.Owed.released (h : Port.Owed n x l) (fenced : x.state = .fenced) (enabled : Bool) (now : Nat) :
    Port.Owed n (x.released n enabled now) l := by
  have none := h.check_none (fenced ▸ nofun)
  have live := h.live_zero none
  have down : ∀ {y : Port}, x.link = false → y.unsent = x.unsent ∧ y.queue = x.queue ∧ y.check = x.check →
      y.state.linked = false → y.link = false → Port.Owed n y l := fun cut same =>
    .stays_down (h.quiet (.inl cut)) none live same
  unfold Port.released
  split
  · next power =>
    split
    · next up => exact .of_linked rfl up none live
    · next cut => exact down (Bool.eq_false_iff.mpr cut) ⟨rfl, rfl, rfl⟩ rfl rfl
  · next off =>
    have cut : x.link = false := by
      refine Classical.byContradiction fun up => ?_
      rcases h.link (Bool.not_eq_false _ ▸ up) with e | e | e
      · rw [fenced] at e
        cases e
      · rw [fenced] at e
        cases e
      · exact off e.2
    split
    · exact down cut ⟨rfl, rfl, rfl⟩ (Port.powered_linked _ _) rfl
    · split
      · exact down cut ⟨rfl, rfl, rfl⟩ (Port.powered_linked _ _) rfl
      · exact down cut ⟨rfl, rfl, rfl⟩ rfl rfl

theorem Port.Owed.left (h : Port.Owed n x l) (removing : x.state = .removing) (cycle : Bool) (now : Nat) :
    Port.Owed n (x.left n cycle now) l := by
  have none := h.check_none (removing ▸ nofun)
  have live := h.live_zero none
  have quiet := h.quiet (.inr removing)
  unfold Port.left
  dsimp only
  split
  · exact .stays_down quiet none live ⟨rfl, rfl, rfl⟩ rfl rfl
  · split
    · exact .stays_down quiet none live ⟨rfl, rfl, rfl⟩ (Port.powered_linked _ _) rfl
    · exact .stays_down quiet none live ⟨rfl, rfl, rfl⟩ rfl rfl

/-- The slot's link is down, and the step leads to a state of no link. -/
theorem Port.Owed.rests (h : Port.Owed n x l) (unlinked : x.state.linked = false) (removing : x.state ≠ .removing)
    (fenced : x.state ≠ .fenced) (same : y.unsent = x.unsent ∧ y.queue = x.queue ∧ y.check = x.check)
    (state : y.state.linked = false) (link : y.link = false) : Port.Owed n y l := by
  have none := h.check_none (fun e => by rw [e] at unlinked; cases unlinked)
  exact .stays_down (h.quiet (.inl (h.link_false unlinked removing fenced))) none (h.live_zero none) same state link

theorem Port.Owed.step (h : Port.Owed n x l) (move : Port.Step n x l y k) : Port.Owed n y k := by
  cases move with
  | fence _ why off => exact x.owed_fencedBy l why off
  | cutFence _ why => exact x.linkDown.owed_fencedBy l why false
  | remove cycle now =>
    refine .of_unlinked rfl (fun _ => .inl rfl) (fun _ => ?_) rfl (liveChecks_markedFlights n false l)
    exact (x.quiet_dropReads (allDropped_markedFlights n l)).of_same rfl rfl
  | retrain now => exact .retrained x l now
  | release fenced e now => exact h.released fenced e now
  | power rest now =>
    rcases rest with e | e <;>
      exact h.rests (by rw [e]; rfl) (e ▸ nofun) (e ▸ nofun) ⟨rfl, rfl, rfl⟩ (x.powered_linked now) rfl
  | standBy e => exact h.rests (by rw [e]; rfl) (e ▸ nofun) (e ▸ nofun) ⟨rfl, rfl, rfl⟩ rfl rfl
  | empty unserved =>
    rcases unserved with e | e | e <;> exact h.rests (by rw [e]; rfl) (e ▸ nofun) (e ▸ nofun) ⟨rfl, rfl, rfl⟩ rfl rfl
  | train e => exact h.rests (by rw [e]; rfl) (e ▸ nofun) (e ▸ nofun) ⟨rfl, rfl, rfl⟩ rfl rfl
  | quarantine e | waive e =>
    have none := h.check_none (e ▸ nofun)
    exact .of_linked rfl rfl none (h.live_zero none)
  | enroll e =>
    have none := h.check_none (e ▸ nofun)
    exact .of_linked rfl (h.linked (by rw [e]; rfl)) none (h.live_zero none)
  | leave removing cycle now => exact h.left removing cycle now
  | lose | settle | endWaiver | rekey => exact h.of_same rfl
  | cancel =>
    refine ⟨h.linked, h.link, fun off => ?_, nofun, ?_⟩
    · exact ⟨(h.quiet off).unsent, (h.quiet off).queue, allDropped_uncheckedFlights (h.quiet off).cards⟩
    · rw [liveChecks_uncheckedFlights]
      exact Nat.zero_le _
  | note _ same => exact h.of_same (congrArg Port.dues same :)

theorem Port.not_cut_off (link : x.link = true) (removing : x.state ≠ .removing) : ¬(x.link = false ∨ x.state = .removing) := by
  rintro (down | off)
  · rw [link] at down
    cases down
  · exact removing off

theorem Port.Owed.change {plan : Plan} (h : Port.Owed n x l) (change : Port.Change n plan x y) : Port.Owed n y l := by
  cases change with
  | accept q link credit passed =>
    have present : x.state ≠ .removing := by
      intro e
      unfold arrivalCheck at passed
      rw [e] at passed
      cases passed
    exact ⟨h.linked, h.link, fun off => absurd off (Port.not_cut_off link present), h.check, h.live⟩
  | refuse => exact ⟨h.linked, h.link, fun off => ⟨rfl, (h.quiet off).queue, (h.quiet off).cards⟩, h.check, h.live⟩
  | send =>
    unfold Port.sendOldest
    split
    · next r rest unsent =>
      refine ⟨h.linked, h.link, fun off => ?_, h.check, h.live⟩
      have none := (h.quiet off).unsent
      rw [unsent] at none
      cases none
    · exact h
  | check start e none =>
    exact ⟨h.linked, h.link, fun off => (h.quiet off).of_same rfl rfl, fun _ => e, h.live_zero none ▸ Nat.zero_le _⟩
  | link fenced power down =>
    have none := h.check_none (fenced ▸ nofun)
    refine .of_unlinked (by rw [Port.linkUp, fenced]; rfl) (fun _ => .inr ⟨fenced, power⟩) (fun off => ?_) none (h.live_zero none)
    exact absurd off (Port.not_cut_off rfl (fenced ▸ nofun))
  | drive | release => exact h.of_same rfl
  | note _ same => exact h.of_same (congrArg Port.dues same :)

theorem Port.Owed.drop (h : Port.Owed n x l) (waiting : x.state = .fenced ∨ x.state = .removing) (off : Bool) :
    Port.Owed n ({ x.linkDown with powerRemoved := off } : Port).dropReads (markFlights n false l) := by
  have none := h.check_none (fun e => by rw [e] at waiting; rcases waiting with e | e <;> cases e)
  refine .of_down ?_ rfl (Port.quiet_dropReads _ (allDropped_markFlights n l)) none
    ((liveChecks_markFlights n n false l).trans (h.live_zero none))
  show x.state.linked = false
  rcases waiting with e | e <;> rw [e] <;> rfl

theorem allDropped_of_cons {f : Flight} (h : allDropped n (f :: l)) : allDropped n l := fun g hg => h g (List.mem_cons_of_mem f hg)

theorem liveChecks_cons_le (f : Flight) (l : List Flight) : liveChecks n l ≤ liveChecks n (f :: l) := by
  unfold liveChecks
  exact (List.sublist_cons_self f l |>.filter _).length_le

theorem liveChecks_check (n : Slot) (data) (l : List Flight) :
    liveChecks n ({ purpose := .check n true, data := data } :: l) = liveChecks n l + 1 := by
  unfold liveChecks
  rw [List.filter_cons, if_pos (beq_self_eq_true _), List.length_cons]

/-- A live check read in flight: the check record stands in QUARANTINE, and no other is live (R59, R61). -/
theorem Port.Owed.of_live {data} (h : Port.Owed n x ({ purpose := .check n true, data := data } :: l)) :
    x.state = .quarantine ∧ liveChecks n l = 0 := by
  have live := h.live
  rw [liveChecks_check] at live
  have one : x.checksAllowed ≤ 1 := by
    unfold Port.checksAllowed
    split
    · split <;> omega
    · omega
  refine ⟨h.check ?_, by omega⟩
  refine Classical.byContradiction fun none => ?_
  rw [Port.checksAllowed_of_none (Option.not_isSome_iff_eq_none.mp none)] at live
  omega

theorem Port.Owed.judge {data} (h : Port.Owed n x ({ purpose := .check n true, data := data } :: l)) (judged : x.Judged y) :
    Port.Owed n y l := by
  obtain ⟨state, live⟩ := h.of_live
  have up : x.link = true := h.linked (by rw [state]; rfl)
  cases judged with
  | failed => exact .of_linked (by rw [state]; rfl) up rfl live
  | passed | admitted => exact .of_linked rfl up rfl live

theorem Port.Owed.answer {t : Tag} {a b err : Bool} {data data'} (h : Port.Owed n x ({ purpose := .card n t a b, data := data } :: l)) :
    Port.Owed n (x.answered t (x.answers t a b err data')) l := by
  refine ⟨h.linked, h.link, fun off => ?_, h.check, Nat.le_trans (liveChecks_cons_le _ l) h.live⟩
  have quiet := h.quiet off
  have dropped : b = true := quiet.cards _ List.mem_cons_self t a b rfl
  have none : x.answers t a b err data' = [] := if_pos dropped
  refine ⟨?_, quiet.queue, allDropped_of_cons quiet.cards⟩
  show x.unsent ++ x.answers t a b err data' = []
  rw [none, quiet.unsent]
  rfl

theorem Port.Owed.grantCheck {c : CheckRecord} {data} (record : x.check = some c) (idle : c.inFlight = false) (h : Port.Owed n x l) :
    Port.Owed n { x with check := some { c with inFlight := true } } (l ++ [{ purpose := .check n true, data := data }]) := by
  have state : x.state = .quarantine := h.check (by rw [record]; rfl)
  have live : liveChecks n l = 0 := by
    have allowed := h.live
    unfold Port.checksAllowed at allowed
    rw [record] at allowed
    dsimp only at allowed
    rw [idle] at allowed
    exact Nat.le_zero.mp allowed
  have up : x.link = true := h.linked (by rw [state]; rfl)
  refine ⟨h.linked, h.link, fun off => absurd off (Port.not_cut_off up (state ▸ nofun)), fun _ => state, ?_⟩
  unfold liveChecks at live ⊢
  rw [List.filter_append, List.length_append, live]
  exact Nat.add_le_add_left (List.length_filter_le _ _) 0

/-- A granted request leaves the queue: a READ only while its card is owed its response (R9, R12). -/
theorem Port.Owed.grantRead {q : Request} {rest : List Request} {data} (queue : x.queue = q :: rest) (read : q.isRead = true)
    (h : Port.Owed n x l) :
    Port.Owed n (x.served rest) (l ++ [{ purpose := .card n q.tag false false, data := data }]) := by
  refine ⟨h.linked, h.link, fun off => ?_, h.check, ?_⟩
  · have write := (h.quiet off).queue q (queue ▸ List.mem_cons_self)
    rw [read] at write
    cases write
  · have same : liveChecks n (l ++ [{ purpose := .card n q.tag false false, data := data }]) = liveChecks n l := by
      unfold liveChecks
      rw [List.filter_append]
      exact congrArg _ (List.append_nil _)
    rw [same]
    exact h.live

theorem Port.Owed.grantWrite {q : Request} {rest : List Request} (queue : x.queue = q :: rest) (tags : List Tag)
    (h : Port.Owed n x l) : Port.Owed n { x.served rest with tags := tags } l := by
  refine ⟨h.linked, h.link, fun off => ?_, h.check, h.live⟩
  have quiet := h.quiet off
  exact ⟨quiet.unsent, fun r hr => quiet.queue r (queue ▸ List.mem_cons_of_mem q hr), quiet.cards⟩

end owed

theorem Port.law_owed : Port.Law Port.Owed where
  counters same h := h.of_same (congrArg Port.dues same :)
  flights {n _ l k} same h := by
    refine h.of_dues rfl (fun cards => ?_) (Nat.le_of_eq ?_)
    · rwa [← allDropped_iff_filter, same, allDropped_iff_filter]
    · rw [← liveChecks_filter, same, liveChecks_filter]
  step move h := h.step move
  change change h := h.change change
  drop {_ x _} waiting h := h.drop waiting x.powerRemoved
  powerOff fenced h := h.drop (.inl fenced) true
  beat _ _ _ h := h.of_same rfl
  answer h := h.answer
  judge h judged := h.judge judged
  stale h := h.of_dues rfl allDropped_of_cons (liveChecks_cons_le _ _)
  grantCheck record idle h := h.grantCheck record idle
  grantRead queue read h := h.grantRead queue read
  grantWrite queue _ h := h.grantWrite queue _
  tick _ _ h := h.of_same rfl
  held _ := by
    have none : ∀ n : Slot, allDropped n [] := fun _ _ hf => nomatch hf
    unfold Port.held
    split <;> exact .of_down rfl rfl ⟨rfl, fun _ hq => (nomatch hq), none _⟩ rfl rfl

/-! ### The request side -/

theorem Part.openTags_eq (p : Part) (n : Slot) : p.openTags n = p.ports[n].waitingTags ++ cardTags n p.flights := by
  unfold Part.openTags Port.waitingTags cardTags
  refine congrArg _ (filterMap_eq_of_forall fun f _ => ?_)
  obtain ⟨purpose, data⟩ := f
  cases purpose <;> rfl

theorem Part.tagsSound_iff (p : Part) (n : Slot) : p.tagsSound n ↔ Port.Tagged n p.ports[n] p.flights := by
  unfold Part.tagsSound Port.Tagged
  rw [Part.openTags_eq]
  exact ⟨fun ⟨once, nodup, mem⟩ => ⟨once, nodup, mem⟩, fun ⟨once, nodup, mem⟩ => ⟨once, nodup, mem⟩⟩

theorem Part.owed_iff (p : Part) (n : Slot) : p.answersSound n ∧ p.checkSound n ↔ Port.Owed n p.ports[n] p.flights := by
  constructor
  · rintro ⟨⟨linked, link, quiet⟩, check, live⟩
    exact ⟨linked, link, fun off => ⟨(quiet off).1, (quiet off).2.1, (quiet off).2.2⟩, check, live⟩
  · rintro ⟨linked, link, quiet, check, live⟩
    exact ⟨⟨linked, link, fun off => ⟨(quiet off).unsent, (quiet off).queue, (quiet off).cards⟩⟩, check, live⟩

theorem Part.portsSound_iff (p : Part) :
    p.portsSound ↔ p.Obeys Port.Flows ∧ p.Obeys Port.Tagged ∧ p.Obeys Port.Owed := by
  unfold Part.portsSound Part.Obeys
  constructor
  · intro h
    refine ⟨fun n => (h n).1, fun n => (p.tagsSound_iff n).mp (h n).2.1, fun n => (p.owed_iff n).mp (h n).2.2⟩
  · rintro ⟨flows, tagged, owed⟩ n
    exact ⟨flows n, (p.tagsSound_iff n).mpr (tagged n), (p.owed_iff n).mpr (owed n)⟩

/-- Settles O5. -/
theorem stepKeepsRequestSideSound : Obligations.StepKeepsRequestSideSound := by
  unfold Obligations.StepKeepsRequestSideSound
  refine ⟨fun s t h run => ?_, fun _ _ => step_keeps_identitiesSound⟩
  obtain ⟨flows, tagged, owed⟩ := (Part.portsSound_iff s.part).mp h
  exact (Part.portsSound_iff t.part).mpr ⟨Part.obeys_step Port.law_flows flows run, Part.obeys_step Port.law_tagged tagged run,
    Part.obeys_step Port.law_owed owed run⟩

end Sys2Proof.Machine
end


section
/-! PROOFS. Laws of the alarm points: what their owners' conditions rest on (Tables 9-2 and 9-3), and how a law that every report, event
and timer of a point keeps is kept by what the slots do (R165 to R170). -/
namespace Sys2Proof.Machine

/-! ### What the conditions rest on -/

/-- What the alarm conditions take of the clock (R138). -/
def Clock.signs (k : Clock) : RefState × RefState × ClockState × Bool :=
  (k.refA.state, k.refB.state, k.state, k.holdoverReached)

theorem Part.condition_high {p q : Part} {i : Point} (high : 72 ≤ i.val) (plan : q.plan = p.plan) (env : q.env = p.env)
    (discards : q.alarm.discards = p.alarm.discards) (signs : q.clock.signs = p.clock.signs) : q.condition i = p.condition i := by
  obtain ⟨refA, refB, state, reached⟩ : q.clock.refA.state = p.clock.refA.state ∧ q.clock.refB.state = p.clock.refB.state
      ∧ q.clock.state = p.clock.state ∧ q.clock.holdoverReached = p.clock.holdoverReached := by simpa [Clock.signs] using signs
  unfold Part.condition
  rw [dif_neg (Nat.not_lt.mpr high), dif_neg (Nat.not_lt.mpr high), plan, env, discards, refA, refB, state, reached]

/-- The clock's part in the conditions is told by its own points (R138). -/
theorem Part.condition_besidesClock {p q : Part} {i : Point} (high : 72 ≤ i.val) (foreign : i ∉ clockPoints)
    (plan : q.plan = p.plan) (env : q.env = p.env) (discards : q.alarm.discards = p.alarm.discards) :
    q.condition i = p.condition i := by
  have ne : i.val ≠ 72 ∧ i.val ≠ 73 ∧ i.val ≠ 74 ∧ i.val ≠ 75 ∧ i.val ≠ 76 := by
    simp only [clockPoints, List.mem_cons, List.not_mem_nil, not_or, or_false, Fin.ext_iff] at foreign
    exact foreign
  unfold Part.condition
  rw [dif_neg (Nat.not_lt.mpr high), dif_neg (Nat.not_lt.mpr high), plan, env, discards]
  split
  · rfl
  · split <;> grind

theorem Part.condition_low {i : Point} (low : i.val < 72) (p : Part) :
    p.condition i = p.slotCondition ⟨i.val / 6, by omega⟩ (i.val % 6) := dif_pos low

theorem Part.condition_slotPoint (n : Slot) (k : Fin 6) (p : Part) : p.condition (slotPoint n k) = p.slotCondition n k.val := by
  have low : (slotPoint n k).val < 72 := by
    show n.val * 6 + k.val < 72
    omega
  have slot : (⟨(slotPoint n k).val / 6, by omega⟩ : Slot) = n := Fin.ext (by show (n.val * 6 + k.val) / 6 = n.val; omega)
  have kind : (slotPoint n k).val % 6 = k.val := by show (n.val * 6 + k.val) % 6 = k.val; omega
  rw [Part.condition_low low, slot, kind]

theorem eq_slotPoint_of_low {i : Point} (low : i.val < 72) : ∃ n k, i = slotPoint n k :=
  ⟨⟨i.val / 6, by omega⟩, ⟨i.val % 6, by omega⟩, Fin.ext (by show i.val = i.val / 6 * 6 + i.val % 6; omega)⟩

/-- The points whose condition a slot event may change (R65). -/
def eventPoints : List Point := (List.finRange 12).flatMap slotPoints ++ clockPoints

/-- A slot's other points are event-type points. -/
theorem Part.condition_none_of_slotPoint {n : Slot} {k : Fin 6} (foreign : slotPoint n k ∉ eventPoints) (p : Part) :
    p.condition (slotPoint n k) = none := by
  have out : slotPoint n k ∉ slotPoints n := fun h =>
    foreign (List.mem_append_left _ (List.mem_flatMap.mpr ⟨n, List.mem_finRange n, h⟩))
  simp only [slotPoints, List.mem_cons, List.not_mem_nil, not_or, or_false] at out
  obtain ⟨ne0, ne1, ne2, ne3⟩ := out
  rw [Part.condition_slotPoint]
  match k with
  | 0 => exact absurd rfl ne0
  | 1 => exact absurd rfl ne1
  | 2 => exact absurd rfl ne2
  | 3 => exact absurd rfl ne3
  | 4 | 5 => rfl

/-! ### Changes that leave the points alone -/

/-- `q` has the plan and the alarm points of `p`, and while it runs no condition is another but those of the points in `l`. -/
structure Part.Drifts (l : List Point) (p q : Part) : Prop where
  plan : q.plan = p.plan
  points : q.alarm.points = p.alarm.points
  senses : q.running = true → p.running = true ∧ ∀ i, i ∉ l → q.condition i = p.condition i

theorem Part.Drifts.refl (l : List Point) (p : Part) : p.Drifts l p := ⟨rfl, rfl, fun on => ⟨on, fun _ _ => rfl⟩⟩

theorem Part.Drifts.more {l m : List Point} {p q : Part} (h : p.Drifts l q) (sub : ∀ i ∈ l, i ∈ m) : p.Drifts m q :=
  ⟨h.plan, h.points, fun on => ⟨(h.senses on).1, fun i out => (h.senses on).2 i fun mem => out (sub i mem)⟩⟩

theorem Part.Drifts.trans {l : List Point} {p q r : Part} (h : p.Drifts l q) (h' : q.Drifts l r) : p.Drifts l r := by
  refine ⟨h'.plan.trans h.plan, h'.points.trans h.points, fun on => ?_⟩
  obtain ⟨mid, second⟩ := h'.senses on
  obtain ⟨first, same⟩ := h.senses mid
  exact ⟨first, fun i out => (second i out).trans (same i out)⟩

/-- Nothing that a condition rests on has changed. -/
theorem Part.Drifts.of_same {l : List Point} {p q : Part} (plan : q.plan = p.plan) (points : q.alarm.points = p.alarm.points)
    (running : q.running = p.running) (same : ∀ i, i ∉ l → q.condition i = p.condition i) : p.Drifts l q :=
  ⟨plan, points, fun on => ⟨running ▸ on, same⟩⟩

/-- What the conditions take of the part besides slots and rings, with the points and whether the part runs. -/
def Part.outlook (p : Part) : Plan × Vector Contact 8 × Vector AlarmPoint 89 × Nat × Bool × RefState × RefState × ClockState × Bool :=
  (p.plan, p.env, p.alarm.points, p.alarm.discards, p.running, p.clock.signs)

theorem Part.outlook_of_frame {p q : Part} (h : q.frame = p.frame) : q.outlook = p.outlook := (congrArg Part.outlook h :)

theorem Part.outlook_eq_iff {p q : Part} : q.outlook = p.outlook ↔ q.plan = p.plan ∧ q.env = p.env
    ∧ q.alarm.points = p.alarm.points ∧ q.alarm.discards = p.alarm.discards ∧ q.running = p.running
    ∧ q.clock.signs = p.clock.signs := by
  simp only [Part.outlook, Prod.mk.injEq]

/-- The outlook and the slots' states are the same, and the lost heartbeats and high flags but for points in `l`. -/
theorem Part.Drifts.of_outlook_but {l : List Point} {p q : Part} (outlook : q.outlook = p.outlook)
    (state : ∀ n : Slot, q.ports[n].state = p.ports[n].state)
    (lost : ∀ n : Slot, slotPoint n 2 ∈ l ∨ q.ports[n].heartbeat.lost = p.ports[n].heartbeat.lost)
    (high : ∀ n : Slot, slotPoint n 3 ∈ l ∨ ∀ c, q.rings[ingressRing n c].high = p.rings[ingressRing n c].high) :
    p.Drifts l q := by
  obtain ⟨plan, env, points, discards, running, signs⟩ := Part.outlook_eq_iff.mp outlook
  refine .of_same plan points running fun i foreign => ?_
  by_cases low : i.val < 72
  · obtain ⟨n, k, rfl⟩ := eq_slotPoint_of_low low
    rw [Part.condition_slotPoint, Part.condition_slotPoint]
    match k with
    | 0 =>
      show some (q.plan.slots[n].expected && !(q.ports[n].state == .admitted))
        = some (p.plan.slots[n].expected && !(p.ports[n].state == .admitted))
      rw [plan, state]
    | 1 => exact congrArg (fun st => some (st == SlotState.fenced)) (state n)
    | 2 => exact congrArg some ((lost n).resolve_left foreign)
    | 3 => exact congrArg (fun f => some (anyFin 4 f)) (funext ((high n).resolve_left foreign))
    | 4 | 5 => rfl
  · exact Part.condition_high (Nat.not_lt.mp low) plan env discards signs

/-- The outlook, the slots' states, their lost heartbeats and their high flags are the same. -/
theorem Part.Drifts.of_outlook {l : List Point} {p q : Part} (outlook : q.outlook = p.outlook)
    (state : ∀ n : Slot, q.ports[n].state = p.ports[n].state)
    (lost : ∀ n : Slot, q.ports[n].heartbeat.lost = p.ports[n].heartbeat.lost)
    (high : ∀ r : RingNo, q.rings[r].high = p.rings[r].high) : p.Drifts l q :=
  .of_outlook_but outlook state (fun n => .inr (lost n)) fun _ => .inr fun _ => high _

/-- Ports and rings are the same, and the outlook. -/
theorem Part.Drifts.of_tables {l : List Point} {p q : Part} (outlook : q.outlook = p.outlook) (ports : q.ports = p.ports)
    (rings : q.rings = p.rings) : p.Drifts l q :=
  .of_outlook outlook (fun n => congrArg (fun v : Vector Port 12 => v[n].state) ports)
    (fun n => congrArg (fun v : Vector Port 12 => v[n].heartbeat.lost) ports)
    fun r => congrArg (fun v : Vector Ring 96 => v[r].high) rings

theorem Part.Drifts.of_exchange {l : List Point} {p q : Part} (h : q.besidesExchange = p.besidesExchange) : p.Drifts l q := by
  refine .of_outlook (Part.outlook_of_frame (Part.frame_of_exchange h)) (Part.state_of_exchange h) (fun n => ?_) (Part.high_of_exchange h)
  exact (congrArg (fun x : Port => x.heartbeat.lost) (Part.port_of_exchange h n) :)

/-- A change of the frame's others alone reaches the points of a slot event at most. -/
theorem Part.Drifts.of_event {p q : Part} (frame : q.frame = p.frame) : p.Drifts eventPoints q := by
  obtain ⟨plan, env, points, discards, running, signs⟩ := Part.outlook_eq_iff.mp (Part.outlook_of_frame frame)
  refine .of_same plan points running fun i foreign => ?_
  by_cases low : i.val < 72
  · obtain ⟨n, k, rfl⟩ := eq_slotPoint_of_low low
    rw [Part.condition_none_of_slotPoint foreign, Part.condition_none_of_slotPoint foreign]
  · exact Part.condition_high (Nat.not_lt.mp low) plan env discards signs

/-- A change of the clock alone reaches the clock's points at most (R138). -/
theorem Part.Drifts.of_clock {l : List Point} (clocks : ∀ i ∈ clockPoints, i ∈ l) (k : Clock) (p : Part) :
    p.Drifts l (p.withClock k) := by
  refine .of_same rfl rfl rfl fun i foreign => ?_
  by_cases low : i.val < 72
  · rw [Part.condition_low low, Part.condition_low low]
    rfl
  · exact Part.condition_besidesClock (Nat.not_lt.mp low) (fun clock => foreign (clocks i clock)) rfl rfl rfl

theorem Part.modPort_view {A : Type} (view : Port → A) {n : Slot} {f : Port → Port} {p : Part}
    (own : view (f p.ports[n]) = view p.ports[n]) (m : Slot) : view (p.modPort n f).ports[m] = view p.ports[m] := by
  by_cases e : n = m
  · subst e
    rw [Part.modPort_self]
    exact own
  · rw [Part.modPort_ne e]

/-- One port is another, in the same state and with its heartbeat lost or not as before. -/
theorem Part.Drifts.of_port {l : List Point} {n : Slot} {f : Port → Port} {p : Part}
    (state : (f p.ports[n]).state = p.ports[n].state) (lost : (f p.ports[n]).heartbeat.lost = p.ports[n].heartbeat.lost) :
    p.Drifts l (p.modPort n f) :=
  .of_outlook rfl (Part.modPort_view Port.state state) (Part.modPort_view (·.heartbeat.lost) lost) fun _ => rfl

theorem Part.drifts_dropRequests (l : List Point) (n : Slot) (p : Part) : p.Drifts l (p.dropRequests n) :=
  (Part.Drifts.of_tables (p := p) (q := { p with flights := markFlights n false p.flights }) rfl rfl rfl).trans
    (.of_port (n := n) (f := Port.dropReads) rfl rfl)

/-- A valid heartbeat reaches the slot's HEARTBEAT_LOST point alone (R73). -/
theorem Part.drifts_beat (n : Slot) (f : Port → Port) {p : Part} (state : (f p.ports[n]).state = p.ports[n].state) :
    p.Drifts [slotPoint n 2] (p.modPort n f) := by
  refine .of_outlook_but rfl (Part.modPort_view Port.state state) (fun m => ?_) fun _ => .inr fun _ => rfl
  by_cases e : n = m
  · exact .inl (e ▸ List.mem_singleton_self _)
  · exact .inr (by rw [Part.modPort_ne e])

theorem Port.Change.senses {n : Slot} {plan : Plan} {x y : Port} (h : x.Change n plan y) :
    y.state = x.state ∧ y.heartbeat = x.heartbeat := by
  cases h with
  | send =>
    unfold Port.sendOldest
    split <;> exact ⟨rfl, rfl⟩
  | note _ same => exact ⟨(congrArg Port.state same :), (congrArg Port.heartbeat same :)⟩
  | _ => exact ⟨rfl, rfl⟩

/-! ### Laws of the alarm points -/

/-- `P l` is a law of the part that the points in `l` may fail for now: it keeps to the points, the plan and the conditions, a report
of points brings it back for them, and events, timers and holds of points keep it. What a point can take with it to another plan
is `W`, and a fresh integration brings the law back. -/
structure Part.AlarmLaw (P : List Point → Part → Prop) (W : Part → Prop) : Prop where
  drift : ∀ {l p q}, Part.Drifts l p q → P l p → P l q
  more : ∀ {l p} (m), P l p → P (m ++ l) p
  report : ∀ {l p} (m), P (m ++ l) p → P l (p.report m)
  event : ∀ {l p i}, p.condition i = none → P l p → P l (p.raiseEvent i)
  raise : ∀ {p i}, p.raiseDue i = true → P [] p → P [] (p.raisePoint i)
  clear : ∀ {p i}, p.clearDue i = true → P [] p → P [] (p.clearPoint i)
  endHold : ∀ {p i}, p.condition i = none → P [] p → P [] (p.endHold i)
  weak : ∀ {p}, P [] p → W p
  weak_same : ∀ {p q}, q.alarm.points = p.alarm.points → W p → W q
  fresh : ∀ {p}, W p → P [] p.reintegrate
  held : ∀ kind control p, P [] (Part.underReset kind control p)

section law
variable {P : List Point → Part → Prop} {W : Part → Prop} (law : Part.AlarmLaw P W)
include law

theorem Part.AlarmLaw.reported {p : Part} (m : List Point) (h : P m p) : P [] (p.report m) :=
  law.report m (by rwa [List.append_nil])

theorem Part.AlarmLaw.stale {p : Part} (m : List Point) (h : P [] p) : P m p := by
  have more := law.more m h
  rwa [List.append_nil] at more

theorem Part.AlarmLaw.exchange {l : List Point} {p q : Part} (same : q.besidesExchange = p.besidesExchange) (h : P l p) : P l q :=
  law.drift (.of_exchange same) h

theorem Part.AlarmLaw.settleSlots (old : Engine) {p : Part} (h : P eventPoints p) : P [] (p.settleSlots old) := by
  unfold Part.settleSlots
  refine law.reported eventPoints (law.exchange (Part.besidesExchange_settleExchange _ _) (law.drift ?_ h))
  exact .of_clock (fun i clock => List.mem_append_right _ clock) _ p

omit law in
theorem slotPoint_no_event (n : Slot) (p : Part) :
    p.condition (violationPoint n) = none ∧ p.condition (ringFaultPoint n) = none :=
  ⟨Part.condition_slotPoint n 5 p, Part.condition_slotPoint n 4 p⟩

/-- A run of moves of a slot event, with its points still to be reported (R65). -/
theorem Part.AlarmLaw.moves {n : Slot} {p q : Part} (moves : p.SlotMoves n q) (h : P eventPoints p) : P eventPoints q := by
  refine moves.keeps (fun a b move ha => ?_) h
  rcases move.frame with same | ⟨i, own, rfl⟩
  · exact law.drift (.of_event same) ha
  · exact law.event (own ▸ (slotPoint_no_event n a).1) ha

/-- The deeds of a slot keep a law of the alarm points. -/
theorem Part.AlarmLaw.deeds {n : Slot} {p q : Part} (deeds : p.SlotDeeds n q) (h : P [] p) : P [] q := by
  refine deeds.keeps (fun a b deed ha => ?_) h
  cases deed with
  | event r moves => exact law.settleSlots _ (law.moves moves (law.stale _ ha))
  | change f change => exact law.drift (.of_port change.senses.1 (congrArg Heartbeat.lost change.senses.2)) ha
  | drop _ => exact law.drift ((Part.Drifts.of_port rfl rfl).trans (Part.drifts_dropRequests [] n _)) ha
  | powerOff _ => exact law.drift ((Part.Drifts.of_port rfl rfl).trans (Part.drifts_dropRequests [] n _)) ha
  | beat v _ =>
    refine law.reported _ (law.exchange (Part.besidesExchange_settleExchange _ _) ?_)
    exact law.drift (Part.drifts_beat n (·.beaten v a.now) rfl) (law.stale _ ha)
  | word k v => exact law.drift (.of_tables (p := a) rfl rfl rfl) ha

end law

end Sys2Proof.Machine
end


section
/-! PROOFS. Every event but an activation and the resets keeps a law of the alarm points (R165 to R172). -/
namespace Sys2Proof.Machine

/-! ### What the events of the other blocks do to the conditions -/

theorem Part.drifts_modRing (l : List Point) {r : RingNo} {f : Ring → Ring} {p : Part} (high : (f p.rings[r]).high = p.rings[r].high) :
    p.Drifts l (p.modRing r f) := by
  refine .of_outlook rfl (fun _ => rfl) (fun _ => rfl) fun q => ?_
  by_cases e : r = q
  · subst e
    rw [Part.modRing_self]
    exact high
  · rw [Part.modRing_ne e]

/-- The high flag of a ring is told by its slot's INGRESS_HIGH point alone (R97). -/
theorem Part.drifts_high (r : RingNo) (f : Ring → Ring) (p : Part) : p.Drifts [slotPoint (ringSlot r) 3] (p.modRing r f) := by
  refine .of_outlook_but rfl (fun _ => rfl) (fun _ => .inr rfl) fun n => ?_
  by_cases e : ringSlot r = n
  · exact .inl (e ▸ List.mem_singleton_self _)
  · refine .inr fun c => ?_
    have ne : r ≠ ingressRing n c := by
      rintro rfl
      exact e (ringSlot_ingressRing n c)
    rw [Part.modRing_ne ne]

theorem Part.drifts_reviewHigh (r : RingNo) (p : Part) : p.Drifts [slotPoint (ringSlot r) 3] (p.reviewHigh r) := by
  unfold Part.reviewHigh
  split
  · exact .refl _ p
  · exact Part.drifts_high r _ p

theorem Part.drifts_retire (l : List Point) (r : RingNo) (k : Nat) (p : Part) : p.Drifts l (p.retire r k) := by
  have port : ∀ {A : Type} (view : Port → A) (n : Slot), view (p.retire r k).ports[n] = view p.ports[n] := fun view n =>
    congrArg (fun v : Vector Port 12 => view v[n]) (Part.retire_ports r k p)
  refine .of_outlook (Part.outlook_of_frame (Part.frame_retire r k p)) (port Port.state) (port (·.heartbeat.lost)) fun q => ?_
  by_cases e : r = q
  · subst e
    rw [Part.retire_ring_self]
    rfl
  · rw [Part.retire_ring_ne e]

theorem Part.drifts_takeFrame (l : List Point) (r : RingNo) (h : FrameHeader) (p : Part) : p.Drifts l (p.takeFrame r h) := by
  have charged : p.Drifts l (p.chargeTake r h) := .of_exchange (p.sameRings_chargeTake r h).2
  rw [Part.takeFrame_eq]
  split
  · exact charged.trans (Part.drifts_retire _ _ _ _)
  · exact charged.trans (.of_exchange (Part.besidesExchange_setTake _ _ _))

theorem Part.drifts_abandonRing (l : List Point) (r : RingNo) (p : Part) : p.Drifts l (p.abandonRing r) := by
  unfold Part.abandonRing
  refine (Part.drifts_modRing l (r := r) (f := fun x => { x with consumer := x.producer }) rfl).trans (.of_exchange ?_)
  rw [Part.besidesExchange_setTake, Part.besidesExchange_modCounters, Part.besidesExchange_writeIndex]

theorem Part.drifts_deliver (c : Copy) (p : Part) : p.Drifts [slotPoint c.dest 3] (p.deliver c) := by
  cases head : p.headRecord c.ring with
  | some h =>
    have filled := Part.drifts_high (ingressRing c.dest (ringClass c.ring)) (fun _ => p.filled c h) p
    rw [ringSlot_ingressRing] at filled
    rw [Part.deliver_of_head head]
    refine (filled.trans (.of_exchange (Part.besidesExchange_stowed c h p))).trans (.of_exchange ?_)
    exact Part.besidesExchange_keepOthers (Part.egress_of_headRecord head) h _
  | none =>
    unfold Part.deliver
    rw [head]
    exact .of_exchange (Part.besidesExchange_endCopy p)

theorem Part.drifts_choose (l : List Point) (p : Part) : p.Drifts l p.choose := by
  unfold Part.choose
  split
  · refine .of_exchange ((Part.besidesExchange_settleExchange _ _).trans ((Part.besidesExchange_serveHead _ _).trans ?_))
    exact Part.besidesExchange_modEngine _ _ rfl
  · exact .refl l p

theorem Part.drifts_expireHead (l : List Point) (r : RingNo) (p : Part) : p.Drifts l (p.expireHead r) := by
  unfold Part.expireHead
  split
  · next h head =>
    have kept : p.Drifts l (p.keepDests r h .holdExpired fun _ => false) :=
      .of_exchange (Part.besidesExchange_keepDests (Part.egress_of_headRecord head) h _ _ p)
    dsimp only
    split
    · split
      · exact kept.trans (.of_exchange (Part.besidesExchange_endBatch _ _))
      · exact kept
    · exact kept
  · exact .refl l p

theorem Part.drifts_emitted (l : List Point) (k : TickKind) (n : Nat) (p : Part) : p.Drifts l (p.emitted k n) := by
  have port : ∀ {A : Type} (view : Port → A) (m : Slot),
      view { p.ports[m] with strobe := p.ports[m].strobe.tick p.plan.slots[m] p.osc } = view p.ports[m] →
        view (p.emitted k n).ports[m] = view p.ports[m] := by
    intro A view m same
    rw [Part.emitted_port]
    split
    · exact same
    · rfl
  exact .of_outlook rfl (fun m => port Port.state m rfl) (fun m => port (·.heartbeat.lost) m rfl) fun _ => rfl

/-- The tally of the closed second is told by point 80 alone (R166). -/
theorem Part.drifts_closeTally (p : Part) : p.Drifts [80] p.closeTally := by
  refine .of_same rfl rfl rfl fun i foreign => ?_
  have ne : i.val ≠ 80 := fun e => foreign (List.mem_singleton.mpr (Fin.ext e))
  unfold Part.condition
  split
  · rfl
  · split
    · rfl
    · split <;> grind [Part.closeTally]

theorem Part.drifts_mark (l : List Point) (k : RecordNo) (p : Part) : p.Drifts l (p.mark k) := .of_tables rfl rfl rfl

theorem Part.drifts_markSecond (l : List Point) (p : Part) : p.Drifts l p.markSecond := by
  unfold Part.markSecond
  exact forEach_invariant (p.Drifts l) 14 _ (fun k q h => h.trans (Part.drifts_mark l _ q)) p (.refl l p)

/-! ### The events -/

section law
variable {P : List Point → Part → Prop} {W : Part → Prop} (law : Part.AlarmLaw P W)
include law

theorem Part.AlarmLaw.settleExchange {l : List Point} (old : Engine) {p : Part} (h : P l p) : P l (p.settleExchange old) :=
  law.exchange (Part.besidesExchange_settleExchange old p) h

/-- What touches none of ports, rings and outlook. -/
theorem Part.AlarmLaw.tables {l : List Point} {p q : Part} (outlook : q.outlook = p.outlook) (ports : q.ports = p.ports)
    (rings : q.rings = p.rings) (h : P l p) : P l q := law.drift (.of_tables outlook ports rings) h

theorem Part.AlarmLaw.complete (rest : List Flight) (err : Bool) {p : Part} (h : P [] p) : P [] (p.complete rest err) := by
  have left : P [] { p with flights := rest } := law.tables (p := p) rfl rfl rfl h
  unfold Part.complete
  dsimp only
  split
  · exact law.event rfl left
  · exact left

theorem Part.AlarmLaw.cardReadDone (err : Bool) {p : Part} (h : P [] p) : P [] (p.cardReadDone err) := by
  unfold Part.cardReadDone
  split
  · rw [Part.completeCard_eq]
    exact law.drift (.of_port rfl rfl) (law.complete _ err h)
  · exact h

theorem Part.AlarmLaw.checkReadDone (err : Bool) {p : Part} (h : P [] p) : P [] (p.checkReadDone err) := by
  unfold Part.checkReadDone
  split
  · next rest _ =>
    have completed := law.complete rest err h
    dsimp only
    split
    · exact law.settleSlots _ (law.drift (.of_event (Part.frame_judgeCheck _ _ _ _)) (law.stale _ completed))
    · exact completed
  · exact h

theorem Part.AlarmLaw.ringFault (n : Slot) {p : Part} (h : P [] p) : P [] (p.ringFault n) := by
  unfold Part.ringFault
  exact law.event (slotPoint_no_event n _).2 (law.drift (.of_port rfl rfl) h)

theorem Part.AlarmLaw.judgeProducer (r : RingNo) (v : BitVec 16) {p : Part} (h : P [] p) : P [] (p.judgeProducer r v) := by
  unfold Part.judgeProducer
  split
  · exact h
  · split
    · refine law.settleExchange _ (law.exchange (Part.besidesExchange_takeProducer r v p) ?_)
      exact law.drift (Part.drifts_modRing [] rfl) h
    · exact law.ringFault _ h

theorem Part.AlarmLaw.judgeConsumer (r : RingNo) (v : BitVec 16) {p : Part} (h : P [] p) : P [] (p.judgeConsumer r v) := by
  unfold Part.judgeConsumer
  split
  · exact h
  · split
    · refine law.reported _ (law.settleExchange _ ?_)
      exact law.drift ((Part.drifts_high r _ p).trans (Part.drifts_reviewHigh r _)) (law.stale _ h)
    · exact law.ringFault _ h

theorem Part.AlarmLaw.headerDone (r : RingNo) (err : Bool) (data : List Byte) {p : Part} (h : P [] p) :
    P [] (p.headerDone r err data) := by
  have waiting : P [] (p.setTake r .waiting) := law.exchange (Part.besidesExchange_setTake _ _ _) h
  unfold Part.headerDone
  dsimp only
  split
  · exact h
  · split
    · exact waiting
    · split
      · rw [Part.malformedHeader_eq]
        exact law.event (slotPoint_no_event _ _).2 (law.drift (Part.drifts_abandonRing [] r p) h)
      · split
        · exact waiting
        · exact law.drift (Part.drifts_takeFrame [] r _ p) h

theorem Part.AlarmLaw.headerReadDone (err : Bool) {p : Part} (h : P [] p) : P [] (p.headerReadDone err) := by
  unfold Part.headerReadDone
  split
  · exact law.settleExchange _ (law.headerDone _ _ _ (law.complete _ err h))
  · exact h

theorem Part.AlarmLaw.copyReadDone (err : Bool) {p : Part} (h : P [] p) : P [] (p.copyReadDone err) := by
  unfold Part.copyReadDone
  split
  · next rest _ _ _ =>
    have completed := law.complete rest err h
    refine law.settleExchange _ ?_
    split
    · exact law.exchange (Part.besidesExchange_copyReadError _ _) completed
    · exact law.exchange (Part.besidesExchange_copyBlockRead _ _ _) completed
  · exact law.complete _ err h
  · exact h

theorem Part.AlarmLaw.modLoader {l : List Point} (f : Loader → Loader) {p : Part} (h : P l p) : P l (p.modLoader f) :=
  law.tables (p := p) rfl rfl rfl h

theorem Part.AlarmLaw.planReadDone (err : Bool) {p : Part} (h : P [] p) : P [] (p.planReadDone err) := by
  have rejected : ∀ (sec : PlanSection) (entry : Nat) (q : Part), P [] q → P [] (q.rejectPlan sec entry) := fun sec entry q hq =>
    law.event (p := q.rejected sec entry) rfl (law.tables (p := q) rfl rfl rfl hq)
  unfold Part.planReadDone
  split
  · next data rest _ =>
    have completed := law.complete rest err h
    generalize p.complete rest err = q at completed ⊢
    dsimp only
    split
    · exact rejected _ _ _ completed
    · by_cases more : q.loader.block + 1 < 65
      · rw [Part.planBlockRead_of_more more]
        exact law.modLoader _ completed
      · rw [Part.planBlockRead_of_last (Nat.not_lt.mp more)]
        have taken : P [] (q.modLoader fun l => l.took data true) := law.modLoader _ completed
        generalize q.modLoader (fun l => l.took data true) = u at taken ⊢
        cases fault : structuralFault u.loader.image (u.loader.generation.getD 0) with
        | some found =>
          rw [Part.validatePlan_of_fault fault]
          exact rejected _ _ u taken
        | none =>
          rw [Part.validatePlan_of_sound fault]
          exact law.settleExchange _ (law.modLoader _ taken)
  · exact h

theorem Part.AlarmLaw.emitTick {l : List Point} (k : TickKind) (n : Nat) {p : Part} (h : P l p) : P l (p.emitTick k n) := by
  have emitted : P l (p.emitted k n) := law.drift (Part.drifts_emitted l k n p) h
  by_cases second : k = .second
  · subst second
    rw [Part.emitTick_of_second, Part.secondWork_eq]
    refine law.drift (Part.drifts_markSecond l _) (law.report [80] (law.drift ?_ (law.more [80] emitted)))
    exact (Part.drifts_closeTally _).more fun i => List.mem_append_left l
  · rw [Part.emitTick_of_ne second]
    exact emitted

theorem Part.AlarmLaw.stepTicks {l : List Point} {p : Part} (h : P l p) : P l p.stepTicks := by
  unfold Part.stepTicks
  refine foldl_invariant (P l) _ (fun q k hq => ?_) tickKinds p h
  dsimp only
  split
  · exact hq
  · exact law.emitTick _ _ hq

theorem Part.AlarmLaw.clock (k : Clock) {p : Part} (h : P clockPoints p) : P clockPoints (p.withClock k) :=
  law.drift (.of_clock (fun _ => id) k p) h

theorem Part.AlarmLaw.phaseStep (e : Int) {p : Part} (h : P clockPoints p) : P clockPoints (p.phaseStep e) := by
  have stepped : P clockPoints (p.stepped e) := law.event (p := p.withClock (p.clock.step e)) rfl (law.clock _ h)
  rw [Part.phaseStep_eq]
  split
  · exact law.stepTicks stepped
  · exact stepped

theorem Part.AlarmLaw.disciplined (e : Int) {p : Part} (h : P clockPoints p) : P clockPoints (p.disciplined e) := by
  unfold Part.disciplined
  split
  · exact law.clock _ h
  · split
    · exact law.phaseStep e h
    · exact law.clock _ h
  · exact h
  · exact h

theorem Part.AlarmLaw.referencePulse (r : RefId) {p : Part} (h : P [] p) : P [] (p.referencePulse r) := by
  cases usable : p.usable r with
  | false => rwa [Part.referencePulse_of_unusable usable]
  | true =>
    have taken : P clockPoints (p.withClock (p.pulseTaken r)) := law.clock _ (law.stale _ h)
    rw [Part.referencePulse_of_usable usable]
    refine law.reported _ (law.settleExchange _ ?_)
    split
    · rw [Part.discipline_eq]
      exact law.disciplined _ (law.clock _ taken)
    · exact taken

theorem Part.AlarmLaw.observe (k : WatchedWord) (v : Word) {p : Part} (h : P [] p) : P [] (p.observe k v) := by
  have word : P [] (p.setWatched k v) := law.tables (p := p) rfl rfl rfl h
  cases k with
  | egressProducer n c => exact law.judgeProducer _ _ word
  | ingressConsumer n c => exact law.judgeConsumer _ _ word
  | heartbeat n => exact law.deeds (Part.deeds_observeHeartbeat n v p) h
  | admitWord n => exact law.deeds (Part.deeds_observeAdmit n v p) h
  | apply =>
    show P [] (p.observeApply v)
    exact law.modLoader _ word
  | logConsumer =>
    show P [] (p.observeLogConsumer v)
    unfold Part.observeLogConsumer
    dsimp only
    split <;> exact law.tables (p := p) rfl rfl rfl h
  | cutoff =>
    show P [] (p.observeCutoff v)
    unfold Part.observeCutoff Part.setCutoff
    split
    · exact word
    · exact law.tables (p := p) rfl rfl rfl h
  | seconds => exact law.tables (p := p) rfl rfl rfl h
  | slotCommand n => exact law.deeds (Part.deeds_observeSlotCommand n v p) h

theorem Part.AlarmLaw.observeWrite (start : Nat) (data : List Byte) {p : Part} (h : P [] p) : P [] (p.observeWrite start data) := by
  rw [Part.observeWrite_eq]
  split
  · exact h
  · refine law.exchange (Part.besidesExchange_endInstant _ _) ?_
    have marked : P [] (p.modEngine fun e => { e with before := some p.engine.instant, handing := true }) :=
      law.tables (p := p) rfl rfl rfl h
    have words : P [] (Part.observeWords (observedWords start data.length) start data
        (p.modEngine fun e => { e with before := some p.engine.instant, handing := true })) :=
      foldl_invariant (P []) _ (fun q x hq => law.observe x.2 _ hq) _ _ marked
    exact law.exchange (Part.besidesExchange_modEngine _ _ rfl) words

end law

end Sys2Proof.Machine
end


section
/-! PROOFS. Every step keeps a law of the alarm points: the grants, the activation, the resets and the step as a whole (R176 to R178). -/
namespace Sys2Proof.Machine

/-- A later stage of an activation leaves the alarm unit alone. -/
theorem Part.alarm_replanned (new : Plan) (p : Part) : (p.replanned new).alarm = p.alarm := by
  have ticks : ∀ (old : Plan) (q : Part), (q.replanTicks old new).alarm = q.alarm := by
    intro old q
    have retimed : ∀ u : Part, (u.retimeProg old).alarm = u.alarm := by
      intro u
      unfold Part.retimeProg
      split <;> rfl
    exact retimed q.closeGates
  unfold Part.replanned
  rw [Part.alarm_of_frame (Part.frame_activateSlots _ _), ticks, Part.alarm_of_frame (Part.frame_replanRings _ _)]
  rfl

theorem Part.activateClock_alarm (p : Part) : p.activateClock.alarm = p.alarm := by
  have ref : ∀ (r : RefId) (q : Part), (q.activateRef r).alarm = q.alarm := by
    intro r q
    unfold Part.activateRef
    dsimp only
    split
    · rfl
    · split <;> rfl
  unfold Part.activateClock
  dsimp only
  split <;> exact (ref .b _).trans (ref .a p)

/-- What follows the slot ports in an activation leaves the alarm unit alone until its own turn. -/
theorem Part.alarm_settled (old : Engine) (p : Part) :
    ((p.activateClock.sweepDests.expireHeads).settleExchange old).alarm = p.alarm := by
  rw [Part.alarm_of_frame (Part.frame_settleExchange _ _), Part.alarm_of_frame (Part.frame_expireHeads _),
    Part.alarm_of_exchange (Part.besidesExchange_sweepDests _), Part.activateClock_alarm]

theorem Part.alarm_activated (new : Plan) (old : Engine) (p : Part) :
    (((p.replanned new).activateClock.sweepDests.expireHeads).settleExchange old).alarm = p.alarm :=
  (Part.alarm_settled old (p.replanned new)).trans (Part.alarm_replanned new p)

theorem Part.alarm_tickOver (p : Part) : p.tickOver.alarm = p.alarm := rfl

theorem ResetControl.supplyFalls_active (c : ResetControl) : c.supplyFalls.active = c.active := by
  unfold ResetControl.supplyFalls
  split <;> rfl

theorem Part.no_condition_of_hold {i : Point} {p : Part} (due : p.eventHoldDue i = true) : p.condition i = none := by
  simp only [Part.eventHoldDue, Bool.and_eq_true, Option.isNone_iff_eq_none] at due
  exact due.1.1.2

theorem Port.sendOldest_heartbeat (x : Port) : x.sendOldest.heartbeat = x.heartbeat := by
  unfold Port.sendOldest
  split <;> rfl

/-- A contact reaches its own point at most, while the part runs (R167). -/
theorem Part.drifts_setEnv (i : Fin 8) (level : Contact) (p : Part) : p.Drifts [envPoint i] (p.setEnv i level) := by
  refine .of_same rfl rfl rfl fun j foreign => ?_
  have ne : ∀ k : Fin 8, j.val = 81 + k.val → i.val ≠ k.val := by
    intro k e same
    refine foreign (List.mem_singleton.mpr (Fin.ext ?_))
    show j.val = 81 + i.val
    omega
  unfold Part.condition
  split
  · rfl
  · split
    · next high =>
      have env : (p.setEnv i level).env[j.val - 81] = p.env[j.val - 81] :=
        getElem_modify_ne _ _ _ _ _ (ne ⟨j.val - 81, by omega⟩ (by show j.val = 81 + (j.val - 81); omega))
      rw [env]
      rfl
    · rfl

section law
variable {P : List Point → Part → Prop} {W : Part → Prop} (law : Part.AlarmLaw P W)
include law

/-! ### Grants -/

theorem Part.AlarmLaw.grantRequest (n : Slot) (q : Request) (rest : List Request) {s : State} (h : P [] s.part) :
    P [] (s.grantRequest n q rest).part := by
  unfold State.grantRequest
  dsimp only
  split
  · refine law.drift (p := s.part.modPort n fun x => x.served rest) ?_ (law.drift (.of_port rfl rfl) h)
    exact .of_tables rfl rfl rfl
  · refine law.observeWrite _ _ (law.drift (.of_port rfl rfl) ?_)
    exact law.drift (.of_port (f := fun x => x.served rest) rfl rfl) h

theorem Part.AlarmLaw.grantCard (n : Slot) {s : State} (h : P [] s.part) : P [] (s.grantCard n).part := by
  have chosen : P [] (s.modPart fun p => { p with arbiter := { lastGroup := .card, lastSlot := n } }).part :=
    law.tables (p := s.part) rfl rfl rfl h
  unfold State.grantCard
  dsimp only
  generalize (s.modPart fun p => { p with arbiter := { lastGroup := .card, lastSlot := n } }) = u at chosen ⊢
  split
  · rw [State.modPart_part]
    exact law.drift (.of_port rfl rfl) (law.tables (p := u.part) rfl rfl rfl chosen)
  · split
    · exact law.grantRequest _ _ _ chosen
    · exact chosen

theorem Part.AlarmLaw.grantWriter {s : State} (h : P [] s.part) : P [] s.grantWriter.part := by
  unfold State.grantWriter
  dsimp only
  split
  · exact law.tables (p := s.part) rfl rfl rfl h
  · split <;> exact law.tables (p := s.part) rfl rfl rfl h
  · exact law.tables (p := s.part) rfl rfl rfl h

theorem Part.AlarmLaw.grantEngine {s : State} (h : P [] s.part) : P [] s.grantEngine.part := by
  have free : P [] (s.modPart fun p => p.modEngine fun e => { e with waiting := none }).part :=
    law.tables (p := s.part) rfl rfl rfl h
  unfold State.grantEngine
  dsimp only
  generalize s.modPart (fun p => p.modEngine fun e => { e with waiting := none }) = u at free ⊢
  split
  · rw [State.modPart_part]
    exact law.settleExchange _ free
  · rw [State.modPart_part]
    exact law.settleExchange _ (law.tables (p := u.part) rfl rfl rfl free)
  · rw [State.modPart_part]
    exact law.settleExchange _ (law.tables (p := u.part) rfl rfl rfl free)
  · rw [State.modPart_part]
    exact law.settleExchange _ (law.exchange (Part.besidesExchange_copyBlockWritten _ _) free)
  · rw [State.modPart_part]
    exact law.reported _ (law.settleExchange _ (law.drift (Part.drifts_deliver _ _) (law.stale _ free)))
  · exact free

theorem Part.AlarmLaw.grant {s : State} (h : P [] s.part) : P [] s.grant.part := by
  have granted : P [] s.internalGranted.part := law.tables (p := s.part) rfl rfl rfl h
  unfold State.grant
  split
  · exact law.grantCard _ h
  · exact law.grantWriter granted
  · exact law.grantEngine granted
  · exact law.tables (p := s.internalGranted.part) rfl rfl rfl granted
  · exact h

/-! ### The activation and the resets -/

theorem Part.AlarmLaw.endHolds {p : Part} (h : P [] p) : P [] p.endHolds := by
  unfold Part.endHolds
  refine forEach_invariant (P []) 89 _ (fun i q hq => ?_) p h
  split
  · next due =>
    refine law.endHold ?_ hq
    exact Part.no_condition_of_hold due
  · exact hq

theorem Part.AlarmLaw.expirePoints {p : Part} (h : P [] p) : P [] p.expirePoints := by
  unfold Part.expirePoints
  refine forEach_invariant (P []) 89 _ (fun i q hq => ?_) p h
  split
  · next due => exact law.raise due hq
  · split
    · next due => exact law.clear due hq
    · exact hq

theorem Part.AlarmLaw.activateAlarms {p : Part} (h : W p) : P [] p.activateAlarms :=
  law.drift (Part.drifts_mark [] 16 _) (law.expirePoints (law.fresh h))

theorem Part.AlarmLaw.weak_of_alarm {p q : Part} (same : q.alarm = p.alarm) (h : W p) : W q :=
  law.weak_same (congrArg Alarm.points same) h

theorem Part.AlarmLaw.activate (new : Plan) {p : Part} (h : P [] p) : P [] (p.activate new) := by
  have before : W p.endSecondTick := by
    rw [Part.endSecondTick_eq]
    exact law.weak_of_alarm (Part.alarm_tickOver p.endHolds) (law.weak (law.endHolds h))
  rw [Part.activate_eq]
  exact law.activateAlarms (law.weak_of_alarm (Part.alarm_activated new p.endSecondTick.engine p.endSecondTick) before)

theorem Part.AlarmLaw.startIfOver {p : Part} (h : P [] p) : P [] p.startIfOver := by
  unfold Part.startIfOver
  split
  · next kind _ =>
    split
    · have started : P [] (p.started kind).reintegrate := law.fresh (law.weak_same (p := p) rfl (law.weak h))
      rw [Part.start_eq]
      split
      · exact law.modLoader _ started
      · exact started
    · exact h
  · exact h

theorem Part.AlarmLaw.envChange (i : Fin 8) (level : Contact) {p : Part} (h : P [] p) : P [] (p.after (.envChange i level)) := by
  have taken : P [envPoint i] (p.setEnv i level) := law.drift (Part.drifts_setEnv i level p) (law.stale _ h)
  rw [Part.after_envChange]
  show P [] ((p.setEnv i level).whileRunning (Part.report [envPoint i]))
  cases running : p.running with
  | true =>
    rw [Part.whileRunning_of_running (p := p.setEnv i level) running]
    exact law.reported _ taken
  | false =>
    rw [Part.whileRunning_of_reset (p := p.setEnv i level) running]
    exact law.drift (p := p) ⟨rfl, rfl, fun on => absurd (running.symm.trans on) nofun⟩ h

/-! ### The step -/

theorem Part.AlarmLaw.passPeriod {p : Part} (h : P [] p) : P [] p.passPeriod := by
  have closed : P [] (p.whileRunning Part.closeInstant) :=
    Part.whileRunning_keeps (fun _ hp => law.exchange (Part.besidesExchange_closeInstant _) hp) h
  exact law.tables (p := p.whileRunning Part.closeInstant) rfl rfl rfl closed

theorem Part.AlarmLaw.turnover {p : Part} (h : P [] p) : P [] p.turnover := by
  have signs : p.clock.turnover.signs = p.clock.signs := by
    unfold Clock.turnover
    dsimp only
    split <;> rfl
  have view : Part.outlook { p.passPeriod with clock := p.clock.turnover } = p.passPeriod.outlook := by
    refine Part.outlook_eq_iff.mpr ⟨rfl, rfl, rfl, rfl, rfl, signs.trans ?_⟩
    exact (congrArg (fun q : Part => q.clock.signs) (Part.besidesExchange_passPeriod p).symm :)
  have turned : P [] { p.passPeriod with clock := p.clock.turnover } :=
    law.tables (p := p.passPeriod) view rfl rfl (law.passPeriod h)
  unfold Part.turnover
  dsimp only
  split
  · exact law.tables (p := { p.passPeriod with clock := p.clock.turnover }) rfl rfl rfl turned
  · exact turned

theorem Part.AlarmLaw.advance {p : Part} (h : P [] p) : P [] p.advance := by
  have passed := law.passPeriod h
  unfold Part.advance
  dsimp only
  split
  · exact law.tables (p := p.passPeriod) rfl rfl rfl passed
  · exact passed

theorem Part.AlarmLaw.after {c : Instr} (ne : c ≠ .accessGrant) {p : Part} (h : P [] p) : P [] (p.after c) := by
  cases slot : commandSlot c with
  | some n => exact law.deeds (Part.deeds_after slot p) h
  | none =>
    have running : ∀ f : Part → Part, P [] (f p) → P [] (p.whileRunning f) := fun f hf =>
      Part.whileRunning_keeps (fun _ _ => hf) h
    have due : ∀ (d : Part → Bool) (f : Part → Part), (d p = true → P [] (f p)) → P [] (p.whenDue d f) := fun d f hf =>
      Part.whenDue_keeps (fun _ on _ => hf on) h
    cases c <;> simp only [commandSlot, reduceCtorEq] at slot
    case accessGrant => exact absurd rfl ne
    case apply v => exact running _ (law.observe .apply v h)
    case logConsumer v => exact running _ (law.observe .logConsumer v h)
    case cutoff v => exact running _ (law.observe .cutoff v h)
    case seconds v => exact running _ (law.observe .seconds v h)
    case egressProducer n c v => exact running _ (law.observe (.egressProducer n c) v h)
    case ingressConsumer n c v => exact running _ (law.observe (.ingressConsumer n c) v h)
    case readCompletion err => exact running _ (law.cardReadDone err h)
    case admissionCheckReadComplete err => exact running _ (law.checkReadDone err h)
    case planReadComplete err => exact running _ (law.planReadDone err h)
    case activation =>
      rw [Part.after_activation]
      refine due _ _ fun _ => ?_
      unfold Part.activateStaged
      split
      · exact law.activate _ h
      · exact h
    case headerReadComplete err => exact running _ (law.headerReadDone err h)
    case serviceChoice =>
      rw [Part.after_serviceChoice]
      exact due _ _ fun _ => law.drift (Part.drifts_choose [] p) h
    case copyReadComplete err => exact running _ (law.copyReadDone err h)
    case holdExpired n c =>
      rw [Part.after_holdExpired]
      exact due _ _ fun _ => law.settleExchange _ (law.drift (Part.drifts_expireHead [] _ p) h)
    case referencePulse r => exact running _ (law.referencePulse r h)
    case miss r =>
      rw [Part.after_miss]
      exact due _ _ fun _ => law.reported clockPoints (law.clock _ (law.stale _ h))
    case holdoverLimit =>
      rw [Part.after_holdoverLimit]
      exact due _ _ fun _ => law.reported clockPoints (law.clock _ (law.stale _ h))
    case secondTurnover =>
      rw [Part.after_secondTurnover]
      split
      · exact law.turnover h
      · exact h
    case tick k =>
      rw [Part.after_tick]
      exact due _ _ fun _ => law.settleExchange _ (law.emitTick k 1 h)
    case gateOpenDelayExpiry g =>
      rw [Part.after_gateOpenDelayExpiry]
      exact due _ _ fun _ => law.settleExchange _ (law.tables (p := p) rfl rfl rfl h)
    case gateWindowExpiry g =>
      rw [Part.after_gateWindowExpiry]
      exact due _ _ fun _ => law.settleExchange _ (law.tables (p := p) rfl rfl rfl h)
    case envChange i l => exact law.envChange i l h
    case raiseTimerExpiry i =>
      rw [Part.after_raiseTimerExpiry]
      exact due _ _ fun on => law.raise on h
    case clearTimerExpiry i =>
      rw [Part.after_clearTimerExpiry]
      exact due _ _ fun on => law.clear on h
    case eventHoldExpiry i =>
      rw [Part.after_eventHoldExpiry]
      exact due _ _ fun on => law.endHold (Part.no_condition_of_hold on) h
    case statusRecordBegin =>
      rw [Part.after_statusRecordBegin]
      refine due _ _ fun _ => ?_
      unfold Part.beginLowest
      split
      · exact law.tables (p := p) rfl rfl rfl h
      · exact h
    case powerOnReset => exact law.held _ _ p
    case supplyFall =>
      rw [Part.after_supplyFall]
      refine law.tables (p := p) (Part.outlook_eq_iff.mpr ⟨rfl, rfl, rfl, rfl, ?_, rfl⟩) rfl rfl h
      exact congrArg Option.isNone p.control.supplyFalls_active
    case supplyReturn => exact law.tables (p := p) rfl rfl rfl h
    case supplyDipReset =>
      rw [Part.after_supplyDipReset]
      split
      · exact law.held _ _ p
      · exact h
    case resetPinAssert =>
      rw [Part.after_resetPinAssert]
      split
      · exact law.held _ _ p
      · exact law.tables (p := p) rfl rfl rfl h
    case resetEnd => exact law.startIfOver (p := p.releasePin) (law.tables (p := p) rfl rfl rfl h)

/-- Every step keeps a law of the alarm points. -/
theorem Part.AlarmLaw.next {s t : State} (h : P [] s.part) (run : step s = .next t) : P [] t.part :=
  step_keeps (P := P []) (fun _ _ ne hp => law.after ne hp) (fun _ _ hs => law.grant hs)
    (fun _ _ hp => law.drift (.of_port (Port.sendOldest_state _) (congrArg Heartbeat.lost (Port.sendOldest_heartbeat _))) hp)
    (fun _ hp => law.advance hp) h run

end law

end Sys2Proof.Machine
end


section
/-! PROOFS. Two laws of the alarm points: each follows its effective condition and is sound (R169, R170), and each has the raw condition
its owner reports (R165 to R167). -/
namespace Sys2Proof.Machine

theorem Part.running_of_alarms {p q : Part} (h : q.besidesAlarms = p.besidesAlarms) : q.running = p.running :=
  (congrArg Part.running h :)

theorem Part.plan_of_alarms {p q : Part} (h : q.besidesAlarms = p.besidesAlarms) : q.plan = p.plan := (congrArg Part.plan h :)

/-! ### Points that follow their effective condition -/

/-- A point that is sound and follows its effective condition under its settings. -/
def AlarmPoint.Follows (plan : PointPlan) (x : AlarmPoint) : Prop :=
  x.sound ∧ (effective plan x.raw = true ↔ x.state = .rising ∨ x.state = .raised)

/-- A point that acts on its condition follows it, whatever it did before. -/
theorem AlarmPoint.follows_acted {x : AlarmPoint} (h : x.sound) (plan : PointPlan) (now : Nat) (time : CabinetTime) :
    (x.acted plan now time).Follows plan := by
  obtain ⟨start, count⟩ := h
  unfold AlarmPoint.Follows AlarmPoint.sound
  rw [AlarmPoint.acted_raw]
  unfold AlarmPoint.acted effective
  cases state : x.state <;> cases on : (x.raw || plan.force)
  case clear.true => by_cases now : plan.raiseTime = 0 <;> simp [now, count, Nat.min_le_left]
  case raised.false => by_cases now : plan.clearTime = 0 <;> simp [now, count]
  all_goals simp_all

/-- Every point of an alarm unit is sound and follows its condition under plan `plan`. -/
def Alarm.Follows (plan : Plan) (a : Alarm) : Prop := ∀ i : Point, a.points[i].Follows plan.alarm.points[i]

theorem Alarm.follows_of_point {plan : Plan} {a b : Alarm} {i : Point} (h : a.Follows plan)
    (self : b.points[i].Follows plan.alarm.points[i]) (others : ∀ j, i ≠ j → b.points[j] = a.points[j]) : b.Follows plan := by
  intro j
  by_cases e : i = j
  · exact e ▸ self
  · rw [others j e]
    exact h j

/-- The settings of a point do not speak of its raw condition or of its last event. -/
theorem AlarmPoint.sound_of_raw {x : AlarmPoint} (h : x.sound) (raw : Bool) (last : Option Nat) :
    AlarmPoint.sound { x with raw := raw, lastEvent := last } := h

theorem Part.follows_report (l : List Point) {p : Part} (h : p.alarm.Follows p.plan) : (p.report l).alarm.Follows p.plan := by
  have all : (l.foldl (fun as i => match p.condition i with
      | some raw => reportOn (p.context i) i raw as
      | none => as) (p.alarm, p.status)).1.Follows p.plan := by
    refine foldl_invariant (fun as : Alarm × Status => as.1.Follows p.plan) _ (fun as i hs => ?_) l _ h
    split
    · next raw _ =>
      refine Alarm.follows_of_point hs ?_ fun j ne => reportOn_point_ne ne _ raw as
      show (reportOn (p.context i) i raw as).1.points[i.val].Follows p.plan.alarm.points[i]
      rw [reportOn_point_self]
      split
      · exact hs i
      · exact AlarmPoint.follows_acted (AlarmPoint.sound_of_raw (hs i).1 raw as.1.points[i].lastEvent) _ _ _
    · exact hs
  exact all

theorem Part.follows_raiseEvent (i : Point) {p : Part} (h : p.alarm.Follows p.plan) : (p.raiseEvent i).alarm.Follows p.plan := by
  refine Alarm.follows_of_point h ?_ fun j ne => Part.raiseEvent_point_ne ne p
  show (p.raiseEvent i).alarm.points[i.val].Follows p.plan.alarm.points[i]
  rw [Part.raiseEvent_point_self]
  exact AlarmPoint.follows_acted (AlarmPoint.sound_of_raw (h i).1 true (some p.now)) _ _ _

theorem Part.follows_endHold (i : Point) {p : Part} (h : p.alarm.Follows p.plan) : (p.endHold i).alarm.Follows p.plan := by
  refine Alarm.follows_of_point h ?_ fun j ne => Part.endHold_point_ne ne p
  show (p.endHold i).alarm.points[i.val].Follows p.plan.alarm.points[i]
  rw [Part.endHold_point_self]
  exact AlarmPoint.follows_acted (AlarmPoint.sound_of_raw (h i).1 false none) _ _ _

theorem Part.follows_raisePoint {i : Point} {p : Part} (due : p.raiseDue i = true) (h : p.alarm.Follows p.plan) :
    (p.raisePoint i).alarm.Follows p.plan := by
  have rising : p.alarm.points[i.val].state = .rising := by
    simp only [Part.raiseDue, Bool.and_eq_true, beq_iff_eq] at due
    exact due.1
  refine Alarm.follows_of_point h ?_ fun j ne => transition_point_ne ne _ _ _
  show (transition (p.context i) i true (p.alarm, p.status)).1.points[i.val].Follows p.plan.alarm.points[i]
  rw [transition_point_self]
  exact ⟨⟨by simp, Nat.min_le_left _ _⟩, (h i).2.trans (by simp [rising])⟩

theorem Part.follows_clearPoint {i : Point} {p : Part} (due : p.clearDue i = true) (h : p.alarm.Follows p.plan) :
    (p.clearPoint i).alarm.Follows p.plan := by
  have falling : p.alarm.points[i.val].state = .falling := by
    simp only [Part.clearDue, Bool.and_eq_true, beq_iff_eq] at due
    exact due.1
  refine Alarm.follows_of_point h ?_ fun j ne => transition_point_ne ne _ _ _
  show (transition (p.context i) i false (p.alarm, p.status)).1.points[i.val].Follows p.plan.alarm.points[i]
  rw [transition_point_self]
  exact ⟨⟨by simp, (h i).1.2⟩, (h i).2.trans (by simp [falling])⟩

theorem Part.follows_reintegrate {p : Part} (h : p.alarmsSound) : p.reintegrate.alarm.Follows p.plan := by
  intro i
  show p.reintegrate.alarm.points[i.val].Follows p.plan.alarm.points[i]
  rw [Part.reintegrate_point]
  exact AlarmPoint.follows_acted (AlarmPoint.sound_of_raw (h i) _ p.alarm.points[i].lastEvent) _ _ _

theorem Part.law_follows : Part.AlarmLaw (fun _ p => p.alarm.Follows p.plan) Part.alarmsSound where
  drift drifts h := by
    unfold Alarm.Follows
    rw [drifts.plan, drifts.points]
    exact h
  more _ h := h
  report {_ p} m h := by
    rw [Part.plan_of_alarms (Part.besidesAlarms_report m p)]
    exact Part.follows_report m h
  event {_ p i} _ h := by
    rw [Part.plan_of_alarms (Part.besidesAlarms_raiseEvent i p)]
    exact Part.follows_raiseEvent i h
  raise {p i} due h := by
    rw [Part.plan_of_alarms (Part.besidesAlarms_raisePoint i p)]
    exact Part.follows_raisePoint due h
  clear {p i} due h := by
    rw [Part.plan_of_alarms (Part.besidesAlarms_clearPoint i p)]
    exact Part.follows_clearPoint due h
  endHold {p i} _ h := by
    rw [Part.plan_of_alarms (Part.besidesAlarms_endHold i p)]
    exact Part.follows_endHold i h
  weak h i := (h i).1
  weak_same same h := by
    unfold Part.alarmsSound
    rw [same]
    exact h
  fresh {p} h := by
    rw [Part.plan_of_alarms (Part.besidesAlarms_reintegrate p)]
    exact Part.follows_reintegrate h
  held kind control p := by
    have blank : (p.underReset kind control).alarm.points = Vector.replicate 89 AlarmPoint.reset := rfl
    have forced : ∀ i : Point, Plan.bootstrap.alarm.points[i].force = false := by decide +kernel
    intro i
    show (p.underReset kind control).alarm.points[i].Follows Plan.bootstrap.alarm.points[i]
    rw [blank, show (Vector.replicate 89 AlarmPoint.reset)[i] = AlarmPoint.reset by simp]
    refine ⟨by unfold AlarmPoint.sound; decide, ?_⟩
    rw [effective, forced]
    decide

/-- Settles O8. -/
theorem stepKeepsAlarmPointsSound : Obligations.StepKeepsAlarmPointsSound := by
  unfold Obligations.StepKeepsAlarmPointsSound
  intro s t sound follow run
  have law : t.part.alarm.Follows t.part.plan := Part.law_follows.next (fun i => ⟨sound i, follow i⟩) run
  exact ⟨fun i => (law i).1, fun i => (law i).2⟩

/-! ### Points whose raw condition is the one reported -/

/-- While the part runs, every point but those in `l` has the raw condition its owner's rule gives. -/
def Part.ReportedBut (l : List Point) (p : Part) : Prop :=
  p.running = true → ∀ i, i ∉ l → ∀ b, p.condition i = some b → p.alarm.points[i].raw = b

/-- A report gives the points in its list the conditions of their owners (R165). -/
theorem Part.report_raw {l : List Point} {i : Point} {b : Bool} {p : Part} (cond : p.condition i = some b)
    (either : i ∈ l ∨ p.alarm.points[i].raw = b) : (p.report l).alarm.points[i].raw = b := by
  have key : ∀ (l : List Point) (as : Alarm × Status), i ∈ l ∨ as.1.points[i].raw = b →
      (l.foldl (fun as i => match p.condition i with
        | some raw => reportOn (p.context i) i raw as
        | none => as) as).1.points[i].raw = b := by
    intro l
    induction l with
    | nil => exact fun as either => either.resolve_left List.not_mem_nil
    | cons j l ih =>
      intro as either
      rw [List.foldl_cons]
      refine ih _ ?_
      by_cases e : j = i
      · subst e
        rw [cond]
        refine .inr ?_
        show (reportOn (p.context j) j b as).1.points[j.val].raw = b
        rw [reportOn_point_self]
        split
        · next same => exact same
        · exact AlarmPoint.acted_raw _ _ _ _
      · rcases either with mem | raw
        · exact .inl ((List.mem_cons.mp mem).resolve_left (Ne.symm e))
        · refine .inr ?_
          split
          · exact (congrArg AlarmPoint.raw (reportOn_point_ne e _ _ as)).trans raw
          · exact raw
  exact key l _ either

/-- A change of the alarm unit that touches, of the points with a condition, no raw condition. -/
theorem Part.ReportedBut.of_raw {l : List Point} {p q : Part} (h : p.ReportedBut l) (view : q.besidesAlarms = p.besidesAlarms)
    (raw : ∀ i, p.condition i ≠ none → q.alarm.points[i].raw = p.alarm.points[i].raw) : q.ReportedBut l := by
  intro on i out b cond
  rw [Part.condition_congr view] at cond
  rw [raw i (by rw [cond]; nofun)]
  exact h (Part.running_of_alarms view ▸ on) i out b cond

/-- A transition leaves the raw condition alone (R171). -/
theorem transition_raw (x : PointContext) (i j : Point) (b : Bool) (as : Alarm × Status) :
    (transition x i b as).1.points[j].raw = as.1.points[j].raw := by
  by_cases e : i = j
  · subst e
    exact (congrArg AlarmPoint.raw (transition_point_self x i b as) :)
  · exact congrArg AlarmPoint.raw (transition_point_ne e x b as)

theorem Part.law_reported : Part.AlarmLaw Part.ReportedBut fun _ => True where
  drift drifts h := by
    intro on i out b cond
    obtain ⟨running, same⟩ := drifts.senses on
    rw [drifts.points]
    exact h running i out b ((same i out).symm.trans cond)
  more m h on i out := h on i fun mem => out (List.mem_append_right m mem)
  report {l p} m h := by
    have view := Part.besidesAlarms_report m p
    intro on i out b cond
    rw [Part.condition_congr view] at cond
    refine Part.report_raw cond ?_
    by_cases mem : i ∈ m
    · exact .inl mem
    · exact .inr (h (Part.running_of_alarms view ▸ on) i (fun both => (List.mem_append.mp both).elim mem out) b cond)
  event {l p i} none h := by
    refine h.of_raw (Part.besidesAlarms_raiseEvent i p) fun j some => ?_
    exact congrArg AlarmPoint.raw (Part.raiseEvent_point_ne (fun e => some (by rw [← e]; exact none)) p)
  raise {p i} _ h := h.of_raw (Part.besidesAlarms_raisePoint i p) fun j _ => transition_raw _ _ _ _ _
  clear {p i} _ h := h.of_raw (Part.besidesAlarms_clearPoint i p) fun j _ => transition_raw _ _ _ _ _
  endHold {p i} none h := by
    refine h.of_raw (Part.besidesAlarms_endHold i p) fun j some => ?_
    exact congrArg AlarmPoint.raw (Part.endHold_point_ne (fun e => some (by rw [← e]; exact none)) p)
  weak _ := trivial
  weak_same _ h := h
  fresh {p} _ := by
    intro _ i _ b cond
    rw [Part.condition_congr (Part.besidesAlarms_reintegrate p)] at cond
    refine (congrArg AlarmPoint.raw (p.reintegrate_point i)).trans ?_
    rw [AlarmPoint.acted_raw, cond]
    rfl
  held _ _ _ := nofun

/-- Settles O9. -/
theorem stepKeepsConditionsReported : Obligations.StepKeepsConditionsReported := by
  unfold Obligations.StepKeepsConditionsReported
  intro s t h run
  have law : t.part.ReportedBut [] := Part.law_reported.next (fun on i _ => h on i) run
  exact fun on i => law on i List.not_mem_nil

end Sys2Proof.Machine
end


section
/-! PROOFS. The bookkeeping of the rings: `Part.Booked` says what the counts, the heads, the copy and the lists keep to, and
`Part.Shrinks` is a change that posts nothing, under which all of it stays (R84, R87 to R90, R103, R105). -/
namespace Sys2Proof.Machine

/-! ### Occupancy -/

theorem Ring.occupancy_lt (x : Ring) : x.occupancy < 65536 := (x.producer - x.consumer).isLt

/-- Entries retired leave a ring by as many (R94). -/
theorem Ring.occupancy_advance {x : Ring} {k : Nat} (le : k ≤ x.occupancy) :
    Ring.occupancy { x with consumer := x.consumer + BitVec.ofNat 16 k } = x.occupancy - k := by
  have lt := x.occupancy_lt
  unfold Ring.occupancy at *
  simp only [BitVec.toNat_sub, BitVec.toNat_add, BitVec.toNat_ofNat] at *
  omega

theorem Ring.occupancy_retired {x : Ring} {k : Nat} (le : k ≤ x.occupancy) (admitted : Bool) :
    (x.retired k admitted).occupancy = x.occupancy - k := Ring.occupancy_advance le

/-- Entries delivered fill a ring by as many at most (R95). -/
theorem Ring.occupancy_filled (x : Ring) (k : Nat) :
    Ring.occupancy { x with producer := x.producer + BitVec.ofNat 16 k } ≤ x.occupancy + k := by
  unfold Ring.occupancy
  simp only [BitVec.toNat_sub, BitVec.toNat_add, BitVec.toNat_ofNat]
  omega

theorem Ring.occupancy_emptied {x : Ring} (h : x.consumer = x.producer) : x.occupancy = 0 := by
  unfold Ring.occupancy
  rw [h, BitVec.sub_self]
  rfl

theorem Ring.occupancy_of_indices {x y : Ring} (producer : y.producer = x.producer) (consumer : y.consumer = x.consumer) :
    y.occupancy = x.occupancy := by
  unfold Ring.occupancy
  rw [producer, consumer]

/-! ### The lists -/

/-- A write of an index word that joins the queue takes the place of one of the same ring (R103). -/
theorem nodup_requestIndex {q : List IndexWrite} (h : (q.map IndexWrite.ring).Nodup) (w : IndexWrite) :
    ((requestIndex q w).map IndexWrite.ring).Nodup := by
  unfold requestIndex
  split
  · have same : (q.map fun x => if x.ring = w.ring then w else x).map IndexWrite.ring = q.map IndexWrite.ring := by
      rw [List.map_map]
      refine List.map_congr_left fun x _ => ?_
      rw [Function.comp_apply]
      split
      · next e => exact e.symm
      · rfl
    rwa [same]
  · next fresh =>
    rw [List.map_append]
    refine nodup_append_singleton h fun mem => fresh ?_
    obtain ⟨x, hx, e⟩ := List.mem_map.mp mem
    exact List.any_eq_true.mpr ⟨x, hx, beq_iff_eq.mpr e⟩

theorem nodup_setTake (r : RingNo) (t : Take) {p : Part} (h : p.engine.takeList.Nodup) : (p.setTake r t).engine.takeList.Nodup := by
  show (if t = .listed then (if p.engine.takeList.contains r then p.engine.takeList else p.engine.takeList ++ [r])
    else p.engine.takeList.filter (· != r)).Nodup
  split
  · split
    · exact h
    · next fresh =>
      exact nodup_append_singleton h fun mem => fresh (List.contains_iff_mem.mpr mem)
  · exact h.filter _

/-! ### Changes that post nothing -/

/-- A copy goes on as another copy did: from the same ring into the same entries of the same destination, and not void. -/
def Copy.Follows (c c' : Copy) : Prop := c'.void = false ∧ c'.ring = c.ring ∧ c'.dest = c.dest ∧ c'.destPos = c.destPos

/-- From `p` to `q` nothing is posted: no producer moves, no ring fills, a head is the head of the same entries of the same frame that
it was, and a copy that is not void goes on as it did, knowing whether its head is there. -/
structure Part.Shrinks (p q : Part) : Prop where
  plan : q.plan = p.plan
  producer : ∀ r : RingNo, q.rings[r].producer = p.rings[r].producer
  occupancy : ∀ r : RingNo, q.rings[r].occupancy ≤ p.rings[r].occupancy
  heads : ∀ r z, q.headRecord r = some z →
    ∃ y, p.headRecord r = some y ∧ z.header = y.header ∧ q.rings[r].occupancy = p.rings[r].occupancy
  copy : ∀ c, q.engine.copy = some c → c.void = false →
    ∃ c', p.engine.copy = some c' ∧ c.Follows c' ∧ (c.headPresent = c'.headPresent ∨ q.headRecord c.ring = none)
  takes : p.engine.takeList.Nodup → q.engine.takeList.Nodup
  writes : (p.engine.indexQueue.map IndexWrite.ring).Nodup → (q.engine.indexQueue.map IndexWrite.ring).Nodup
  handing : q.engine.handing = p.engine.handing

theorem Copy.Follows.refl {c : Copy} (h : c.void = false) : c.Follows c := ⟨h, rfl, rfl, rfl⟩

theorem Part.Shrinks.trans {p q u : Part} (h : p.Shrinks q) (h' : q.Shrinks u) : p.Shrinks u where
  plan := h'.plan.trans h.plan
  producer r := (h'.producer r).trans (h.producer r)
  occupancy r := Nat.le_trans (h'.occupancy r) (h.occupancy r)
  heads r z head := by
    obtain ⟨y, middle, same, occ⟩ := h'.heads r z head
    obtain ⟨x, first, same', occ'⟩ := h.heads r y middle
    exact ⟨x, first, same.trans same', occ.trans occ'⟩
  copy c going live := by
    obtain ⟨c', middle, ⟨live', ring, dest, pos⟩, present⟩ := h'.copy c going live
    obtain ⟨c'', first, ⟨live'', ring', dest', pos'⟩, present'⟩ := h.copy c' middle live'
    refine ⟨c'', first, ⟨live'', ring'.trans ring, dest'.trans dest, pos'.trans pos⟩, ?_⟩
    by_cases gone : u.headRecord c.ring = none
    · exact .inr gone
    · have stays : q.headRecord c'.ring ≠ none := by
        obtain ⟨z, head⟩ := Option.ne_none_iff_exists'.mp gone
        obtain ⟨y, before, -⟩ := h'.heads _ z head
        rw [ring, before]
        nofun
      exact .inl ((present.resolve_right gone).trans (present'.resolve_right stays))
  takes nodup := h'.takes (h.takes nodup)
  writes nodup := h'.writes (h.writes nodup)
  handing := h'.handing.trans h.handing

/-- Rings and plan are the same, and so is the copy or there is none. -/
theorem Part.Shrinks.of_engine {p q : Part} (plan : q.plan = p.plan) (rings : q.rings = p.rings)
    (copy : ∀ c, q.engine.copy = some c → c.void = false →
      ∃ c', p.engine.copy = some c' ∧ c.Follows c' ∧ c.headPresent = c'.headPresent)
    (takes : p.engine.takeList.Nodup → q.engine.takeList.Nodup)
    (writes : (p.engine.indexQueue.map IndexWrite.ring).Nodup → (q.engine.indexQueue.map IndexWrite.ring).Nodup)
    (handing : q.engine.handing = p.engine.handing) : p.Shrinks q where
  plan := plan
  producer r := by rw [rings]
  occupancy r := Nat.le_of_eq (by rw [rings])
  heads r z head := by
    refine ⟨z, ?_, rfl, by rw [rings]⟩
    rwa [← Part.headRecord_congr (p := p) (q := q) (by rw [rings])]
  copy c going live := by
    obtain ⟨c', first, follows, present⟩ := copy c going live
    exact ⟨c', first, follows, .inl present⟩
  takes := takes
  writes := writes
  handing := handing

theorem Part.Shrinks.of_same {p q : Part} (plan : q.plan = p.plan) (rings : q.rings = p.rings) (engine : q.engine = p.engine) :
    p.Shrinks q :=
  .of_engine plan rings (fun c going live => ⟨c, engine ▸ going, .refl live, rfl⟩) (by rw [engine]; exact id) (by rw [engine]; exact id)
    (by rw [engine])

theorem Part.Shrinks.refl (p : Part) : p.Shrinks p := .of_same rfl rfl rfl

theorem Part.Shrinks.forEach {n : Nat} {f : Fin n → Part → Part} (step : ∀ i (q : Part), q.Shrinks (f i q)) (p : Part) :
    p.Shrinks (forEach n f p) :=
  forEach_invariant p.Shrinks n f (fun i q h => h.trans (step i q)) p (.refl p)

/-- One ring changes, and posts nothing: it loses its head or keeps the frame of it. -/
theorem Part.Shrinks.of_ring {r : RingNo} {p q : Part} (plan : q.plan = p.plan) (others : ∀ r', r ≠ r' → q.rings[r'] = p.rings[r'])
    (producer : q.rings[r].producer = p.rings[r].producer) (occupancy : q.rings[r].occupancy ≤ p.rings[r].occupancy)
    (heads : ∀ z, q.headRecord r = some z →
      ∃ y, p.headRecord r = some y ∧ z.header = y.header ∧ q.rings[r].occupancy = p.rings[r].occupancy)
    (copy : ∀ c, q.engine.copy = some c → c.void = false →
      ∃ c', p.engine.copy = some c' ∧ c.Follows c' ∧ (c.headPresent = c'.headPresent ∨ q.headRecord c.ring = none))
    (takes : p.engine.takeList.Nodup → q.engine.takeList.Nodup)
    (writes : (p.engine.indexQueue.map IndexWrite.ring).Nodup → (q.engine.indexQueue.map IndexWrite.ring).Nodup)
    (handing : q.engine.handing = p.engine.handing) : p.Shrinks q where
  plan := plan
  producer r' := by
    by_cases e : r = r'
    · exact e ▸ producer
    · rw [others r' e]
  occupancy r' := by
    by_cases e : r = r'
    · exact e ▸ occupancy
    · exact Nat.le_of_eq (by rw [others r' e])
  heads r' z head := by
    by_cases e : r = r'
    · exact e ▸ heads z (e ▸ head)
    · refine ⟨z, ?_, rfl, by rw [others r' e]⟩
      rwa [← Part.headRecord_congr (p := p) (q := q) (by rw [others r' e])]
  copy := copy
  takes := takes
  writes := writes
  handing := handing

/-- The copy is the same. -/
theorem Part.copy_follows_self {p q : Part} (same : q.engine.copy = p.engine.copy) (c : Copy) (going : q.engine.copy = some c)
    (live : c.void = false) :
    ∃ c', p.engine.copy = some c' ∧ c.Follows c' ∧ (c.headPresent = c'.headPresent ∨ q.headRecord c.ring = none) :=
  ⟨c, same ▸ going, .refl live, .inl rfl⟩

theorem Part.headRecord_of_bare {r : RingNo} {p : Part} (bare : ∀ h, p.rings[r].take ≠ .head h) : p.headRecord r = none := by
  rw [Option.eq_none_iff_forall_ne_some]
  exact fun z head => bare z (Part.headRecord_eq_some.mp head).2

theorem Part.shrinks_setTake (r : RingNo) {t : Take} (bare : ∀ h, t ≠ .head h) (p : Part) : p.Shrinks (p.setTake r t) := by
  have ring := Part.setTake_ring_self r t p
  refine .of_ring (r := r) rfl (fun r' ne => Part.setTake_ring_ne ne t p) (by rw [ring]) ?_ (fun z head => ?_)
    (Part.copy_follows_self rfl) (nodup_setTake r t) id rfl
  · rw [ring]
    exact Nat.le_refl _
  · have none := Part.headRecord_of_bare (p := p.setTake r t) (r := r) fun h take => bare h (by rw [ring] at take; exact take)
    rw [none] at head
    cases head

theorem Part.headRecord_modRing {r : RingNo} {f : Ring → Ring} {p : Part} (same : (f p.rings[r]).take = p.rings[r].take) :
    (p.modRing r f).headRecord r = p.headRecord r :=
  Part.headRecord_congr (by rw [Part.modRing_self]; exact same)

/-- The high flag of a ring changes. -/
theorem Part.shrinks_reviewHigh (r : RingNo) (p : Part) : p.Shrinks (p.reviewHigh r) := by
  unfold Part.reviewHigh
  split
  · exact .refl p
  · refine .of_ring (r := r) rfl (fun r' ne => Part.modRing_ne ne _ p) (by rw [Part.modRing_self]) ?_ (fun z head => ?_)
      (Part.copy_follows_self rfl) id id rfl
    · rw [Part.modRing_self]
      exact Nat.le_refl _
    · refine ⟨z, ?_, rfl, by rw [Part.modRing_self]; rfl⟩
      exact (Part.headRecord_modRing rfl).symm.trans head

theorem Part.shrinks_writeIndex (r : RingNo) (v : BitVec 16) (p : Part) : p.Shrinks (p.writeIndex r v) :=
  .of_engine rfl rfl (fun c going live => ⟨c, going, .refl live, rfl⟩) id (fun nodup => nodup_requestIndex nodup _) rfl

theorem Part.orphanCopy_cases {r : RingNo} {p : Part} {c : Copy} (going : (p.orphanCopy r).engine.copy = some c) :
    (p.engine.copy = some c ∧ c.ring ≠ r)
      ∨ ∃ c', p.engine.copy = some c' ∧ c'.ring = r ∧ c = { c' with headPresent := false } := by
  have map : (p.engine.copy.map fun c => if c.ring = r then { c with headPresent := false } else c) = some c := going
  obtain ⟨c', first, e⟩ := Option.map_eq_some_iff.mp map
  by_cases own : c'.ring = r
  · rw [if_pos own] at e
    exact .inr ⟨c', first, own, e.symm⟩
  · rw [if_neg own] at e
    exact .inl ⟨e ▸ first, e ▸ own⟩

/-- A copy orphaned by ring `r`, where ring `r` has lost its head. -/
theorem Part.copy_follows_orphan {r : RingNo} {p q : Part} (same : q.engine.copy = (p.orphanCopy r).engine.copy)
    (bare : q.headRecord r = none) (c : Copy) (going : q.engine.copy = some c) (live : c.void = false) :
    ∃ c', p.engine.copy = some c' ∧ c.Follows c' ∧ (c.headPresent = c'.headPresent ∨ q.headRecord c.ring = none) := by
  rcases Part.orphanCopy_cases (same ▸ going) with ⟨first, _⟩ | ⟨c', first, own, rfl⟩
  · exact ⟨c, first, .refl live, .inl rfl⟩
  · exact ⟨c', first, ⟨live, rfl, rfl, rfl⟩, .inr (own ▸ bare)⟩

/-- A frame of posted entries is retired (R94). -/
theorem Part.shrinks_retire {r : RingNo} {k : Nat} {p : Part} (posted : k ≤ p.rings[r].occupancy) : p.Shrinks (p.retire r k) := by
  have ring := Part.retire_ring_self r k p
  have bare : ∀ h, (p.retire r k).rings[r].take ≠ .head h := by
    intro h
    rw [ring]
    show (if _ then Take.listed else Take.idle) ≠ .head h
    split <;> nofun
  have none := Part.headRecord_of_bare bare
  have plan : (p.retire r k).plan = p.plan := Part.plan_of_frame (Part.frame_retire r k p)
  refine .of_ring (r := r) plan (fun r' ne => Part.retire_ring_ne ne k p) (by rw [ring]; rfl) ?_ (fun z head => ?_) ?_ ?_ ?_ rfl
  · rw [ring, Ring.occupancy_retired posted]
    exact Nat.sub_le _ _
  · rw [none] at head
    cases head
  · exact Part.copy_follows_orphan (r := r) rfl none
  · exact fun nodup => nodup_setTake (p := p) r _ nodup
  · intro nodup
    rw [Part.retire_indexQueue]
    exact nodup_requestIndex nodup _

theorem Part.shrinks_dropHead (r : RingNo) (why : Discard) (p : Part) : p.Shrinks (p.dropHead r why) := by
  cases head : p.headRecord r with
  | none =>
    rw [Part.dropHead_of_none head]
    exact .refl p
  | some h =>
    have none := Part.dropHead_headRecord r why p
    rw [Part.dropHead_of_some head] at none ⊢
    have ring := Part.setTake_ring_self r .idle ((p.discard why (ringSlot r) h.dests.length).orphanCopy r)
    refine .of_ring (r := r) rfl (fun r' ne => Part.setTake_ring_ne ne _ _) (by rw [ring]; rfl) (by rw [ring]; exact Nat.le_refl _) (fun z later => ?_)
      (Part.copy_follows_orphan (r := r) rfl none) (fun nodup => nodup_setTake (p := p) r _ nodup) id rfl
    rw [none] at later
    cases later

/-- The destinations of a head change, or its marks, and not its frame. -/
theorem Part.shrinks_rehead {r : RingNo} {y z : Head} {p : Part} (head : p.headRecord r = some y) (same : z.header = y.header) :
    p.Shrinks (p.modRing r fun x => { x with take := .head z }) := by
  refine .of_ring (r := r) rfl (fun r' ne => Part.modRing_ne ne _ p) (by rw [Part.modRing_self]) (by rw [Part.modRing_self]; exact Nat.le_refl _)
    (fun u later => ?_) (Part.copy_follows_self rfl) id id rfl
  refine ⟨y, head, ?_, by rw [Part.modRing_self]; rfl⟩
  have take := (Part.headRecord_eq_some.mp later).2
  rw [Part.modRing_self] at take
  rw [← Take.head.inj take]
  exact same

theorem Part.shrinks_discard (why : Discard) (n : Slot) (k : Nat) (p : Part) : p.Shrinks (p.discard why n k) :=
  .of_engine rfl rfl (fun c going live => ⟨c, going, .refl live, rfl⟩) id id rfl

theorem Part.shrinks_keepDests {r : RingNo} {h : Head} {p : Part} (head : p.headRecord r = some h)
    (posted : h.header.entries ≤ p.rings[r].occupancy) (why : Discard) (keep : Slot → Bool) : p.Shrinks (p.keepDests r h why keep) := by
  rcases Part.keepDests_cases r h why keep p with ⟨-, e⟩ | ⟨k, -, -, -, e⟩ | ⟨k, -, -, e⟩ <;> rw [e]
  · exact .refl p
  · exact (Part.shrinks_discard _ _ _ p).trans (Part.shrinks_retire (p := p.discard why (ringSlot r) k) posted)
  · exact (Part.shrinks_discard _ _ _ p).trans (Part.shrinks_rehead (p := p.discard why (ringSlot r) k) head rfl)

theorem Part.shrinks_endCopy (p : Part) : p.Shrinks p.endCopy := .of_engine rfl rfl (fun _ going => nomatch going) id id rfl

theorem Part.voidCopy_engine (p : Part) : p.voidCopy.engine.takeList = p.engine.takeList
    ∧ p.voidCopy.engine.indexQueue = p.engine.indexQueue ∧ p.voidCopy.engine.handing = p.engine.handing
    ∧ (∀ c, p.voidCopy.engine.copy = some c → c.void = true) ∧ p.voidCopy.rings = p.rings ∧ p.voidCopy.plan = p.plan := by
  have void : ∀ (c d : Copy), some { c with void := true } = some d → d.void = true := by
    rintro c d e
    cases e
    rfl
  unfold Part.voidCopy
  split
  · next none => exact ⟨rfl, rfl, rfl, fun c going => absurd (none.symm.trans going) nofun, rfl, rfl⟩
  · next c _ =>
    dsimp only
    split
    · exact ⟨rfl, rfl, rfl, void c, rfl, rfl⟩
    · exact ⟨rfl, rfl, rfl, void c, rfl, rfl⟩
    · exact ⟨rfl, rfl, rfl, nofun, rfl, rfl⟩
    · split
      · exact ⟨rfl, rfl, rfl, void c, rfl, rfl⟩
      · exact ⟨rfl, rfl, rfl, nofun, rfl, rfl⟩

theorem Part.shrinks_voidCopy (p : Part) : p.Shrinks p.voidCopy := by
  obtain ⟨takes, writes, handing, void, rings, plan⟩ := p.voidCopy_engine
  refine .of_engine plan rings (fun c going live => ?_) (by rw [takes]; exact id) (by rw [writes]; exact id) handing
  exact absurd (live.symm.trans (void c going)) nofun

/-- An egress ring without a head has its posted entries abandoned (R66, R91). -/
theorem Part.shrinks_abandon {r : RingNo} {p : Part} (none : p.headRecord r = none) :
    p.Shrinks (p.modRing r fun x => { x with consumer := x.producer }) := by
  refine .of_ring (r := r) rfl (fun r' ne => Part.modRing_ne ne _ p) (by rw [Part.modRing_self]) ?_ (fun z head => ?_)
    (Part.copy_follows_self rfl) id id rfl
  · rw [Part.modRing_self, Ring.occupancy_emptied rfl]
    exact Nat.zero_le _
  · exact absurd ((Part.headRecord_modRing rfl).symm.trans head) (by rw [none]; nofun)

end Sys2Proof.Machine
end


section
/-! PROOFS. The bookkeeping of the rings under the changes of the end of an event, of slot events and of the exchange's own events (R84,
R87, R90, R94 to R98, R105, R109). -/
namespace Sys2Proof.Machine

/-- The ring a copy is made into. -/
def Copy.into (c : Copy) : RingNo := ingressRing c.dest (ringClass c.ring)

/-- Plan `base` is in force; the rings keep to their bounds, which none of its entry counts exceeds; the entries of a head are posted; a copy that is not void knows its head, and its frame fits the
entries its destination has free; the lists hold a ring once; and `b` marks whether a WRITE's words are being handed over. -/
structure Part.Booked (base : Plan) (bound : RingNo → Nat) (b : Bool) (p : Part) : Prop where
  plan : p.plan = base
  ample : ∀ r, base.rings[r].count ≤ bound r
  within : ∀ r : RingNo, p.rings[r].occupancy ≤ bound r
  heads : ∀ r h, p.headRecord r = some h → 1 ≤ h.header.entries ∧ h.header.entries ≤ p.rings[r].occupancy
  copy : ∀ c h, p.engine.copy = some c → c.void = false → p.headRecord c.ring = some h →
    c.headPresent = true ∧ c.destPos = p.rings[c.into].producer ∧ h.header.entries ≤ bound c.into - p.rings[c.into].occupancy
  takes : p.engine.takeList.Nodup
  writes : (p.engine.indexQueue.map IndexWrite.ring).Nodup
  handing : p.engine.handing = b

section booked
variable {base : Plan} {bound : RingNo → Nat} {b : Bool} {p q : Part}

theorem Part.Booked.room (h : p.Booked base bound b) (r : RingNo) : p.plan.rings[r].count ≤ bound r := h.plan ▸ h.ample r

/-- A change that posts nothing keeps the books. -/
theorem Part.Booked.shrinks (h : p.Booked base bound b) (s : p.Shrinks q) : q.Booked base bound b where
  plan := s.plan.trans h.plan
  ample := h.ample
  within r := Nat.le_trans (s.occupancy r) (h.within r)
  heads r z head := by
    obtain ⟨y, before, same, occ⟩ := s.heads r z head
    rw [same, occ]
    exact h.heads r y before
  copy c z going live head := by
    obtain ⟨c', before, ⟨live', ring, dest, pos⟩, present⟩ := s.copy c going live
    obtain ⟨y, head', same, -⟩ := s.heads c.ring z head
    obtain ⟨known, start, fits⟩ := h.copy c' y before live' (ring ▸ head')
    have into : c'.into = c.into := by rw [Copy.into, Copy.into, ring, dest]
    refine ⟨?_, ?_, ?_⟩
    · rw [present.resolve_right (by rw [head]; nofun), known]
    · exact pos.symm.trans (start.trans ((congrArg (fun r : RingNo => p.rings[r].producer) into).trans (s.producer _).symm))
    · rw [same]
      refine Nat.le_trans (Nat.le_trans fits (Nat.le_of_eq (congrArg (fun r : RingNo => bound r - p.rings[r].occupancy) into))) ?_
      exact Nat.sub_le_sub_left (s.occupancy _) _
  takes := s.takes h.takes
  writes := s.writes h.writes
  handing := s.handing.trans h.handing

/-- The plan, the rings and the engine are the same. -/
theorem Part.Booked.same (h : p.Booked base bound b) (plan : q.plan = p.plan) (rings : q.rings = p.rings) (engine : q.engine = p.engine) :
    q.Booked base bound b := h.shrinks (.of_same plan rings engine)

theorem Part.Booked.idling (s : p.Idling q) (h : p.Booked base bound b) : q.Booked base bound b := by
  cases s with
  | idle r => exact h.shrinks (Part.shrinks_setTake _ (t := .idle) nofun p)
  | same rings engine plan => exact h.same plan rings engine

theorem Part.Booked.idles (s : p.Idles q) (h : p.Booked base bound b) : q.Booked base bound b := by
  induction s with
  | refl => exact h
  | tail _ last ih => exact .idling last ih

theorem Part.Booked.alarms (same : q.besidesAlarms = p.besidesAlarms) (h : p.Booked base bound b) : q.Booked base bound b :=
  h.idles (Part.idles_of_alarms same)

theorem Part.Booked.keepDests {r : RingNo} {y : Head} (head : p.headRecord r = some y) (why : Discard) (keep : Slot → Bool)
    (h : p.Booked base bound b) : (p.keepDests r y why keep).Booked base bound b :=
  h.shrinks (Part.shrinks_keepDests head (h.heads r y head).2 why keep)

/-! ### The end of an event -/

theorem Part.startCopy_indices {r : RingNo} {y : Head} {p : Part} (head : p.headRecord r = some y) (d : Slot) (r' : RingNo) :
    (p.startCopy r y d).rings[r'].producer = p.rings[r'].producer
      ∧ (p.startCopy r y d).rings[r'].occupancy = p.rings[r'].occupancy := by
  by_cases e : r = r'
  · subst e
    obtain ⟨g, ring⟩ := Part.startCopy_ring_self (Part.headRecord_eq_some.mp head).2 d
    exact ⟨(congrArg Ring.producer ring :), (congrArg Ring.occupancy ring :)⟩
  · have ring := Part.startCopy_ring_ne e y d p
    exact ⟨congrArg Ring.producer ring, congrArg Ring.occupancy ring⟩

theorem Part.startCopy_header {r : RingNo} {y : Head} {p : Part} (head : p.headRecord r = some y) (d : Slot) {r' : RingNo} {z : Head}
    (later : (p.startCopy r y d).headRecord r' = some z) : ∃ u, p.headRecord r' = some u ∧ z.header = u.header := by
  by_cases e : r = r'
  · subst e
    obtain ⟨g, ring⟩ := Part.startCopy_ring_self (Part.headRecord_eq_some.mp head).2 d
    have same := (congrArg Ring.take ring).symm.trans (Part.headRecord_eq_some.mp later).2
    exact ⟨y, head, by rw [← Take.head.inj same]⟩
  · have ring := congrArg Ring.take (Part.startCopy_ring_ne e y d p)
    exact ⟨z, (Part.headRecord_congr (p := p) (q := p.startCopy r y d) ring).symm.trans later, rfl⟩

/-- A copy starts into a ring that can hold its frame (R105, R109). -/
theorem Part.Booked.startCopy {r : RingNo} {y : Head} {d : Slot} (head : p.headRecord r = some y)
    (ready : p.destReady (ringClass r) y d = true) (h : p.Booked base bound b) : (p.startCopy r y d).Booked base bound b := by
  have fits : y.header.entries ≤ p.freeEntries (ingressRing d (ringClass r)) := by
    simp only [Part.destReady, Bool.and_eq_true, decide_eq_true_eq] at ready
    exact ready.2
  have plan : (p.startCopy r y d).plan = p.plan := Part.plan_of_exchange (Part.besidesExchange_startCopy r y d p)
  have engine := Part.startCopy_engine r y d p
  have occupancy := fun r' => (Part.startCopy_indices head d r').2
  refine ⟨plan.trans h.plan, h.ample, fun r' => Nat.le_trans (Nat.le_of_eq (occupancy r')) (h.within r'), fun r' z later => ?_, fun c z going _ later => ?_, ?_, ?_, ?_⟩
  · obtain ⟨u, before, same⟩ := Part.startCopy_header head d later
    rw [same, occupancy]
    exact h.heads r' u before
  · rw [engine] at going
    have fresh : p.freshCopy r d = c := Option.some.inj going
    subst fresh
    obtain ⟨u, before, same⟩ := Part.startCopy_header head d later
    have own : u = y := Option.some.inj (before.symm.trans head)
    refine ⟨rfl, (Part.startCopy_indices head d _).1.symm, ?_⟩
    rw [same, own, occupancy]
    exact Nat.le_trans fits (Nat.sub_le_sub_right (h.room _) _)
  · rw [engine]
    exact h.takes
  · rw [engine]
    exact h.writes
  · rw [engine]
    exact h.handing

theorem Part.shrinks_reviewHeads (p : Part) : p.Shrinks p.reviewHeads where
  plan := rfl
  producer r := by
    rcases p.reviewHeads_ring r with e | ⟨y, since, why, -, e⟩ <;> rw [e]
  occupancy r := by
    rcases p.reviewHeads_ring r with e | ⟨y, since, why, -, e⟩
    · exact Nat.le_of_eq (by rw [e])
    · exact Nat.le_of_eq (by rw [e] <;> rfl)
  heads r z head := by
    obtain ⟨egress, take⟩ := Part.headRecord_eq_some.mp head
    rcases p.reviewHeads_ring r with e | ⟨y, since, why, was, e⟩
    · rw [e] at take
      exact ⟨z, Part.headRecord_eq_some.mpr ⟨egress, take⟩, rfl, by rw [e]⟩
    · rw [e] at take
      refine ⟨y, Part.headRecord_eq_some.mpr ⟨egress, was⟩, ?_, by rw [e]; rfl⟩
      rw [← Take.head.inj take]
  copy := Part.copy_follows_self rfl
  takes := id
  writes := id
  handing := rfl

theorem Part.Booked.settling (s : p.Settling q) (h : p.Booked base bound b) : q.Booked base bound b := by
  cases s with
  | keepDests head => exact h.keepDests head _ _
  | orderJoins stood =>
    refine h.shrinks (.of_engine rfl rfl (fun c going live => ⟨c, going, .refl live, rfl⟩) ?_ ?_ rfl)
    · exact (joinInOrder_perm id stood.takes p.engine.takeList).nodup_iff.mpr
    · exact ((joinInOrder_perm IndexWrite.ring stood.writes p.engine.indexQueue).map IndexWrite.ring).nodup_iff.mpr
  | endBatch | markInstant => exact h.shrinks (.of_engine rfl rfl (fun c going live => ⟨c, going, .refl live, rfl⟩) id id rfl)
  | startCopy copy head ready => exact h.startCopy head (List.find?_some ready)
  | reviewHeads => exact h.shrinks p.shrinks_reviewHeads
  | @issueIndex w rest free queue =>
    refine h.shrinks (.of_engine rfl rfl (fun c going live => ⟨c, going, .refl live, rfl⟩) id ?_ rfl)
    intro nodup
    rw [queue, List.map_cons] at nodup
    exact (List.nodup_cons.mp nodup).2
  | @issueHeader r rest free list =>
    refine (h.shrinks (Part.shrinks_setTake r (t := .reading) nofun p)).shrinks ?_
    exact .of_engine rfl rfl (fun c going live => ⟨c, going, .refl live, rfl⟩) id id rfl
  | @issueCopy c a free copy due =>
    refine h.shrinks (.of_engine rfl rfl (fun d going live => ⟨c, copy, ?_⟩) id id rfl)
    have next : { c with due := .nothing } = d := Option.some.inj going
    subst next
    exact ⟨⟨live, rfl, rfl, rfl⟩, rfl⟩

theorem Part.Booked.settles (s : p.Settles q) (h : p.Booked base bound b) : q.Booked base bound b :=
  s.keeps (P := Part.Booked base bound b) (fun _ _ => Part.Booked.settling) h

theorem Part.Booked.ends (s : p.Ends q) (h : p.Booked base bound b) : q.Booked base bound b :=
  s.keeps (P := Part.Booked base bound b) (fun _ _ => Part.Booked.idling) (fun _ _ => Part.Booked.settling) h

theorem Part.Booked.settleExchange (old : Engine) (h : p.Booked base bound b) : (p.settleExchange old).Booked base bound b :=
  h.settles (Part.settles_settleExchange old p)

/-! ### Settlement and ring resets -/

theorem Part.shrinks_modPort (n : Slot) (f : Port → Port) (p : Part) : p.Shrinks (p.modPort n f) := .of_same rfl rfl rfl

theorem Part.shrinks_dropHeads (n : Slot) (p : Part) : p.Shrinks (p.dropHeads n) :=
  Part.Shrinks.forEach (fun _ q => Part.shrinks_dropHead _ _ q) p

theorem Part.shrinks_abandonPosted {r : RingNo} {p : Part} (none : p.headRecord r = none) : p.Shrinks (p.abandonPosted r) := by
  unfold Part.abandonPosted
  split
  · exact (Part.shrinks_abandon none).trans (Part.shrinks_writeIndex _ _ _)
  · exact .refl p

theorem Part.abandonPosted_headRecord (r : RingNo) (p : Part) (r' : RingNo) :
    (p.abandonPosted r).headRecord r' = p.headRecord r' := by
  unfold Part.abandonPosted
  split
  · by_cases e : r = r'
    · subst e
      exact Part.headRecord_modRing (p := p) (f := fun x => { x with consumer := x.producer }) rfl
    · exact Part.headRecord_congr (p := p) (congrArg Ring.take (Part.modRing_ne e _ p))
  · rfl

theorem Part.shrinks_abandonAll {n : Slot} {p : Part} (none : ∀ c, p.headRecord (egressRing n c) = none) :
    p.Shrinks (p.abandonAll n) := by
  have both := forEach_invariant (fun q : Part => p.Shrinks q ∧ ∀ c, q.headRecord (egressRing n c) = Option.none) 4
    (fun c q => q.abandonPosted (egressRing n c)) (fun c q hq => ⟨hq.1.trans (Part.shrinks_abandonPosted (hq.2 c)), fun c' => by
      rw [Part.abandonPosted_headRecord]
      exact hq.2 c'⟩) p ⟨.refl p, none⟩
  exact both.1

theorem Part.shrinks_settleSlot (n : Slot) (p : Part) : p.Shrinks (p.settleSlot n) := by
  have dropped : ∀ c, (p.dropHeads n).headRecord (egressRing n c) = none := fun c => (p.dropHeads_ring n c).1
  rw [Part.settleSlot_eq]
  refine ((p.shrinks_dropHeads n).trans (Part.shrinks_abandonAll dropped)).trans ?_
  exact Part.shrinks_modPort n _ _

end booked

end Sys2Proof.Machine
end


section
/-! PROOFS. The bookkeeping of the rings under the reset of rings and under the moves of a slot (R63, R66, R98, R99). -/
namespace Sys2Proof.Machine

section booked
variable {base : Plan} {bound : RingNo → Nat} {b : Bool} {p q : Part}

/-! ### A ring that no copy is made into -/

/-- No copy that goes on is made into ring `r`. -/
def Part.Clear (r : RingNo) (p : Part) : Prop :=
  ∀ c h, p.engine.copy = some c → c.void = false → p.headRecord c.ring = some h → c.into ≠ r

theorem Part.Clear.shrinks {r : RingNo} (s : p.Shrinks q) (clear : p.Clear r) : q.Clear r := by
  intro c z going live head
  obtain ⟨c', before, ⟨live', ring, dest, -⟩, -⟩ := s.copy c going live
  obtain ⟨y, head', -, -⟩ := s.heads c.ring z head
  have into : c'.into = c.into := by rw [Copy.into, Copy.into, ring, dest]
  rw [← into]
  exact clear c' y before live' (ring ▸ head')

theorem Part.clear_of_idle (none : p.engine.copy = none) (r : RingNo) : p.Clear r :=
  fun _ _ going => absurd (none.symm.trans going) nofun

theorem Part.clear_of_egress {r : RingNo} (e : isEgress r = true) : p.Clear r := by
  intro c _ _ _ _ into
  have ingress : isEgress c.into = false := isEgress_ingressRing _ _
  rw [into, e] at ingress
  cases ingress

/-- A ring that no copy is made into moves its indices, its head still posted. -/
theorem Part.Booked.modRing {r : RingNo} {f : Ring → Ring} (take : (f p.rings[r]).take = p.rings[r].take) (clear : p.Clear r)
    (within : (f p.rings[r]).occupancy ≤ bound r)
    (heads : ∀ y, p.headRecord r = some y → y.header.entries ≤ (f p.rings[r]).occupancy) (h : p.Booked base bound b) :
    (p.modRing r f).Booked base bound b where
  plan := h.plan
  ample := h.ample
  within r' := by
    by_cases e : r = r'
    · subst e
      rw [Part.modRing_self]
      exact within
    · rw [Part.modRing_ne e]
      exact h.within r'
  heads r' z head := by
    by_cases e : r = r'
    · subst e
      have before := (Part.headRecord_modRing take).symm.trans head
      rw [Part.modRing_self]
      exact ⟨(h.heads r z before).1, heads z before⟩
    · rw [Part.modRing_ne e]
      exact h.heads r' z ((Part.headRecord_congr (p := p) (congrArg Ring.take (Part.modRing_ne e f p))).symm.trans head)
  copy c z going live head := by
    have before : p.headRecord c.ring = some z := by
      refine (Part.headRecord_congr (p := p) (q := p.modRing r f) ?_).symm.trans head
      by_cases e : r = c.ring
      · rw [← e, Part.modRing_self]
        exact take
      · rw [Part.modRing_ne e]
    obtain ⟨known, start, fits⟩ := h.copy c z going live before
    have still := Part.modRing_ne (Ne.symm (clear c z going live before)) f p
    refine ⟨known, start.trans (congrArg Ring.producer still).symm, Nat.le_trans fits (Nat.le_of_eq ?_)⟩
    rw [still]
  takes := h.takes
  writes := h.writes
  handing := h.handing

/-! ### The reset of rings -/

theorem Part.shrinks_cleared (why : Discard) (r : RingNo) (p : Part) : p.Shrinks (p.cleared why r) :=
  (Part.shrinks_dropHead r why p).trans (Part.shrinks_setTake r (t := .idle) nofun _)

theorem Part.Booked.zeroed {r : RingNo} (bare : p.rings[r].take = .idle) (clear : p.Clear r) (h : p.Booked base bound b) :
    (((p.modRing r fun x => { x with producer := 0, consumer := 0, high := false }).setWatched (cardOwnedWord r) 0).writeIndex r
      0).Booked base bound b := by
  have empty : Ring.occupancy { p.rings[r] with producer := 0, consumer := 0, high := false } = 0 := Ring.occupancy_emptied rfl
  have zero : (p.modRing r fun x => { x with producer := 0, consumer := 0, high := false }).Booked base bound b :=
    h.modRing (f := fun x => { x with producer := 0, consumer := 0, high := false }) rfl clear (Nat.le_trans (Nat.le_of_eq empty) (Nat.zero_le _))
      fun y head => absurd (bare.symm.trans (Part.headRecord_eq_some.mp head).2) nofun
  exact (zero.same (q := (p.modRing r _).setWatched (cardOwnedWord r) 0) rfl rfl rfl).shrinks (Part.shrinks_writeIndex r 0 _)

theorem Part.Booked.resetRing {r : RingNo} (why : Discard) (clear : p.Clear r) (h : p.Booked base bound b) :
    (p.resetRing why r).Booked base bound b := by
  rw [Part.resetRing_eq]
  exact (h.shrinks (Part.shrinks_cleared why r p)).zeroed (Part.cleared_take why r p) (clear.shrinks (Part.shrinks_cleared why r p))

theorem Part.resetRing_clear {r r' : RingNo} (why : Discard) (clear : p.Clear r') : (p.resetRing why r).Clear r' := by
  have first := clear.shrinks (Part.shrinks_cleared why r p)
  rw [Part.resetRing_eq]
  intro c z going live head
  refine first c z going live ?_
  refine (Part.headRecord_congr (p := p.cleared why r)
    (q := (p.cleared why r).modRing r fun x => { x with producer := 0, consumer := 0, high := false }) ?_).symm.trans head
  by_cases e : r = c.ring
  · rw [← e, Part.modRing_self]
  · rw [Part.modRing_ne e]

/-- No copy that goes on is made into a ring of slot `n`. -/
def Part.ClearOf (n : Slot) (p : Part) : Prop := ∀ r, ringSlot r = n → p.Clear r

theorem Part.ClearOf.shrinks {n : Slot} (s : p.Shrinks q) (clear : p.ClearOf n) : q.ClearOf n := fun r own => (clear r own).shrinks s

theorem Part.shrinks_voidInto {n : Slot} (h : p.Booked base bound b) : p.Shrinks (p.voidInto n) := by
  unfold Part.voidInto
  split
  · split
    · split
      · next c _ _ y head =>
        have void := p.voidCopy_engine
        refine p.shrinks_voidCopy.trans (Part.shrinks_keepDests ?_ ?_ _ _)
        · rw [Part.headRecord_congr (p := p) (by rw [void.2.2.2.2.1]), head]
        · rw [void.2.2.2.2.1]
          exact (h.heads _ y head).2
      · exact .refl p
    · exact .refl p
  · exact .refl p

theorem Part.shrinks_voidFrom (n : Slot) (p : Part) : p.Shrinks (p.voidFrom n) := by
  unfold Part.voidFrom
  split
  · split
    · exact p.shrinks_voidCopy
    · exact .refl p
  · exact .refl p

/-- A copy made void is made into no ring. -/
theorem Part.clear_voidCopy (r : RingNo) (p : Part) : p.voidCopy.Clear r := by
  obtain ⟨-, -, -, void, -, -⟩ := p.voidCopy_engine
  exact fun c _ going live => absurd (live.symm.trans (void c going)) nofun

theorem Part.clearOf_voidInto {n : Slot} (h : p.Booked base bound b) : (p.voidInto n).ClearOf n := by
  intro r own
  unfold Part.voidInto
  split
  case h_2 none => exact Part.clear_of_idle none r
  next c copy =>
  split
  · split
    · next y head =>
      have void := p.voidCopy_engine
      refine (p.clear_voidCopy r).shrinks (Part.shrinks_keepDests ?_ ?_ _ _)
      · rw [Part.headRecord_congr (p := p) (by rw [void.2.2.2.2.1]), head]
      · rw [void.2.2.2.2.1]
        exact (h.heads _ y head).2
    · next none =>
      intro c' z going _ head
      rw [← Option.some.inj (copy.symm.trans going), none] at head
      cases head
  · next out =>
    intro c' z going live head into
    have same := Option.some.inj (copy.symm.trans going)
    obtain ⟨known, -, -⟩ := h.copy c' z going live head
    refine out ?_
    have dest : c'.dest = n := by
      rw [← own, ← into, Copy.into, ringSlot_ingressRing]
    rw [same, dest, known, live]
    simp

theorem ringSlot_slotRing (n : Slot) (k : Fin 8) : ringSlot (slotRing n k) = n :=
  Fin.ext (show (n.val * 8 + k.val) / 8 = n.val by omega)

theorem Part.Booked.resetPresent {n : Slot} (clear : p.ClearOf n) (h : p.Booked base bound b) : (p.resetPresent n).Booked base bound b := by
  have both := forEach_invariant (fun q : Part => q.Booked base bound b ∧ q.ClearOf n) 8
    (fun k q => if q.plan.rings[slotRing n k].present then q.resetRing .sourceDown (slotRing n k) else q)
    (fun k q hq => Part.resetPresent_round (slotRing n k) q (fun u => u.Booked base bound b ∧ u.ClearOf n)
      ⟨hq.1.resetRing _ (hq.2 _ (ringSlot_slotRing n k)), fun r own => Part.resetRing_clear _ (hq.2 r own)⟩ hq) p ⟨h, clear⟩
  exact both.1

theorem Part.Booked.resetSlotRings (n : Slot) (h : p.Booked base bound b) : (p.resetSlotRings n).Booked base bound b := by
  have into := Part.shrinks_voidInto (n := n) h
  have out := Part.shrinks_voidFrom n (p.voidInto n)
  rw [Part.resetSlotRings_eq]
  exact ((h.shrinks into).shrinks out).resetPresent ((Part.clearOf_voidInto h).shrinks out)

/-! ### Slot events -/

theorem Part.Booked.admitSlot (n : Slot) (h : p.Booked base bound b) : (p.admitSlot n).Booked base bound b := by
  rw [Part.admitSlot_eq]
  exact (h.resetSlotRings n).idles (Part.idles_enterAdmitted n _)

theorem Part.idles_retrain (n : Slot) (p : Part) : p.Idles (p.retrain n) := by
  have train : p.Idles ((((p.modPort n Port.linkDown).dropRequests n).cancelCheck n).enterTraining n) :=
    (((Part.idles_modPort n _ p).trans (Part.idles_dropRequests n _)).trans (Part.idles_cancelCheck n _)).trans
      (Part.idles_enterTraining n _)
  unfold Part.retrain
  dsimp only
  split
  · exact train.trans (Part.idles_modPort n _ _)
  · exact train

theorem Part.idles_endTraining (n : Slot) (p : Part) : p.Idles (p.endTraining n) := by
  have linked := Part.idles_modPort n (fun x => { x.linkUp with stateTimer := none }) p
  unfold Part.endTraining Part.admitWaived
  dsimp only
  split
  · exact (linked.trans (Part.idles_setState n .admitted _)).trans (Part.idles_modPort n _ _)
  · exact (linked.trans (Part.idles_setState n .quarantine _)).trans (Part.idles_modPort n _ _)

theorem Part.idles_presenceIsFound (n : Slot) (p : Part) : p.Idles (p.presenceIsFound n) := by
  have found := Part.idles_modPort n (fun x => { x with presence := true, presenceTimer := none }) p
  unfold Part.presenceIsFound
  dsimp only
  split
  · split
    · exact found.trans (Part.idles_enterPowering n _)
    · exact found.trans (Part.idles_enterStandby n _)
  · exact found

theorem Part.idles_presenceIsLost (n : Slot) (p : Part) : p.Idles (p.presenceIsLost n) := by
  have lost := Part.idles_modPort n (fun x => { x with presence := false, presenceTimer := none }) p
  unfold Part.presenceIsLost
  dsimp only
  split
  iterate 3 exact lost.trans (Part.idles_enterEmpty n _)
  iterate 4 exact lost.trans (Part.idles_enterRemoving n false _)
  iterate 2 exact lost

theorem Part.Booked.move {n : Slot} (m : p.SlotMove n q) (h : p.Booked base bound b) : q.Booked base bound b := by
  cases m with
  | fence _ why off => exact h.idles (Part.idles_enterFenced n why off p)
  | cutFence _ why => exact h.idles ((Part.idles_modPort n _ p).trans (Part.idles_enterFenced n why false _))
  | remove cycle => exact h.idles (Part.idles_enterRemoving n cycle p)
  | retrain _ => exact h.idles (Part.idles_retrain n p)
  | release _ => exact h.idles (Part.idles_takeRelease n p)
  | power _ => exact h.idles (Part.idles_enterPowering n p)
  | train _ => exact h.idles (Part.idles_enterTraining n p)
  | endTraining _ => exact h.idles (Part.idles_endTraining n p)
  | found => exact h.idles (Part.idles_presenceIsFound n p)
  | lost => exact h.idles (Part.idles_presenceIsLost n p)
  | enroll _ => exact h.admitSlot n
  | settle => exact h.shrinks (Part.shrinks_settleSlot n p)
  | leave _ =>
    rw [Part.leaveRemoving_eq]
    exact (h.shrinks (Part.shrinks_settleSlot n p)).idles (Part.idles_leave n _ _)
  | event i _ => exact h.alarms (Part.besidesAlarms_raiseEvent i p)
  | lose => exact h.idles (Part.idles_modPort n _ p)
  | note f _ => exact h.idles (Part.idles_modPort n f p)

theorem Part.Booked.moves {n : Slot} (m : p.SlotMoves n q) (h : p.Booked base bound b) : q.Booked base bound b :=
  m.keeps (P := Part.Booked base bound b) (fun _ _ => Part.Booked.move) h

end booked

end Sys2Proof.Machine
end


section
/-! PROOFS. The bookkeeping of the rings under index words, header reads, copies and deliveries (R87, R90 to R96, R109 to R115). -/
namespace Sys2Proof.Machine

section booked
variable {base : Plan} {bound : RingNo → Nat} {b : Bool} {p q : Part}

/-! ### Index words -/

theorem Part.Booked.ringFault (n : Slot) (h : p.Booked base bound b) : (p.ringFault n).Booked base bound b :=
  (h.shrinks (Part.shrinks_modPort n _ p)).alarms (Part.besidesAlarms_raiseEvent _ _)

theorem Take.keeps_of_head {t : Take} {y : Head} (head : t = .head y) : t.keeps = y.header.entries := by
  subst head
  rfl

/-- A producer value that the ring table takes posts no more than the ring holds, and withdraws nothing of the head (R87). -/
theorem Part.Booked.takeProducer {r : RingNo} {v : BitVec 16} (egress : isEgress r = true) (sound : p.producerSound r v = true)
    (h : p.Booked base bound b) : (p.takeProducer r v).Booked base bound b := by
  obtain ⟨fits, keeps⟩ := Part.producerSound_iff.mp sound
  have posted : (p.modRing r fun x => { x with producer := v }).Booked base bound b := by
    refine h.modRing (f := fun x => { x with producer := v }) rfl (Part.clear_of_egress egress) (Nat.le_trans fits (h.room r)) fun y head => ?_
    rw [← Take.keeps_of_head (Part.headRecord_eq_some.mp head).2]
    exact keeps
  rcases p.takeProducer_cases r v with ⟨-, e⟩ | ⟨-, e⟩ | ⟨-, -, e⟩ <;> rw [e]
  · exact posted.shrinks (Part.shrinks_setTake r (t := .listed) nofun _)
  · exact posted.shrinks (Part.shrinks_setTake r (t := .idle) nofun _)
  · exact posted

theorem Part.Booked.judgeProducer {r : RingNo} (egress : isEgress r = true) (v : BitVec 16) (h : p.Booked base bound b) :
    (p.judgeProducer r v).Booked base bound b := by
  unfold Part.judgeProducer
  split
  · exact h
  · split
    · next sound => exact (h.takeProducer egress sound).settleExchange _
    · exact h.ringFault _

theorem Part.headRecord_of_ingress {r : RingNo} (ingress : isEgress r = false) (p : Part) : p.headRecord r = none := by
  rw [Option.eq_none_iff_forall_ne_some]
  exact fun z head => absurd (ingress.symm.trans (Part.headRecord_eq_some.mp head).1) nofun

/-- A consumer value that the ring table takes frees entries (R96). -/
theorem Part.shrinks_consume {r : RingNo} {v : BitVec 16} (ingress : isEgress r = false) (sound : p.consumerSound r v = true) :
    p.Shrinks (p.modRing r fun x => { x with consumer := v }) := by
  refine .of_ring (r := r) rfl (fun r' ne => Part.modRing_ne ne _ p) (by rw [Part.modRing_self]) ?_ (fun z head => ?_)
    (Part.copy_follows_self rfl) id id rfl
  · rw [Part.modRing_self]
    exact of_decide_eq_true sound
  · rw [Part.headRecord_of_ingress ingress] at head
    cases head

theorem Part.Booked.judgeConsumer {r : RingNo} (ingress : isEgress r = false) (v : BitVec 16) (h : p.Booked base bound b) :
    (p.judgeConsumer r v).Booked base bound b := by
  unfold Part.judgeConsumer
  split
  · exact h
  · split
    · next sound =>
      have freed := (h.shrinks (Part.shrinks_consume ingress sound)).shrinks (Part.shrinks_reviewHigh r _)
      exact (freed.settleExchange _).alarms (Part.besidesAlarms_report _ _)
    · exact h.ringFault _

/-! ### Header reads -/

theorem Part.Booked.complete (rest : List Flight) (err : Bool) (h : p.Booked base bound b) : (p.complete rest err).Booked base bound b :=
  (h.same (q := { p with flights := rest }) rfl rfl rfl).alarms (Part.besidesAlarms_complete rest err p)

theorem Part.shrinks_chargeTake (r : RingNo) (y : FrameHeader) (p : Part) : p.Shrinks (p.chargeTake r y) := by
  have cut : ∀ (q : Part) (i j : Nat) (why : Discard), p.Shrinks q →
      p.Shrinks (if i = j then q else q.discard why (ringSlot r) (j - i)) := by
    intro q i j why same
    split
    · exact same
    · exact same.trans (Part.shrinks_discard _ _ _ q)
  exact cut _ _ _ .oversize (cut _ _ _ .destDown (Part.shrinks_modPort _ _ p))

/-- A frame of posted entries becomes the head of a ring that no copy is made of (R92). -/
theorem Part.Booked.becomeHead {r : RingNo} {y : Head} (apart : ∀ c, p.engine.copy = some c → c.void = false → c.ring ≠ r)
    (one : 1 ≤ y.header.entries) (posted : y.header.entries ≤ p.rings[r].occupancy) (h : p.Booked base bound b) :
    (p.setTake r (.head y)).Booked base bound b := by
  have ring := Part.setTake_ring_self r (.head y) p
  have indices : ∀ r' : RingNo, (p.setTake r (.head y)).rings[r'].producer = p.rings[r'].producer
      ∧ (p.setTake r (.head y)).rings[r'].occupancy = p.rings[r'].occupancy := by
    intro r'
    by_cases e : r = r'
    · subst e
      rw [ring]
      exact ⟨rfl, rfl⟩
    · rw [Part.setTake_ring_ne e]
      exact ⟨rfl, rfl⟩
  have before : ∀ {r' z}, r ≠ r' → (p.setTake r (.head y)).headRecord r' = some z → p.headRecord r' = some z := fun ne head =>
    (Part.headRecord_congr (p := p) (congrArg Ring.take (Part.setTake_ring_ne ne _ p))).symm.trans head
  refine ⟨h.plan, h.ample, fun r' => Nat.le_trans (Nat.le_of_eq (indices r').2) (h.within r'), fun r' z head => ?_, fun c z going live head => ?_, ?_, h.writes,
    h.handing⟩
  · rw [(indices r').2]
    by_cases e : r = r'
    · subst e
      have take := (Part.headRecord_eq_some.mp head).2
      rw [ring] at take
      rw [← Take.head.inj take]
      exact ⟨one, posted⟩
    · exact h.heads r' z (before e head)
  · obtain ⟨known, start, fits⟩ := h.copy c z going live (before (Ne.symm (apart c going live)) head)
    refine ⟨known, start.trans (indices _).1.symm, ?_⟩
    rw [(indices _).2]
    exact fits
  · exact nodup_setTake r _ h.takes

theorem Part.Booked.takeFrame {r : RingNo} {y : FrameHeader}
    (apart : ∀ c, p.engine.copy = some c → c.void = false → c.ring ≠ r) (one : 1 ≤ y.entries)
    (posted : y.entries ≤ p.rings[r].occupancy) (h : p.Booked base bound b) : (p.takeFrame r y).Booked base bound b := by
  have charge := Part.shrinks_chargeTake r y p
  have still : (p.chargeTake r y).rings = p.rings := (Part.sameRings_chargeTake r y p).1
  have posted' : y.entries ≤ (p.chargeTake r y).rings[r].occupancy := by
    rw [still]
    exact posted
  rw [Part.takeFrame_eq]
  split
  · exact (h.shrinks charge).shrinks (Part.shrinks_retire posted')
  · refine (h.shrinks charge).becomeHead (fun c going live => ?_) one posted'
    obtain ⟨c', before, ⟨live', ring, -⟩, -⟩ := charge.copy c going live
    rw [← ring]
    exact apart c' before live'

theorem Part.shrinks_abandonRing {r : RingNo} (bare : p.headRecord r = none) : p.Shrinks (p.abandonRing r) :=
  (((Part.shrinks_abandon bare).trans (Part.shrinks_writeIndex r _ _)).trans (Part.shrinks_modPort _ _ _)).trans
    (Part.shrinks_setTake r (t := .idle) nofun _)

/-- A header read is acted on: the ring waits, its postings are abandoned, or a posted frame is taken (R90). -/
theorem Part.Booked.headerDone {r : RingNo} (served : ∀ c, p.engine.copy = some c → c.void = false → p.headRecord c.ring ≠ none)
    (err : Bool) (data : List Byte) (h : p.Booked base bound b) : (p.headerDone r err data).Booked base bound b := by
  unfold Part.headerDone
  dsimp only
  split
  · exact h
  next reading =>
  have bare : p.headRecord r = none := Part.headRecord_of_bare fun y take => reading (by rw [take]; nofun)
  split
  · exact h.shrinks (Part.shrinks_setTake r (t := .waiting) nofun p)
  split
  · rw [Part.malformedHeader_eq]
    exact (h.shrinks (Part.shrinks_abandonRing bare)).alarms (Part.besidesAlarms_raiseEvent _ _)
  next sound =>
  split
  · exact h.shrinks (Part.shrinks_setTake r (t := .waiting) nofun p)
  next posted =>
  refine h.takeFrame (fun c going live own => served c going live (own ▸ bare)) ?_ (Nat.not_lt.mp posted)
  rw [FrameHeader.malformed_iff] at sound
  omega

/-! ### Copies -/

theorem Part.shrinks_endBatch (bt : Batch) (p : Part) : p.Shrinks (p.endBatch bt) :=
  .of_engine rfl rfl (fun c going live => ⟨c, going, .refl live, rfl⟩) id id rfl

theorem Part.Booked.serveHead (r : RingNo) (h : p.Booked base bound b) : (p.serveHead r).Booked base bound b := by
  unfold Part.serveHead
  split
  · next y head =>
    split
    · next d ready => exact h.startCopy head (List.find?_some ready)
    · exact h
  · exact h

theorem Part.Booked.choose (h : p.Booked base bound b) : p.choose.Booked base bound b := by
  unfold Part.choose
  split
  · next r _ =>
    have begun : (p.modEngine fun e => { e with batch := some { ring := r, count := 0 } }).Booked base bound b :=
      h.shrinks (.of_engine rfl rfl (fun c going live => ⟨c, going, .refl live, rfl⟩) id id rfl)
    exact (begun.serveHead r).settleExchange _
  · exact h

theorem Part.Booked.expireHead (r : RingNo) (h : p.Booked base bound b) : (p.expireHead r).Booked base bound b := by
  unfold Part.expireHead
  split
  · next y head =>
    have kept := h.keepDests head .holdExpired fun _ => false
    dsimp only
    split
    · split
      · exact kept.shrinks (Part.shrinks_endBatch _ _)
      · exact kept
    · exact kept
  · exact h

/-- The copy goes on with another access due. -/
theorem Part.shrinks_goOn {c d : Copy} (going : p.engine.copy = some c) (follows : d.void = false → d.Follows c)
    (present : d.headPresent = c.headPresent) : p.Shrinks (p.modEngine fun e => { e with copy := some d }) :=
  .of_engine rfl rfl (fun e now live => by
    have same : d = e := Option.some.inj now
    subst same
    exact ⟨c, going, follows live, present⟩) id id rfl

theorem Part.Booked.copyBlockRead {c : Copy} (going : p.engine.copy = some c) (data : List Byte) (h : p.Booked base bound b) :
    (p.copyBlockRead c data).Booked base bound b := by
  unfold Part.copyBlockRead
  split
  · exact h.shrinks p.shrinks_endCopy
  · exact h.shrinks (Part.shrinks_goOn going (fun live => ⟨live, rfl, rfl, rfl⟩) rfl)

theorem Part.Booked.copyBlockWritten {c : Copy} (going : p.engine.copy = some c) (h : p.Booked base bound b) :
    (p.copyBlockWritten c).Booked base bound b := by
  unfold Part.copyBlockWritten
  split
  · exact h.shrinks p.shrinks_endCopy
  · have next : ∀ entries : Nat, p.Shrinks (p.modEngine fun e => { e with copy := some (if c.block + 1 < 2 * entries then
        { c with block := c.block + 1, due := .read } else { c with due := .producer }) }) := by
      intro entries
      split
      · exact Part.shrinks_goOn going (fun live => ⟨live, rfl, rfl, rfl⟩) rfl
      · exact Part.shrinks_goOn going (fun live => ⟨live, rfl, rfl, rfl⟩) rfl
    exact h.shrinks (next _)

theorem Part.Booked.copyReadError (c : Copy) (h : p.Booked base bound b) : (p.copyReadError c).Booked base bound b := by
  have ended := h.shrinks p.shrinks_endCopy
  unfold Part.copyReadError
  dsimp only
  split
  · exact ended
  · split
    · next y head => exact ended.keepDests head _ _
    · exact ended

theorem Part.Booked.copyReadDone (err : Bool) (h : p.Booked base bound b) : (p.copyReadDone err).Booked base bound b := by
  unfold Part.copyReadDone
  split
  · next data rest c flights copy =>
    have done := h.complete rest err
    have going : (p.complete rest err).engine.copy = some c := by
      rw [Part.engine_of_alarms (Part.besidesAlarms_complete rest err p)]
      exact copy
    dsimp only
    split
    · exact (done.copyReadError c).settleExchange _
    · exact (done.copyBlockRead going data).settleExchange _
  · exact h.complete _ _
  · exact h

/-! ### Deliveries -/

/-- A frame is delivered into the entries its copy was made into, and the copy has ended (R95). -/
theorem Part.Booked.stowed {c : Copy} {y : Head} (going : p.engine.copy = some c) (live : c.void = false)
    (head : p.headRecord c.ring = some y) (h : p.Booked base bound b) : (p.stowed c y).Booked base bound b := by
  obtain ⟨-, -, fits⟩ := h.copy c y going live head
  have ended := h.shrinks p.shrinks_endCopy
  have full : (p.filled c y).occupancy ≤ p.rings[c.into].occupancy + y.header.entries := Ring.occupancy_filled p.rings[c.into] y.header.entries
  have within := h.within c.into
  have one := (h.heads c.ring y head).1
  have filled : (p.endCopy.modRing c.into fun _ => p.filled c y).Booked base bound b := by
    refine ended.modRing (f := fun _ => p.filled c y) rfl (Part.clear_of_idle rfl _) (by omega) fun z later => ?_
    exact absurd (later.symm.trans (Part.headRecord_of_ingress (isEgress_ingressRing _ _) _)) nofun
  have plan : (p.stowed c y).plan = p.plan :=
    (Part.plan_of_exchange (Part.besidesExchange_stowed c y p)).trans rfl
  exact filled.same plan (Part.stowed_rings c y p) (Part.stowed_engine c y p)

theorem Part.stowed_headRecord {c : Copy} {y : Head} (head : p.headRecord c.ring = some y) :
    (p.stowed c y).headRecord c.ring = some y := by
  have ne : ingressRing c.dest (ringClass c.ring) ≠ c.ring := by
    intro e
    have ingress : isEgress c.ring = false := e ▸ isEgress_ingressRing _ _
    rw [Part.headRecord_of_ingress ingress] at head
    cases head
  rw [Part.headRecord_congr (p := p), head]
  rw [Part.stowed_rings]
  exact congrArg Ring.take (Part.modRing_ne ne _ p)

theorem Part.Booked.deliver {c : Copy} (going : p.engine.copy = some c) (live : c.void = false) (h : p.Booked base bound b) :
    (p.deliver c).Booked base bound b := by
  cases head : p.headRecord c.ring with
  | none =>
    unfold Part.deliver
    rw [head]
    exact h.shrinks p.shrinks_endCopy
  | some y =>
    have stowed := h.stowed going live head
    have still := Part.stowed_headRecord head
    rw [Part.deliver_of_head head]
    unfold Part.keepOthers
    split
    · exact stowed.shrinks (Part.shrinks_retire (stowed.heads _ y still).2)
    · exact stowed.shrinks (Part.shrinks_rehead still rfl)

end booked

end Sys2Proof.Machine
end


section
/-! PROOFS. The bookkeeping of the rings at an activation (R47, R79, R80, R97, R100, R115, R121): the rings that change are empty under
the new plan, and the others have the entry count they had. -/
namespace Sys2Proof.Machine

/-- The entry counts a plan gives. -/
def Plan.counts (plan : Plan) (r : RingNo) : Nat := plan.rings[r].count

/-- The entry counts of plan `new`, with no bound on a ring that changes from plan `old`. -/
def Plan.countsAfter (old new : Plan) (r : RingNo) : Nat :=
  if ringChanged old.rings[r] new.rings[r] = true then max 65536 (new.counts r) else new.counts r

theorem Plan.counts_le_countsAfter (old new : Plan) (r : RingNo) : new.counts r ≤ old.countsAfter new r := by
  unfold Plan.countsAfter
  split
  · exact Nat.le_max_right _ _
  · exact Nat.le_refl _

/-- A ring that does not change keeps its entry count (R47). -/
theorem count_of_unchanged {old new : RingPlan} (h : ringChanged old new = false) : new.count = old.count := by
  unfold ringChanged RingPlan.present at h
  simp only [Bool.and_eq_false_iff, Bool.or_eq_false_iff, bne_eq_false_iff_eq] at h
  rcases h with ⟨none, none'⟩ | ⟨-, same⟩
  · rw [none, none']
  · exact same.symm

section booked
variable {b : Bool} {p q : Part}

/-! ### The rings under the new plan -/

theorem Part.Booked.replan (new : Plan) (quiet : p.engine.copy = none) (h : p.Booked p.plan p.plan.counts b) :
    (p.replan new).Booked new (p.plan.countsAfter new) b where
  plan := rfl
  ample := Plan.counts_le_countsAfter p.plan new
  within r := by
    show p.rings[r].occupancy ≤ p.plan.countsAfter new r
    unfold Plan.countsAfter
    split
    · exact Nat.le_trans (Nat.le_of_lt p.rings[r].occupancy_lt) (Nat.le_max_left _ _)
    · next same => exact Nat.le_trans (h.within r) (Nat.le_of_eq (count_of_unchanged (Bool.eq_false_iff.mpr same)).symm)
  heads := h.heads
  copy _ _ going := absurd (quiet.symm.trans going) nofun
  takes := h.takes
  writes := h.writes
  handing := h.handing

/-- A round of the reset of the changed rings. -/
def Part.resetIfChanged (old : Plan) (r : RingNo) (p : Part) : Part :=
  if ringChanged old.rings[r] p.plan.rings[r] then p.resetRing .plan r else p

theorem Part.resetChangedRings_eq (old : Plan) (p : Part) : p.resetChangedRings old = forEach 96 (Part.resetIfChanged old) p := rfl

theorem Part.resetIfChanged_plan (old : Plan) (r : RingNo) (p : Part) : (p.resetIfChanged old r).plan = p.plan := by
  unfold Part.resetIfChanged
  split
  · exact Part.resetRing_plan _ _ _
  · rfl

theorem Part.resetRing_copy (quiet : p.engine.copy = none) (why : Discard) (r : RingNo) : (p.resetRing why r).engine.copy = none := by
  have dropped : (p.dropHead r why).engine.copy = none := by
    cases head : p.headRecord r with
    | none =>
      rw [Part.dropHead_of_none head]
      exact quiet
    | some y =>
      rw [Part.dropHead_of_some head]
      exact congrArg (Option.map _) quiet
  exact dropped

/-- A changed ring has been reset under the new plan (R100). -/
theorem Part.wasReset_of_changed {old : Plan} {r : RingNo} (changed : ringChanged old.rings[r] p.plan.rings[r] = true) :
    (p.resetChangedRings old).WasReset r := by
  rw [Part.resetChangedRings_eq]
  refine forEach_each (s := p) (Before := fun _ (q : Part) => q.plan = p.plan)
    (After := fun r (q : Part) => q.plan = p.plan ∧ (ringChanged old.rings[r] p.plan.rings[r] = true → q.WasReset r))
    (fun i q plan => ⟨?_, fun changed => ?_⟩) (fun i j q _ plan => ?_) (fun i j q ne h => ⟨?_, fun changed => ?_⟩) (fun _ => rfl) r
    |>.2 changed
  · exact (Part.resetIfChanged_plan _ _ _).trans plan
  · unfold Part.resetIfChanged
    rw [plan, if_pos changed]
    exact Part.wasReset_resetRing _ _ _
  · exact (Part.resetIfChanged_plan _ _ _).trans plan
  · exact (Part.resetIfChanged_plan _ _ _).trans h.1
  · unfold Part.resetIfChanged
    split
    · exact (h.2 changed).resetRing_ne ne _
    · exact h.2 changed

theorem Part.Booked.resetChangedRings {old : Plan} (quiet : p.engine.copy = none)
    (h : p.Booked p.plan (old.countsAfter p.plan) b) : (p.resetChangedRings old).Booked p.plan p.plan.counts b := by
  have all := forEach_invariant
    (fun q : Part => q.Booked p.plan (old.countsAfter p.plan) b ∧ q.engine.copy = none) 96 (Part.resetIfChanged old)
    (fun r q ⟨hq, idle⟩ => by
      refine ⟨?_, ?_⟩
      · unfold Part.resetIfChanged
        split
        · exact hq.resetRing _ (Part.clear_of_idle idle r)
        · exact hq
      · unfold Part.resetIfChanged
        split
        · exact Part.resetRing_copy idle _ _
        · exact idle) p ⟨h, quiet⟩
  rw [← Part.resetChangedRings_eq] at all
  obtain ⟨books, none⟩ := all
  refine ⟨books.plan, fun _ => Nat.le_refl _, fun r => ?_, books.heads,
    fun _ _ going => absurd (none.symm.trans going) nofun, books.takes, books.writes, books.handing⟩
  by_cases changed : ringChanged old.rings[r] p.plan.rings[r] = true
  · rw [(Part.wasReset_of_changed changed).ring]
    exact Nat.zero_le _
  · exact Nat.le_trans (books.within r) (Nat.le_of_eq (if_neg changed))

end booked

section booked
variable {base : Plan} {bound : RingNo → Nat} {b : Bool} {p q : Part}

theorem Part.Booked.dropLostDests (h : p.Booked base bound b) : p.dropLostDests.Booked base bound b := by
  refine forEach_invariant (fun q : Part => q.Booked base bound b) 96 _ (fun r q hq => ?_) p h
  split
  · next y head => exact hq.keepDests head _ _
  · exact hq

theorem Part.Booked.sweepDests (h : p.Booked base bound b) : p.sweepDests.Booked base bound b := by
  refine forEach_invariant (fun q : Part => q.Booked base bound b) 96 _ (fun r q hq => ?_) p h
  split
  · next y head => exact hq.keepDests head _ _
  · exact hq

theorem Part.Booked.expireHeads (h : p.Booked base bound b) : p.expireHeads.Booked base bound b := by
  refine forEach_invariant (fun q : Part => q.Booked base bound b) 96 _ (fun r q hq => ?_) p h
  split
  · exact hq.expireHead r
  · exact hq

theorem Part.shrinks_reviewAllHigh (p : Part) : p.Shrinks p.reviewAllHigh :=
  Part.Shrinks.forEach (fun r q => Part.shrinks_reviewHigh r q) p

/-! ### The slots under the new plan -/

theorem Part.Booked.expireSlot (n : Slot) (h : p.Booked base bound b) : (p.expireSlot n).Booked base bound b := by
  have presence : ∀ q : Part, q.Booked base bound b → (q.expirePresence n).Booked base bound b := by
    intro q hq
    unfold Part.expirePresence
    split
    · exact hq.idles (Part.idles_presenceIsFound n q)
    · split
      · exact hq.idles (Part.idles_presenceIsLost n q)
      · exact hq
  have state : ∀ q : Part, q.Booked base bound b → (q.expireState n).Booked base bound b := by
    intro q hq
    unfold Part.expireState
    split
    · exact hq.moves (Part.moves_powerFault n _ q)
    · split
      · exact hq.moves (Part.moves_powerFault n _ q)
      · split
        · exact hq.admitSlot n
        · exact hq
  have heartbeat : ∀ q : Part, q.Booked base bound b → (q.expireHeartbeat n).Booked base bound b := by
    intro q hq
    unfold Part.expireHeartbeat
    split
    · exact hq.moves (Part.moves_loseHeartbeat n _ q)
    · exact hq
  rw [Part.expireSlot_eq]
  exact heartbeat _ (state _ (presence _ h))

theorem Part.idles_compareSlot (n : Slot) (p : Part) : p.Idles (p.compareSlot n) := by
  rw [Part.compareSlot_eq]
  split
  · exact Part.idles_enterRemoving n false p
  split
  · exact Part.idles_enterPowering n p
  split
  · unfold Part.rejectCard
    split
    · exact Part.idles_modPort n _ p
    · exact Part.idles_enterFenced n _ false p
  · unfold Part.keepSlot
    split
    · exact Part.idles_cancelCheck n p
    split
    · exact ((Part.idles_modPort n _ p).trans (Part.idles_modPort n _ _)).trans (Part.idles_modPort n _ _)
    · exact .refl p

theorem Part.idles_rekey (old : Plan) (n : Slot) (p : Part) : p.Idles (p.rekey old n) := by
  unfold Part.rekey
  split
  · exact Part.idles_modPort n _ p
  · exact .refl p

theorem Part.Booked.activateSlots (old : Plan) (h : p.Booked base bound b) : (p.activateSlots old).Booked base bound b := by
  unfold Part.activateSlots
  refine forEach_invariant (fun q : Part => q.Booked base bound b) 12 _ (fun n q hq => hq.expireSlot n) _ ?_
  refine forEach_invariant (fun q : Part => q.Booked base bound b) 12 _ (fun n q hq => ?_) p h
  exact (hq.idles (Part.idles_compareSlot n q)).idles (Part.idles_rekey old n _)

/-! ### The activation -/

theorem Part.idles_replanTicks (old new : Plan) (p : Part) : p.Idles (p.replanTicks old new) := by
  have retimed : ∀ q : Part, q.Idles (q.retimeProg old) := by
    intro q
    unfold Part.retimeProg
    split
    · exact .refl q
    · exact .same rfl rfl rfl
  have closed : p.Idles p.closeGates := .same rfl rfl rfl
  exact (closed.trans (retimed _)).trans (.same rfl rfl rfl)

theorem Part.idles_activateClock (p : Part) : p.Idles p.activateClock := by
  have ref : ∀ (r : RefId) (q : Part), q.Idles (q.activateRef r) := by
    intro r q
    unfold Part.activateRef
    dsimp only
    split
    · exact .same rfl rfl rfl
    · split
      · exact .same rfl rfl rfl
      · exact .refl q
  have refs : p.Idles ((p.activateRef .a).activateRef .b) := (ref .a p).trans (ref .b _)
  refine refs.trans ?_
  unfold Part.activateClock
  dsimp only
  split
  · exact .same rfl rfl rfl
  · exact .same rfl rfl rfl

theorem Part.Booked.replanned {p : Part} (new : Plan) (quiet : p.engine.copy = none) (h : p.Booked p.plan p.plan.counts b) :
    (p.replanned new).Booked new new.counts b := by
  have begun : (p.replan new).Booked new (p.plan.countsAfter new) b := h.replan new quiet
  have rings : ((p.replan new).replanRings p.plan).Booked new new.counts b :=
    (Part.Booked.dropLostDests (begun.resetChangedRings (p := p.replan new) quiet)).shrinks (Part.shrinks_reviewAllHigh _)
  exact (rings.idles (Part.idles_replanTicks _ _ _)).activateSlots _

theorem Part.tickOver_engine (p : Part) : p.tickOver.engine = p.engine := rfl

theorem Part.Booked.tickOver {p : Part} (h : p.Booked p.plan p.plan.counts b) : p.tickOver.Booked p.tickOver.plan p.tickOver.plan.counts b :=
  h.same (q := p.tickOver) rfl rfl rfl

/-- The activation of a plan at rest (R47). -/
theorem Part.Booked.activate {p : Part} (new : Plan) (quiet : p.engine.copy = none) (h : p.Booked p.plan p.plan.counts b) :
    (p.activate new).Booked new new.counts b := by
  have view := Part.besidesAlarms_endHolds p
  have held : p.endSecondTick.Booked p.endSecondTick.plan p.endSecondTick.plan.counts b := by
    rw [Part.endSecondTick_eq]
    have plan : p.endHolds.plan = p.plan := Part.plan_of_alarms view
    have same : p.endHolds.Booked p.endHolds.plan p.endHolds.plan.counts b := by
      rw [plan]
      exact h.alarms view
    exact Part.Booked.tickOver same
  have still : p.endSecondTick.engine.copy = none := by
    rw [Part.endSecondTick_eq, Part.tickOver_engine, Part.engine_of_alarms view, quiet]
  have slots := (held.replanned new still).idles (Part.idles_activateClock _)
  have settled := (slots.sweepDests.expireHeads).settleExchange p.endSecondTick.engine
  rw [Part.activate_eq]
  have alarms : ∀ q : Part, q.activateAlarms.besidesAlarms = q.besidesAlarms := by
    intro q
    unfold Part.activateAlarms
    rw [Part.besidesAlarms_mark, Part.besidesAlarms_expirePoints, Part.besidesAlarms_reintegrate]
  exact settled.alarms (alarms _)

end booked

end Sys2Proof.Machine
end


section
/-! PROOFS. Every step keeps the bookkeeping of the rings (R84, R87 to R90, R103, R105). -/
namespace Sys2Proof.Machine

section booked
variable {base : Plan} {bound : RingNo → Nat} {b : Bool} {p q : Part}

/-! ### Slot events and observations -/

theorem Part.idles_reviewReferences (p : Part) : p.Idles p.reviewReferences := .same rfl rfl rfl

theorem Part.Booked.settleSlots (old : Engine) (h : p.Booked base bound b) : (p.settleSlots old).Booked base bound b := by
  unfold Part.settleSlots
  exact ((h.idles p.idles_reviewReferences).settleExchange old).alarms (Part.besidesAlarms_report _ _)

theorem Part.Booked.deeds {n : Slot} (deeds : p.SlotDeeds n q) (h : p.Booked base bound b) : q.Booked base bound b := by
  refine deeds.keeps (P := fun q : Part => q.Booked base bound b) (fun u v deed hu => ?_) h
  cases deed with
  | event w moves => exact (hu.moves moves).settleSlots _
  | change f _ => exact hu.idles (Part.idles_modPort n f u)
  | drop _ => exact hu.idles ((Part.idles_modPort n _ u).trans (Part.idles_dropRequests n _))
  | powerOff _ => exact hu.idles ((Part.idles_modPort n _ u).trans (Part.idles_dropRequests n _))
  | word k v => exact hu.same rfl rfl rfl
  | beat v _ =>
    exact ((hu.idles (Part.idles_modPort n (·.beaten v u.now) u)).settleExchange _).alarms (Part.besidesAlarms_report _ _)

theorem Part.Booked.enterAdmitting (n : Slot) (h : p.Booked base bound b) : (p.enterAdmitting n).Booked base bound b := by
  have entered := h.idles ((Part.idles_setState n .admitting p).trans (Part.idles_modPort n (fun x => { x with stateTimer := some p.now }) _))
  unfold Part.enterAdmitting
  dsimp only
  split
  · exact entered.admitSlot n
  · exact entered

theorem Part.idles_endCheck (n : Slot) (p : Part) : p.Idles (p.endCheck n) :=
  (Part.idles_modPort n _ p).trans (Part.idles_mark _ _)

theorem Part.Booked.judgeCheck (n : Slot) (err : Bool) (data : List Byte) (h : p.Booked base bound b) :
    (p.judgeCheck n err data).Booked base bound b := by
  have noted : ∀ f : Port → Port, ((p.endCheck n).modPort n f).Booked base bound b := fun f =>
    h.idles ((Part.idles_endCheck n p).trans (Part.idles_modPort n f _))
  cases err with
  | true =>
    rw [Part.judgeCheck_of_error]
    exact noted _
  | false =>
    cases fault : identityFault p.plan.slots[n] (readIdentity data) with
    | some why =>
      rw [Part.judgeCheck_of_fault fault]
      exact noted _
    | none =>
      rw [Part.judgeCheck_of_pass fault]
      exact Part.Booked.enterAdmitting n (noted _)

theorem Part.Booked.checkReadDone (err : Bool) (h : p.Booked base bound b) : (p.checkReadDone err).Booked base bound b := by
  unfold Part.checkReadDone
  split
  · dsimp only
    split
    · exact ((h.complete _ err).judgeCheck _ _ _).settleSlots _
    · exact h.complete _ err
  · exact h

theorem Part.Booked.cardReadDone (err : Bool) (h : p.Booked base bound b) : (p.cardReadDone err).Booked base bound b := by
  unfold Part.cardReadDone
  split
  · rw [Part.completeCard_eq]
    exact (h.complete _ err).idles (Part.idles_modPort _ _ _)
  · exact h

theorem Part.Booked.observeLogConsumer (v : Word) (h : p.Booked base bound b) : (p.observeLogConsumer v).Booked base bound b := by
  refine h.idles ?_
  unfold Part.observeLogConsumer
  dsimp only
  split
  · exact .same rfl rfl rfl
  · exact .same rfl rfl rfl

/-- A watched word handed over (R18). -/
theorem Part.Booked.observe (k : WatchedWord) (v : Word) (h : p.Booked base bound b) : (p.observe k v).Booked base bound b := by
  have noted : (p.setWatched k v).Booked base bound b := h.same rfl rfl rfl
  cases k with
  | egressProducer n c => exact noted.judgeProducer (isEgress_egressRing n c) _
  | ingressConsumer n c => exact noted.judgeConsumer (isEgress_ingressRing n c) _
  | heartbeat n => exact h.deeds (Part.deeds_observeHeartbeat n v p)
  | admitWord n => exact h.deeds (Part.deeds_observeAdmit n v p)
  | apply => exact h.same rfl rfl rfl
  | logConsumer => exact h.observeLogConsumer v
  | cutoff => exact noted.alarms (Part.besidesAlarms_setCutoff _ _)
  | seconds => exact h.same rfl rfl rfl
  | slotCommand n => exact h.deeds (Part.deeds_observeSlotCommand n v p)

/-- The words of a WRITE are handed over at one instant (log entry 30). -/
theorem Part.Booked.handingOver {f : Part → Part} (hand : ∀ q : Part, q.Booked base bound true → (f q).Booked base bound true)
    (h : p.Booked base bound false) : (p.handingOver f).Booked base bound false := by
  have begun : (p.modEngine fun e => { e with before := some p.engine.instant, handing := true }).Booked base bound true :=
    ⟨h.plan, h.ample, h.within, h.heads, h.copy, h.takes, h.writes, rfl⟩
  have handed := hand _ begun
  have ended : ((f (p.modEngine fun e => { e with before := some p.engine.instant, handing := true })).modEngine fun e =>
      { e with handing := false }).Booked base bound false :=
    ⟨handed.plan, handed.ample, handed.within, handed.heads, handed.copy, handed.takes, handed.writes, rfl⟩
  exact ended.settles (Part.settles_endInstant _ _)

theorem Part.Booked.observeWrite (start : Nat) (data : List Byte) (h : p.Booked base bound false) :
    (p.observeWrite start data).Booked base bound false := by
  rw [Part.observeWrite_eq]
  split
  · exact h
  · refine h.handingOver fun q hq => ?_
    exact foldl_invariant (fun q : Part => q.Booked base bound true) _ (fun u x hu => hu.observe x.2 _) _ q hq

/-! ### Ticks, pulses and the loader -/

theorem Part.idles_modGate (g : GateNo) (f : Gate → Gate) (p : Part) : p.Idles (p.modGate g f) := .same rfl rfl rfl

theorem Part.shrinks_emitted (k : TickKind) (n : Nat) (p : Part) : p.Shrinks (p.emitted k n) := .of_same rfl rfl rfl

theorem Part.Booked.emitTick (k : TickKind) (n : Nat) (h : p.Booked base bound b) : (p.emitTick k n).Booked base bound b := by
  have emitted := h.shrinks (Part.shrinks_emitted k n p)
  refine Part.Booked.alarms (Part.emitTick_view k n p) ?_
  split
  · exact emitted.shrinks (.of_engine rfl rfl (fun c going live => ⟨c, going, .refl live, rfl⟩) id id rfl)
  · exact emitted

theorem Part.Booked.stepTicks (h : p.Booked base bound b) : p.stepTicks.Booked base bound b := by
  refine foldl_invariant (fun q : Part => q.Booked base bound b) _ (fun q k hq => ?_) tickKinds p h
  dsimp only
  split
  · exact hq
  · exact hq.emitTick k _

theorem Part.Booked.withClock (k : Clock) (h : p.Booked base bound b) : (p.withClock k).Booked base bound b :=
  h.same rfl rfl rfl

theorem Part.Booked.phaseStep (e : Int) (h : p.Booked base bound b) : (p.phaseStep e).Booked base bound b := by
  have stepped : (p.stepped e).Booked base bound b :=
    Part.Booked.alarms (p := p.withClock (p.clock.step e)) (p.besidesAlarms_stepped e) (h.withClock _)
  rw [Part.phaseStep_eq]
  split
  · exact stepped.stepTicks
  · exact stepped

theorem Part.Booked.disciplined (e : Int) (h : p.Booked base bound b) : (p.disciplined e).Booked base bound b := by
  rcases p.clock.state.cases_of with (state | state) | state
  · rw [Part.disciplined_of_tracking e state]
    exact h.withClock _
  · by_cases far : p.plan.clock.stepThreshold < e.natAbs
    · rw [Part.disciplined_of_far e state far]
      exact h.phaseStep e
    · rw [Part.disciplined_of_near e state (Nat.not_lt.mp far)]
      exact h.withClock _
  · rw [Part.disciplined_of_idle e state]
    exact h

theorem Part.Booked.referencePulse (r : RefId) (h : p.Booked base bound b) : (p.referencePulse r).Booked base bound b := by
  cases usable : p.usable r with
  | false =>
    rw [Part.referencePulse_of_unusable usable]
    exact h
  | true =>
    have taken : (p.withClock (p.pulseTaken r)).Booked base bound b := h.withClock _
    rw [Part.referencePulse_of_usable usable]
    refine Part.Booked.alarms (Part.besidesAlarms_report _ _) (Part.Booked.settleExchange _ ?_)
    split
    · rw [Part.discipline_eq]
      exact Part.Booked.disciplined _ (taken.withClock _)
    · exact taken

theorem Part.Booked.rejectPlan (sec : PlanSection) (entry : Nat) (h : p.Booked base bound b) :
    (p.rejectPlan sec entry).Booked base bound b := by
  have ended : (p.rejected sec entry).Booked base bound b := h.same rfl rfl rfl
  exact ended.alarms (Part.besidesAlarms_raiseEvent _ _)

theorem Part.Booked.planReadDone (err : Bool) (h : p.Booked base bound b) : (p.planReadDone err).Booked base bound b := by
  unfold Part.planReadDone
  split
  · next data rest flights =>
    have done := h.complete rest err
    dsimp only
    split
    · exact done.rejectPlan _ _
    · by_cases more : (p.complete rest err).loader.block + 1 < 65
      · rw [Part.planBlockRead_of_more more]
        exact done.same rfl rfl rfl
      · rw [Part.planBlockRead_of_last (Nat.not_lt.mp more)]
        have read : ((p.complete rest err).modLoader fun l => l.took data true).Booked base bound b := done.same rfl rfl rfl
        generalize ((p.complete rest err).modLoader fun l => l.took data true) = q at read
        cases fault : structuralFault q.loader.image (q.loader.generation.getD 0) with
        | some at_ =>
          rw [Part.validatePlan_of_fault fault]
          exact read.rejectPlan _ _
        | none =>
          rw [Part.validatePlan_of_sound fault]
          exact Part.Booked.settleExchange _ (read.same rfl rfl rfl)
  · exact h

/-! ### Periods and resets -/

theorem Part.Booked.passPeriod (h : p.Booked base bound b) : p.passPeriod.Booked base bound b := by
  have closed : (p.whileRunning Part.closeInstant).Booked base bound b :=
    Part.whileRunning_keeps (P := fun q : Part => q.Booked base bound b) (fun _ hp => hp.settles p.settles_closeInstant) h
  exact closed.same rfl rfl rfl

theorem Part.Booked.advance (h : p.Booked base bound b) : p.advance.Booked base bound b := by
  unfold Part.advance
  dsimp only
  split
  · exact h.passPeriod.withClock _
  · exact h.passPeriod

theorem Part.Booked.turnover (h : p.Booked base bound b) : p.turnover.Booked base bound b := by
  have moved := h.passPeriod.withClock p.clock.turnover
  unfold Part.turnover
  dsimp only
  split
  · exact moved.same rfl rfl rfl
  · exact moved

theorem Part.Booked.startIfOver (h : p.Booked base bound b) : p.startIfOver.Booked base bound b := by
  unfold Part.startIfOver
  split
  · split
    · next kind _ _ =>
      refine Part.Booked.alarms (Part.besidesAlarms_start kind p) ?_
      have started : (p.started kind).Booked base bound b := h.same rfl rfl rfl
      split
      · exact started.same rfl rfl rfl
      · exact started
    · exact h
  · exact h

/-- After a reset every ring is empty under the bootstrap plan (R98, R192). -/
theorem Part.booked_underReset (kind : ResetKind) (control : ResetControl) (p : Part) :
    (p.underReset kind control).Booked Plan.bootstrap Plan.bootstrap.counts false where
  plan := rfl
  ample _ := Nat.le_refl _
  within r := by
    have ring : (p.underReset kind control).rings[r] = Ring.reset := by
      show (Vector.replicate 96 Ring.reset)[r] = Ring.reset
      simp
    rw [ring]
    exact Nat.zero_le _
  heads r y head := by
    have ring : (p.underReset kind control).rings[r] = Ring.reset := by
      show (Vector.replicate 96 Ring.reset)[r] = Ring.reset
      simp
    have take := (Part.headRecord_eq_some.mp head).2
    rw [ring] at take
    cases take
  copy _ _ going := nomatch going
  takes := List.nodup_nil
  writes := List.nodup_nil
  handing := rfl

end booked

/-! ### The step -/

/-- The books are kept under the plan in force, and no WRITE's words are half handed over. -/
def Part.InOrder (p : Part) : Prop := p.Booked p.plan p.plan.counts false

theorem Part.Booked.inOrder {base : Plan} {p : Part} (h : p.Booked base base.counts false) : p.InOrder := by
  unfold Part.InOrder
  rw [h.plan]
  exact h

/-- A copy that goes on has its head, and one whose producer word waits goes on: what the account of the copies gives (R99). -/
structure Part.Served (p : Part) : Prop where
  head : ∀ c, p.engine.copy = some c → c.void = false → p.headRecord c.ring ≠ none
  producer : ∀ c, p.engine.copy = some c → p.engine.waiting = some .copyProducer → c.void = false

theorem Part.Booked.headerReadDone {base : Plan} {bound : RingNo → Nat} {b : Bool} {p : Part} (err : Bool) (served : p.Served)
    (h : p.Booked base bound b) : (p.headerReadDone err).Booked base bound b := by
  unfold Part.headerReadDone
  split
  · next r data rest flights =>
    refine Part.Booked.settleExchange _ ((h.complete rest err).headerDone (fun c going live => ?_) err data)
    rw [Part.engine_of_alarms (Part.besidesAlarms_complete rest err p)] at going
    rw [Part.complete_headRecord]
    exact served.head c going live
  · exact h

theorem Part.InOrder.activateStaged {p : Part} (due : p.activationDue = true) (h : p.InOrder) : p.activateStaged.InOrder := by
  unfold Part.activateStaged
  split
  · next new _ =>
    have quiet : p.engine.copy = none := by
      simp only [Part.activationDue, Part.engineAtRest, Bool.and_eq_true, Option.isNone_iff_eq_none] at due
      exact due.1.2.1.1
    exact (Part.Booked.activate new quiet h).inOrder
  · exact h

/-- A command other than ACCESS_GRANT keeps the books. -/
theorem Part.InOrder.after {c : Instr} {p : Part} (ne : c ≠ .accessGrant) (served : p.Served) (h : p.InOrder) :
    (p.after c).InOrder := by
  have due : ∀ {d : Part → Bool} {f : Part → Part}, (f p).InOrder → (p.whenDue d f).InOrder := fun keep =>
    Part.whenDue_keeps (fun _ _ _ => keep) h
  have reset : ∀ kind control, (p.underReset kind control).InOrder := fun kind control =>
    (Part.booked_underReset kind control p).inOrder
  cases slot : commandSlot c with
  | some n => exact (Part.Booked.deeds (Part.deeds_after slot p) h).inOrder
  | none =>
    cases c <;> simp only [commandSlot, reduceCtorEq] at slot
    case accessGrant => exact absurd rfl ne
    case apply v => exact Part.whileRunning_keeps (fun _ hp => (Part.Booked.observe .apply v hp).inOrder) h
    case logConsumer v => exact Part.whileRunning_keeps (fun _ hp => (Part.Booked.observe .logConsumer v hp).inOrder) h
    case cutoff v => exact Part.whileRunning_keeps (fun _ hp => (Part.Booked.observe .cutoff v hp).inOrder) h
    case seconds v => exact Part.whileRunning_keeps (fun _ hp => (Part.Booked.observe .seconds v hp).inOrder) h
    case egressProducer n c v =>
      exact Part.whileRunning_keeps (fun _ hp => (Part.Booked.observe (.egressProducer n c) v hp).inOrder) h
    case ingressConsumer n c v =>
      exact Part.whileRunning_keeps (fun _ hp => (Part.Booked.observe (.ingressConsumer n c) v hp).inOrder) h
    case readCompletion err => exact Part.whileRunning_keeps (fun _ hp => (Part.Booked.cardReadDone err hp).inOrder) h
    case admissionCheckReadComplete err => exact Part.whileRunning_keeps (fun _ hp => (Part.Booked.checkReadDone err hp).inOrder) h
    case planReadComplete err => exact Part.whileRunning_keeps (fun _ hp => (Part.Booked.planReadDone err hp).inOrder) h
    case activation =>
      rw [Part.after_activation]
      exact Part.whenDue_keeps (fun _ due hp => hp.activateStaged due) h
    case headerReadComplete err =>
      exact Part.whileRunning_keeps (fun _ hp => (Part.Booked.headerReadDone err served hp).inOrder) h
    case serviceChoice =>
      rw [Part.after_serviceChoice]
      exact due (Part.Booked.choose h).inOrder
    case copyReadComplete err => exact Part.whileRunning_keeps (fun _ hp => (Part.Booked.copyReadDone err hp).inOrder) h
    case holdExpired n c =>
      rw [Part.after_holdExpired]
      exact due ((Part.Booked.expireHead _ h).settleExchange _).inOrder
    case referencePulse r => exact Part.whileRunning_keeps (fun _ hp => (Part.Booked.referencePulse r hp).inOrder) h
    case miss r =>
      rw [Part.after_miss]
      exact due (Part.Booked.alarms (p := p.withClock _) (Part.besidesAlarms_report _ _) (Part.Booked.withClock _ h)).inOrder
    case holdoverLimit =>
      rw [Part.after_holdoverLimit]
      exact due (Part.Booked.alarms (p := p.withClock _) (Part.besidesAlarms_report _ _) (Part.Booked.withClock _ h)).inOrder
    case secondTurnover =>
      rw [Part.after_secondTurnover]
      split
      · exact (Part.Booked.turnover h).inOrder
      · exact h
    case tick k =>
      rw [Part.after_tick]
      exact due ((Part.Booked.emitTick k 1 h).settleExchange _).inOrder
    case gateOpenDelayExpiry g =>
      rw [Part.after_gateOpenDelayExpiry]
      exact due (Part.Booked.settleExchange _ (Part.Booked.idles (Part.idles_modGate g _ p) h)).inOrder
    case gateWindowExpiry g =>
      rw [Part.after_gateWindowExpiry]
      exact due (Part.Booked.settleExchange _ (Part.Booked.idles (Part.idles_modGate g _ p) h)).inOrder
    case envChange i l =>
      have level : ({ p with env := modify p.env i fun _ => l } : Part).InOrder := Part.Booked.inOrder (Part.Booked.same h rfl rfl rfl)
      rw [Part.after_envChange]
      exact Part.whileRunning_keeps (fun _ hp => (Part.Booked.alarms (Part.besidesAlarms_report _ _) hp).inOrder) level
    case raiseTimerExpiry i =>
      rw [Part.after_raiseTimerExpiry]
      exact due (Part.Booked.alarms (Part.besidesAlarms_raisePoint i p) h).inOrder
    case clearTimerExpiry i =>
      rw [Part.after_clearTimerExpiry]
      exact due (Part.Booked.alarms (Part.besidesAlarms_clearPoint i p) h).inOrder
    case eventHoldExpiry i =>
      rw [Part.after_eventHoldExpiry]
      exact due (Part.Booked.alarms (Part.besidesAlarms_endHold i p) h).inOrder
    case statusRecordBegin =>
      have begun : p.beginLowest.InOrder := by
        refine Part.Booked.inOrder (base := p.plan) (Part.Booked.idles (p := p) ?_ h)
        unfold Part.beginLowest
        split
        · exact .same rfl rfl rfl
        · exact .refl p
      rw [Part.after_statusRecordBegin]
      exact due begun
    case supplyFall => exact Part.Booked.inOrder (Part.Booked.same h rfl rfl rfl)
    case supplyReturn => exact Part.Booked.inOrder (Part.Booked.same h rfl rfl rfl)
    case powerOnReset => exact reset _ _
    case supplyDipReset =>
      rw [Part.after_supplyDipReset]
      split
      · exact reset _ _
      · exact h
    case resetPinAssert =>
      rw [Part.after_resetPinAssert]
      split
      · exact reset _ _
      · exact Part.Booked.inOrder (Part.Booked.same h rfl rfl rfl)
    case resetEnd =>
      have released : p.releasePin.InOrder := Part.Booked.inOrder (Part.Booked.same h rfl rfl rfl)
      exact (Part.Booked.startIfOver released).inOrder

/-! ### Grants -/

theorem Part.InOrder.same {p q : Part} (h : p.InOrder) (plan : q.plan = p.plan) (rings : q.rings = p.rings)
    (engine : q.engine = p.engine) : q.InOrder := (Part.Booked.same h plan rings engine).inOrder

theorem Part.InOrder.observeWrite (start : Nat) (data : List Byte) {p : Part} (h : p.InOrder) : (p.observeWrite start data).InOrder :=
  (Part.Booked.observeWrite start data h).inOrder

theorem Part.InOrder.grantRequest (n : Slot) (q : Request) (rest : List Request) {s : State} (h : s.part.InOrder) :
    (s.grantRequest n q rest).part.InOrder := by
  unfold State.grantRequest
  dsimp only
  split
  · exact h.same rfl rfl rfl
  · exact Part.InOrder.observeWrite _ _ (h.same rfl rfl rfl)

theorem Part.InOrder.grantCard (n : Slot) {s : State} (h : s.part.InOrder) : (s.grantCard n).part.InOrder := by
  unfold State.grantCard
  dsimp only
  split
  · exact h.same rfl rfl rfl
  · split
    · exact Part.InOrder.grantRequest n _ _ (h.same rfl rfl rfl)
    · exact h.same rfl rfl rfl

theorem Part.InOrder.grantWriter {s : State} (h : s.part.InOrder) : s.grantWriter.part.InOrder := by
  unfold State.grantWriter
  dsimp only
  split
  · exact h.same rfl rfl rfl
  · split <;> exact h.same rfl rfl rfl
  · exact h.same rfl rfl rfl

theorem Part.InOrder.grantEngine {s : State} (served : s.part.Served) (h : s.part.InOrder) : s.grantEngine.part.InOrder := by
  have free : (s.modPart fun p => p.modEngine fun e => { e with waiting := none }).part.Booked s.part.plan s.part.plan.counts false :=
    Part.Booked.shrinks h (.of_engine rfl rfl (fun c going live => ⟨c, going, .refl live, rfl⟩) id id rfl)
  have copy : (s.modPart fun p => p.modEngine fun e => { e with waiting := none }).part.engine.copy = s.part.engine.copy := rfl
  unfold State.grantEngine
  dsimp only
  generalize s.modPart (fun p => p.modEngine fun e => { e with waiting := none }) = u at free copy ⊢
  have launched : ∀ purpose a len, (u.launch purpose a len).part.Booked s.part.plan s.part.plan.counts false := fun _ _ _ =>
    free.same rfl rfl rfl
  split
  · rw [State.modPart_part]
    exact (free.settleExchange _).inOrder
  · rw [State.modPart_part]
    exact ((launched _ _ _).settleExchange _).inOrder
  · rw [State.modPart_part]
    exact ((launched _ _ _).settleExchange _).inOrder
  · next c _ going =>
    rw [State.modPart_part]
    exact (Part.Booked.settleExchange _ (Part.Booked.copyBlockWritten (copy.trans going) free)).inOrder
  · next c waiting going =>
    rw [State.modPart_part]
    have delivered := Part.Booked.deliver (copy.trans going) (served.producer c going waiting) free
    exact (Part.Booked.alarms (Part.besidesAlarms_report _ _) (delivered.settleExchange _)).inOrder
  · exact free.inOrder

theorem Part.InOrder.grant {s : State} (served : s.part.Served) (h : s.part.InOrder) : s.grant.part.InOrder := by
  have granted : s.internalGranted.part.InOrder := h.same rfl rfl rfl
  unfold State.grant
  split
  · exact h.grantCard _
  · exact granted.grantWriter
  · exact Part.InOrder.grantEngine (s := s.internalGranted) ⟨served.head, served.producer⟩ granted
  · exact h.same rfl rfl rfl
  · exact h

/-- A step keeps the books. -/
theorem Part.InOrder.next {s t : State} (served : s.part.Served) (h : s.part.InOrder) (run : step s = .next t) : t.part.InOrder := by
  obtain ⟨u, part, -, kind⟩ := step_cases run
  rw [← part] at h served
  cases kind with
  | command ne => exact h.after ne served
  | grant _ => exact h.grant served
  | nothing => exact h
  | send n => exact h.same rfl rfl rfl
  | advance => exact (Part.Booked.advance h).inOrder

theorem Part.served_of_sound {p : Part} (sound : p.exchangeSound) : p.Served := by
  obtain ⟨-, -, -, copies, accesses⟩ := sound
  refine ⟨fun c going live none => ?_, fun c going waiting => ?_⟩
  · have known := copies c going
    rw [live] at known
    obtain ⟨-, y, head, -⟩ := known
    rw [none] at head
    cases head
  · rw [going] at accesses
    exact accesses.2 waiting

/-- The rings are sound exactly if the books are kept, where each copy that goes on knows its head. -/
theorem Part.inOrder_of_sound {p : Part} (sound : p.exchangeSound) (h : p.ringsSound) : p.InOrder := by
  obtain ⟨-, -, -, copies, -⟩ := sound
  obtain ⟨within, heads, copy, takes, writes, handing⟩ := h
  refine ⟨rfl, fun _ => Nat.le_refl _, within, heads, fun c y going live head => ?_, takes, writes, handing⟩
  have known := copies c going
  rw [live] at known
  exact ⟨known.1, copy c y going live head⟩

theorem Part.InOrder.ringsSound {p : Part} (h : p.InOrder) : p.ringsSound :=
  ⟨h.within, h.heads, fun c y going live head => (h.copy c y going live head).2, h.takes, h.writes, h.handing⟩

/-- Settles O12. -/
theorem stepKeepsRingsWithinTheirCounts : Obligations.StepKeepsRingsWithinTheirCounts := by
  unfold Obligations.StepKeepsRingsWithinTheirCounts
  intro s t sound rings run
  exact ((Part.inOrder_of_sound sound rings).next (Part.served_of_sound sound) run).ringsSound

end Sys2Proof.Machine
end


section
/-! PROOFS. What an activation leaves on the shelf while the rings and the slots meet the new plan: gates, log, arbiter and the reads in
flight but for their marks (R47, R79, R100). -/
namespace Sys2Proof.Machine

/-- What rings and heads leave alone when they meet a new plan. -/
def Part.ledger (p : Part) : Vector Gate 8 × Status × List Flight × Arbiter := (p.gates, p.status, p.flights, p.arbiter)

theorem Part.ledger_modPort (n : Slot) (f : Port → Port) (p : Part) : (p.modPort n f).ledger = p.ledger := rfl
theorem Part.ledger_modRing (r : RingNo) (f : Ring → Ring) (p : Part) : (p.modRing r f).ledger = p.ledger := rfl
theorem Part.ledger_modEngine (f : Engine → Engine) (p : Part) : (p.modEngine f).ledger = p.ledger := rfl
theorem Part.ledger_setTake (r : RingNo) (t : Take) (p : Part) : (p.setTake r t).ledger = p.ledger := rfl
theorem Part.ledger_discard (why : Discard) (n : Slot) (k : Nat) (p : Part) : (p.discard why n k).ledger = p.ledger := rfl
theorem Part.ledger_writeIndex (r : RingNo) (v : BitVec 16) (p : Part) : (p.writeIndex r v).ledger = p.ledger := rfl

theorem Part.ledger_retire (r : RingNo) (k : Nat) (p : Part) : (p.retire r k).ledger = p.ledger := by
  unfold Part.retire Part.countBatch Part.orphanCopy
  dsimp only
  rw [Part.ledger_modEngine, Part.ledger_setTake, Part.ledger_modEngine, Part.ledger_writeIndex, Part.ledger_modRing]

/-! ### Rings -/

theorem Part.ledger_keepDests (r : RingNo) (h : Head) (why : Discard) (keep : Slot → Bool) (p : Part) :
    (p.keepDests r h why keep).ledger = p.ledger := by
  rcases Part.keepDests_cases r h why keep p with ⟨-, e⟩ | ⟨k, -, -, -, e⟩ | ⟨k, -, -, e⟩ <;> rw [e]
  · rw [Part.ledger_retire, Part.ledger_discard]
  · rw [Part.ledger_modRing, Part.ledger_discard]

theorem Part.ledger_dropHead (r : RingNo) (why : Discard) (p : Part) : (p.dropHead r why).ledger = p.ledger := by
  cases head : p.headRecord r with
  | none => rw [Part.dropHead_of_none head]
  | some h =>
    rw [Part.dropHead_of_some head]
    rfl

theorem Part.ledger_resetRing (why : Discard) (r : RingNo) (p : Part) : (p.resetRing why r).ledger = p.ledger := by
  have dropped : ((p.dropHead r why).setTake r .idle).ledger = p.ledger := by rw [Part.ledger_setTake, Part.ledger_dropHead]
  rw [Part.resetRing_eq]
  exact dropped

theorem Part.ledger_voidCopy (p : Part) : p.voidCopy.ledger = p.ledger := by
  unfold Part.voidCopy
  split
  · rfl
  · dsimp only
    split
    · rfl
    · rfl
    · rfl
    · split <;> rfl

theorem Part.ledger_resetSlotRings (n : Slot) (p : Part) : (p.resetSlotRings n).ledger = p.ledger := by
  have into : (p.voidInto n).ledger = p.ledger := by
    unfold Part.voidInto
    split
    · split
      · split
        · rw [Part.ledger_keepDests, Part.ledger_voidCopy]
        · rfl
      · rfl
    · rfl
  have out : ∀ q : Part, (q.voidFrom n).ledger = q.ledger := by
    intro q
    unfold Part.voidFrom
    split
    · split
      · exact q.ledger_voidCopy
      · rfl
    · rfl
  have reset : (((p.voidInto n).voidFrom n).resetPresent n).ledger = ((p.voidInto n).voidFrom n).ledger :=
    forEach_keeps Part.ledger 8 _ (fun k q => Part.resetPresent_round (slotRing n k) q (fun u => u.ledger = q.ledger)
      (Part.ledger_resetRing _ _ _) rfl) _
  rw [Part.resetSlotRings_eq, reset, out, into]

theorem Part.ledger_reviewHigh (r : RingNo) (p : Part) : (p.reviewHigh r).ledger = p.ledger := by
  unfold Part.reviewHigh
  split <;> rfl

theorem Part.ledger_replanRings (old : Plan) (p : Part) : (p.replanRings old).ledger = p.ledger := by
  have reset : (p.resetChangedRings old).ledger = p.ledger := by
    refine forEach_keeps Part.ledger 96 _ (fun r q => ?_) p
    split
    · exact Part.ledger_resetRing _ _ _
    · rfl
  have dropped : ∀ q : Part, q.dropLostDests.ledger = q.ledger := by
    refine fun q => forEach_keeps Part.ledger 96 _ (fun r q => ?_) q
    split
    · exact Part.ledger_keepDests _ _ _ _ _
    · rfl
  have reviewed : ∀ q : Part, q.reviewAllHigh.ledger = q.ledger := fun q => forEach_keeps Part.ledger 96 _ Part.ledger_reviewHigh q
  unfold Part.replanRings
  rw [reviewed, dropped, reset]

theorem Part.ledger_sweepDests (p : Part) : p.sweepDests.ledger = p.ledger := by
  refine forEach_keeps Part.ledger 96 _ (fun r q => ?_) p
  split
  · exact Part.ledger_keepDests _ _ _ _ _
  · rfl

theorem Part.ledger_expireHeads (p : Part) : p.expireHeads.ledger = p.ledger := by
  refine forEach_keeps Part.ledger 96 _ (fun r q => ?_) p
  split
  · unfold Part.expireHead
    split
    · dsimp only
      split
      · split
        · exact Part.ledger_keepDests _ _ _ _ _
        · exact Part.ledger_keepDests _ _ _ _ _
      · exact Part.ledger_keepDests _ _ _ _ _
    · rfl
  · rfl

/-! ### Slots -/

/-- The status writer but for the dirty marks. -/
def Status.besidesDirty (st : Status) : Status := { st with dirty := Vector.replicate 17 false }

/-- From `p` to `q` gates and arbiter stay, the status writer but for more dirty marks, and the reads in flight but for their marks:
what slots leave alone when they meet a new plan. -/
structure Part.Shelved (p q : Part) : Prop where
  gates : q.gates = p.gates
  status : q.status.besidesDirty = p.status.besidesDirty
  dirty : p.status.DirtyIn q.status
  flights : q.flights.map Flight.besidesMarks = p.flights.map Flight.besidesMarks
  arbiter : q.arbiter = p.arbiter

theorem Part.Shelved.refl (p : Part) : p.Shelved p := ⟨rfl, rfl, .refl _, rfl, rfl⟩

theorem Part.Shelved.trans {p q r : Part} (h : p.Shelved q) (h' : q.Shelved r) : p.Shelved r :=
  ⟨h'.gates.trans h.gates, h'.status.trans h.status, h.dirty.trans h'.dirty, h'.flights.trans h.flights, h'.arbiter.trans h.arbiter⟩

theorem Part.Shelved.of_ledger {p q : Part} (h : q.ledger = p.ledger) : p.Shelved q := by
  unfold Part.ledger at h
  simp only [Prod.mk.injEq] at h
  obtain ⟨gates, status, flights, arbiter⟩ := h
  exact ⟨gates, by rw [status], by rw [status]; exact .refl _, by rw [flights], arbiter⟩

theorem Part.Shelved.of_flights {p q : Part} (gates : q.gates = p.gates) (status : q.status = p.status)
    (flights : q.flights.map Flight.besidesMarks = p.flights.map Flight.besidesMarks) (arbiter : q.arbiter = p.arbiter) :
    p.Shelved q := ⟨gates, by rw [status], by rw [status]; exact .refl _, flights, arbiter⟩

theorem Part.Shelved.forEach {n : Nat} {f : Fin n → Part → Part} (step : ∀ i (q : Part), q.Shelved (f i q)) (p : Part) :
    p.Shelved (forEach n f p) :=
  forEach_invariant p.Shelved n f (fun i q h => h.trans (step i q)) p (.refl p)

theorem Part.shelved_mark (k : RecordNo) (p : Part) : p.Shelved (p.mark k) := ⟨rfl, rfl, Status.dirtyIn_mark _ _, rfl, rfl⟩

theorem Part.shelved_modPort (n : Slot) (f : Port → Port) (p : Part) : p.Shelved (p.modPort n f) := .of_ledger rfl

theorem besidesMarks_unchecked (n : Slot) (l : List Flight) :
    (uncheckedFlights n l).map Flight.besidesMarks = l.map Flight.besidesMarks := by
  unfold uncheckedFlights
  rw [List.map_map]
  refine List.map_congr_left fun f _ => ?_
  obtain ⟨purpose, data⟩ := f
  cases purpose <;> rfl

theorem Part.shelved_cancelCheck (n : Slot) (p : Part) : p.Shelved (p.cancelCheck n) :=
  .of_flights rfl rfl (by rw [Part.cancelCheck_flights, besidesMarks_unchecked]) rfl

theorem Part.shelved_refuseRequests (n : Slot) (p : Part) : p.Shelved (p.refuseRequests n) :=
  .of_flights rfl rfl (besidesMarks_markFlights n true p.flights) rfl

theorem Part.shelved_dropRequests (n : Slot) (p : Part) : p.Shelved (p.dropRequests n) :=
  .of_flights rfl rfl (besidesMarks_markFlights n false p.flights) rfl

theorem Part.ledger_idleRings (n : Slot) (p : Part) : (p.idleRings n).ledger = p.ledger := by
  refine forEach_keeps Part.ledger 4 _ (fun c q => ?_) p
  split <;> rfl

theorem Part.shelved_setState (n : Slot) (st : SlotState) (p : Part) : p.Shelved (p.setState n st) := by
  have marked : p.Shelved ((p.modPort n fun x => { x with state := st }).mark (slotRecordNo n)) :=
    (Part.shelved_modPort n _ p).trans (Part.shelved_mark _ _)
  unfold Part.setState
  dsimp only
  split
  · exact marked.trans (.of_ledger (Part.ledger_idleRings n _))
  · exact marked

theorem Part.shelved_enterEmpty (n : Slot) (p : Part) : p.Shelved (p.enterEmpty n) :=
  (Part.shelved_setState n .empty p).trans (Part.shelved_modPort n _ _)

theorem Part.shelved_enterTraining (n : Slot) (p : Part) : p.Shelved (p.enterTraining n) :=
  (Part.shelved_setState n .training p).trans (Part.shelved_modPort n _ _)

theorem Part.shelved_enterPowering (n : Slot) (p : Part) : p.Shelved (p.enterPowering n) := by
  have entered := fun f => (Part.shelved_setState n .powering p).trans (Part.shelved_modPort n f _)
  unfold Part.enterPowering
  dsimp only
  split
  · exact (entered _).trans (Part.shelved_enterTraining n _)
  · exact entered _

theorem Part.shelved_enterStandby (n : Slot) (p : Part) : p.Shelved (p.enterStandby n) := by
  have entered := fun f => (Part.shelved_setState n .standby p).trans (Part.shelved_modPort n f _)
  unfold Part.enterStandby
  dsimp only
  split
  · exact (entered _).trans (Part.shelved_enterPowering n _)
  · exact entered _

theorem Part.shelved_enterFenced (n : Slot) (why : FenceReason) (off : Bool) (p : Part) : p.Shelved (p.enterFenced n why off) := by
  have entered : p.Shelved ((p.setState n .fenced).cancelCheck n) :=
    (Part.shelved_setState n .fenced p).trans (Part.shelved_cancelCheck n _)
  have ended : ∀ q : Part, q.Shelved (if q.ports[n].link then q.refuseRequests n else q.dropRequests n) := by
    intro q
    split
    · exact Part.shelved_refuseRequests n q
    · exact Part.shelved_dropRequests n q
  unfold Part.enterFenced
  dsimp only
  refine Part.Shelved.trans ?_ (Part.shelved_modPort n _ _)
  refine Part.Shelved.trans ?_ (ended _)
  split
  · exact entered.trans (Part.shelved_modPort n _ _)
  · exact entered

theorem Part.shelved_enterRemoving (n : Slot) (cycle : Bool) (p : Part) : p.Shelved (p.enterRemoving n cycle) := by
  have entered : p.Shelved (((p.setState n .removing).cancelCheck n).dropRequests n) :=
    ((Part.shelved_setState n .removing p).trans (Part.shelved_cancelCheck n _)).trans (Part.shelved_dropRequests n _)
  exact entered.trans (Part.shelved_modPort n _ _)

theorem Part.shelved_presenceIsFound (n : Slot) (p : Part) : p.Shelved (p.presenceIsFound n) := by
  have seen := Part.shelved_modPort n (fun x => { x with presence := true, presenceTimer := none }) p
  unfold Part.presenceIsFound
  dsimp only
  split
  · split
    · exact seen.trans (Part.shelved_enterPowering n _)
    · exact seen.trans (Part.shelved_enterStandby n _)
  · exact seen

theorem Part.shelved_presenceIsLost (n : Slot) (p : Part) : p.Shelved (p.presenceIsLost n) := by
  rcases SlotState.cases_of_presence p.ports[n].state with h | h | h
  · rw [Part.presenceIsLost_of_unserved h]
    exact (Part.shelved_modPort n _ p).trans (Part.shelved_enterEmpty n _)
  · rw [Part.presenceIsLost_of_absent h]
    exact Part.shelved_modPort n _ p
  · rw [Part.presenceIsLost_of_linked h]
    exact (Part.shelved_modPort n _ p).trans (Part.shelved_enterRemoving n false _)

theorem Part.shelved_admitSlot (n : Slot) (p : Part) : p.Shelved (p.admitSlot n) := by
  rw [Part.admitSlot_eq]
  unfold Part.enterAdmitted Part.armStrobe Part.startHeartbeat
  have rings : p.Shelved (p.resetSlotRings n) := .of_ledger (Part.ledger_resetSlotRings n p)
  exact (((rings.trans (Part.shelved_setState n .admitted _)).trans (Part.shelved_modPort n _ _)).trans
    (Part.shelved_modPort n _ _)).trans (Part.shelved_modPort n _ _)

theorem Part.shelved_compareSlot (n : Slot) (p : Part) : p.Shelved (p.compareSlot n) := by
  rw [Part.compareSlot_eq]
  split
  · exact Part.shelved_enterRemoving n false p
  split
  · exact Part.shelved_enterPowering n p
  split
  · unfold Part.rejectCard
    split
    · exact Part.shelved_modPort n _ p
    · exact Part.shelved_enterFenced n _ false p
  · unfold Part.keepSlot
    split
    · exact Part.shelved_cancelCheck n p
    split
    · exact .of_ledger rfl
    · exact .refl p

theorem Part.shelved_rekey (old : Plan) (n : Slot) (p : Part) : p.Shelved (p.rekey old n) := by
  unfold Part.rekey
  split
  · exact Part.shelved_modPort n _ p
  · exact .refl p

theorem Part.shelved_powerFault (n : Slot) (why : FenceReason) (p : Part) : p.Shelved (p.powerFault n why) := by
  unfold Part.powerFault
  split
  · exact Part.shelved_enterRemoving n true p
  · exact Part.shelved_enterFenced n why true p

theorem Part.shelved_loseHeartbeat (n : Slot) (why : FenceReason) (p : Part) : p.Shelved (p.loseHeartbeat n why) := by
  have lost := Part.shelved_modPort n Port.withoutHeartbeat p
  by_cases fences : p.plan.slots[n].fenceOnHeartbeat = true ∧ n ≠ 0
  · rw [Part.loseHeartbeat_of_fences fences]
    exact lost.trans (Part.shelved_enterFenced n why false _)
  · rw [Part.loseHeartbeat_of_not fences]
    exact lost

/-- The state timer of a slot, if it has run its length, fences, removes or admits the slot. -/
theorem Part.expireState_cases (n : Slot) (p : Part) :
    (∃ why, p.expireState n = p.powerFault n why) ∨ (p.admitDue n = true ∧ p.expireState n = p.admitSlot n)
      ∨ p.expireState n = p := by
  unfold Part.expireState
  split
  · exact .inl ⟨_, rfl⟩
  split
  · exact .inl ⟨_, rfl⟩
  split
  · next due => exact .inr (.inl ⟨due, rfl⟩)
  · exact .inr (.inr rfl)

theorem Part.shelved_expireSlot (n : Slot) (p : Part) : p.Shelved (p.expireSlot n) := by
  have presence : p.Shelved (p.expirePresence n) := by
    unfold Part.expirePresence
    split
    · exact Part.shelved_presenceIsFound n p
    split
    · exact Part.shelved_presenceIsLost n p
    · exact .refl p
  have state : ∀ q : Part, q.Shelved (q.expireState n) := by
    intro q
    rcases q.expireState_cases n with ⟨why, e⟩ | ⟨-, e⟩ | e <;> rw [e]
    · exact Part.shelved_powerFault n why q
    · exact Part.shelved_admitSlot n q
    · exact .refl q
  have heartbeat : ∀ q : Part, q.Shelved (q.expireHeartbeat n) := by
    intro q
    unfold Part.expireHeartbeat
    split
    · exact Part.shelved_loseHeartbeat n _ q
    · exact .refl q
  rw [Part.expireSlot_eq]
  exact (presence.trans (state _)).trans (heartbeat _)

theorem Part.shelved_activateSlots (old : Plan) (p : Part) : p.Shelved (p.activateSlots old) := by
  have compared : p.Shelved (forEach 12 (fun n q => (q.compareSlot n).rekey old n) p) :=
    Part.Shelved.forEach (fun n q => (Part.shelved_compareSlot n q).trans (Part.shelved_rekey old n _)) p
  exact compared.trans (Part.Shelved.forEach (fun n q => Part.shelved_expireSlot n q) _)

/-- The clock meets the new plan with the rest of the part left alone (R145). -/
theorem Part.activateClock_rest (p : Part) : p.activateClock = p.withClock p.activateClock.clock := by
  have ref : ∀ (r : RefId) (q : Part), q.activateRef r = q.withClock (q.activateRef r).clock := by
    intro r q
    unfold Part.activateRef
    dsimp only
    split
    · rfl
    · split <;> rfl
  have both : (p.activateRef .a).activateRef .b = p.withClock ((p.activateRef .a).activateRef .b).clock :=
    (ref .b (p.activateRef .a)).trans ((congrArg (Part.withClock _) (ref .a p)).trans rfl)
  unfold Part.activateClock
  dsimp only
  rw [both]
  split <;> rfl

end Sys2Proof.Machine
end


section
/-! PROOFS. An activation as a whole: plan, loader, gates, PROG record, log ring, cabinet time and the services outside the plan (R47, R48,
R146, R154, R160, R177, R188). -/
namespace Sys2Proof.Machine

/-! ### The log grows (R189) -/

/-- The dirty marks stay, the log ring stands, and records join the queue of it behind those it has. -/
structure Status.Grows (st st' : Status) : Prop where
  dirty : st.DirtyIn st'
  base : st'.log.base = st.log.base
  capacity : st'.log.capacity = st.log.capacity
  producer : st'.log.producer = st.log.producer
  consumer : st'.log.consumer = st.log.consumer
  queue : ∃ later, st'.logQueue = st.logQueue ++ later

theorem Status.Grows.refl (st : Status) : st.Grows st := ⟨.refl st, rfl, rfl, rfl, rfl, [], (List.append_nil _).symm⟩

theorem Status.Grows.trans {a b c : Status} (h : a.Grows b) (h' : b.Grows c) : a.Grows c := by
  obtain ⟨later, queue⟩ := h.queue
  obtain ⟨later', queue'⟩ := h'.queue
  exact ⟨h.dirty.trans h'.dirty, h'.base.trans h.base, h'.capacity.trans h.capacity, h'.producer.trans h.producer,
    h'.consumer.trans h.consumer, later ++ later', by rw [queue', queue, List.append_assoc]⟩

theorem Status.grows_mark (st : Status) (k : RecordNo) : st.Grows (st.mark k) :=
  ⟨Status.dirtyIn_mark st k, rfl, rfl, rfl, rfl, [], (List.append_nil _).symm⟩

theorem Status.issue_log (st : Status) : st.issue.log = st.log ∧ st.issue.logQueue = st.logQueue := by
  unfold Status.issue
  split
  · exact ⟨rfl, rfl⟩
  split
  · exact ⟨rfl, rfl⟩
  split <;> exact ⟨rfl, rfl⟩

theorem Status.grows_offerRecord (st : Status) (r : LogRecord) : st.Grows (st.offerRecord r) := by
  have dirty := Status.dirtyIn_offerRecord st r
  unfold Status.offerRecord at dirty ⊢
  dsimp only at dirty ⊢
  split at dirty
  · next fits =>
    rw [if_pos fits]
    obtain ⟨log, queue⟩ := Status.issue_log { st with
      log := { st.log with nextSequence := st.log.nextSequence + 1 }
      logQueue := st.logQueue ++ [{ r with sequence := st.log.nextSequence }], offered := st.offered + 1 }
    exact ⟨dirty, by rw [log], by rw [log], by rw [log], by rw [log], _, queue⟩
  · next full =>
    rw [if_neg full]
    exact ⟨dirty, rfl, rfl, rfl, rfl, [], (List.append_nil _).symm⟩

theorem grows_transition (x : PointContext) (i : Point) (b : Bool) (as : Alarm × Status) :
    as.2.Grows (transition x i b as).2 := by
  show as.2.Grows (if x.plan.mask then as.2.mark 16 else (as.2.mark 16).offer i b x.plan x.time)
  split
  · exact Status.grows_mark _ _
  · exact (Status.grows_mark _ _).trans (Status.grows_offerRecord _ _)

theorem grows_react (x : PointContext) (i : Point) (as : Alarm × Status) : as.2.Grows (react x i as).2 := by
  rcases react_cases x i as with h | ⟨b, h⟩ | ⟨st, start, -, h⟩ <;> rw [h]
  · exact .refl _
  · exact grows_transition x i b as
  · exact .refl _

theorem Part.grows_endHolds (p : Part) : p.status.Grows p.endHolds.status := by
  unfold Part.endHolds
  refine forEach_invariant (fun q : Part => p.status.Grows q.status) 89 (fun i q => if q.eventHoldDue i then q.endHold i else q)
    (fun i q h => ?_) p (.refl _)
  split
  · exact h.trans (grows_react _ _ ({ q.alarm with points := modify q.alarm.points i fun pt =>
      { pt with raw := false, lastEvent := none } }, q.status))
  · exact h

theorem Part.grows_integrateAt (p : Part) (as : Alarm × Status) (i : Point) : as.2.Grows (p.integrateAt as i).2 :=
  grows_react (p.context i) i ({ as.1 with points := modify as.1.points i fun pt => { pt with raw := _ } }, as.2)

theorem Part.grows_reintegrate (p : Part) : p.status.Grows p.reintegrate.status := by
  have all : ∀ l : List Point, p.status.Grows (l.foldl p.integrateAt (p.alarm, p.status)).2 := fun l =>
    foldl_invariant (fun as : Alarm × Status => p.status.Grows as.2) p.integrateAt
      (fun as i h => h.trans (p.grows_integrateAt as i)) l _ (.refl _)
  rw [Part.reintegrate_eq, Part.withAlarm_status]
  exact all allPoints

theorem Part.grows_expirePoints (p : Part) : p.status.Grows p.expirePoints.status := by
  refine forEach_invariant (fun q : Part => p.status.Grows q.status) 89 _ (fun i q h => ?_) p (.refl _)
  split
  · exact h.trans (grows_transition _ _ true (q.alarm, q.status))
  split
  · exact h.trans (grows_transition _ _ false (q.alarm, q.status))
  · exact h

theorem Part.grows_activateAlarms (p : Part) : p.status.Grows p.activateAlarms.status :=
  ((p.grows_reintegrate.trans (Part.grows_expirePoints _)).trans (Status.grows_mark _ 16))

/-- What only dirty marks tell apart. -/
theorem Status.Grows.of_same {st st' : Status} (h : st'.besidesDirty = st.besidesDirty) (dirty : st.DirtyIn st') : st.Grows st' := by
  have log : st'.log = st.log := (congrArg Status.log h :)
  have queue : st'.logQueue = st.logQueue := (congrArg Status.logQueue h :)
  exact ⟨dirty, by rw [log], by rw [log], by rw [log], by rw [log], [], by rw [queue, List.append_nil]⟩

/-! ### The log ring under a new plan (R188) -/

/-- The status writer with an empty log ring of the new plan, before the records of the instant are offered to it again. -/
def Status.freshLog (st : Status) (new : AlarmPlan) : Status :=
  { st with
    log := { LogRing.reset with base := new.logBase, capacity := new.logCapacity }
    logQueue := []
    waiting := if st.waiting = some .log then none else st.waiting
    offered := 0 }

theorem Status.takeLog_of_same {old new : AlarmPlan} (h : old.logBase = new.logBase ∧ old.logCapacity = new.logCapacity) (st : Status) :
    st.takeLog old new = st := if_pos h

theorem Status.takeLog_of_changed {old new : AlarmPlan} (h : ¬ (old.logBase = new.logBase ∧ old.logCapacity = new.logCapacity))
    (st : Status) : st.takeLog old new = st.logQueue.foldl Status.offerRecord (st.freshLog new) := if_neg h

theorem Status.grows_offers (l : List LogRecord) (st : Status) : st.Grows (l.foldl Status.offerRecord st) :=
  foldl_invariant (fun u : Status => st.Grows u) _ (fun u r h => h.trans (Status.grows_offerRecord u r)) l st (.refl st)

theorem LogRing.occupied_empty {l : LogRing} (producer : l.producer = 0) (consumer : l.consumer = 0) : l.occupied 0 = 0 := by
  unfold LogRing.occupied
  rw [producer, consumer]
  simp

/-- The first record offered to an empty log ring takes sequence number 0 and is queued (R189). -/
theorem Status.freshLog_offer {new : AlarmPlan} (some : new.logCapacity ≠ 0) (st : Status) (r : LogRecord) :
    ((st.freshLog new).offerRecord r).logQueue = [{ r with sequence := 0 }] := by
  have empty : (st.freshLog new).log.occupied 0 = 0 := LogRing.occupied_empty rfl rfl
  have fits : ((st.freshLog new).log.capacity != 0 && decide ((st.freshLog new).log.occupied (st.freshLog new).logQueue.length
      < (st.freshLog new).log.capacity)) = true := by
    rw [Bool.and_eq_true, bne_iff_ne, decide_eq_true_iff]
    exact ⟨some, Nat.lt_of_le_of_lt (Nat.le_of_eq empty) (Nat.pos_of_ne_zero some)⟩
  unfold Status.offerRecord
  dsimp only
  rw [if_pos fits, (Status.issue_log _).2]
  rfl

/-- The status writer after the records of the instant were offered to the log ring of a new plan, if it changes (R188). -/
theorem Status.takeLog_view {old new : AlarmPlan} {st begun : Status} (queue : ∃ later, st.logQueue = begun.logQueue ++ later)
    (changed : ¬ (old.logBase = new.logBase ∧ old.logCapacity = new.logCapacity)) :
    (st.takeLog old new).log.base = new.logBase ∧ (st.takeLog old new).log.capacity = new.logCapacity
      ∧ (st.takeLog old new).log.producer = 0 ∧ (st.takeLog old new).log.consumer = 0
      ∧ ∀ record rest, begun.logQueue = record :: rest → new.logCapacity ≠ 0 →
          ∃ later, (st.takeLog old new).logQueue = { record with sequence := 0 } :: later := by
  have all := Status.grows_offers st.logQueue (st.freshLog new)
  rw [Status.takeLog_of_changed changed]
  refine ⟨all.base, all.capacity, all.producer, all.consumer, fun record rest front some => ?_⟩
  obtain ⟨later, queue⟩ := queue
  rw [queue, front, List.cons_append, List.foldl_cons]
  obtain ⟨more, grown⟩ := (Status.grows_offers (rest ++ later) ((st.freshLog new).offerRecord record)).queue
  rw [Status.freshLog_offer some] at grown
  exact ⟨more, grown⟩

/-! ### The stages of an activation -/

/-- The part with rings, gates, PROG record and log ring under the new plan, before its slots and the clock meet it. -/
def Part.retabled (new : Plan) (p : Part) : Part := ((p.replan new).replanRings p.plan).replanTicks p.plan new

/-- The part as slots, clock and heads leave it, before the exchange settles and the alarm unit meets the new plan. -/
def Part.regulated (new : Plan) (p : Part) : Part := (p.replanned new).activateClock.sweepDests.expireHeads

theorem Part.replanned_eq (new : Plan) (p : Part) : p.replanned new = (p.retabled new).activateSlots p.plan := rfl

theorem Part.activate_stages (new : Plan) (p : Part) :
    p.activate new = ((p.endSecondTick.regulated new).settleExchange p.endSecondTick.engine).activateAlarms := rfl

theorem Part.besidesAlarms_activateAlarms (p : Part) : p.activateAlarms.besidesAlarms = p.besidesAlarms := by
  unfold Part.activateAlarms
  rw [Part.besidesAlarms_mark, Part.besidesAlarms_expirePoints, Part.besidesAlarms_reintegrate]

/-- From the third stage on gates, log, arbiter and the reads in flight but for their marks stay as they are. -/
theorem Part.shelved_regulated (new : Plan) (p : Part) : (p.retabled new).Shelved (p.regulated new) := by
  have slots : (p.retabled new).Shelved (p.replanned new) := Part.shelved_activateSlots p.plan _
  have clock : ∀ q : Part, q.Shelved q.activateClock := fun q => by
    rw [Part.activateClock_rest]
    exact .of_ledger rfl
  have heads : ∀ q : Part, q.Shelved q.sweepDests.expireHeads := fun q =>
    .of_ledger ((Part.ledger_expireHeads _).trans (Part.ledger_sweepDests q))
  exact (slots.trans (clock _)).trans (heads _)

theorem Part.frame_withClock {p q : Part} (k : Clock) (h : q.frame = p.frame) : (q.withClock k).frame = (p.withClock k).frame :=
  (congrArg (Part.withClock k) h :)

/-- From the third stage on only the clock moves, of what no slot event touches. -/
theorem Part.frame_regulated (new : Plan) (p : Part) :
    (p.regulated new).frame = ((p.retabled new).withClock (p.replanned new).activateClock.clock).frame := by
  have slots : (p.replanned new).frame = (p.retabled new).frame := Part.frame_activateSlots _ _
  have clock : (p.replanned new).activateClock.frame
      = ((p.retabled new).withClock (p.replanned new).activateClock.clock).frame :=
    (congrArg Part.frame (Part.activateClock_rest _)).trans (Part.frame_withClock _ slots)
  unfold Part.regulated
  rw [Part.frame_expireHeads, Part.frame_of_exchange (Part.besidesExchange_sweepDests _), clock]

/-- What an activation keeps of the part the stages before the exchange and the alarm unit leave. -/
structure Part.Concludes (p q : Part) : Prop where
  frame : q.besidesAlarms.frame = p.besidesAlarms.frame
  arbiter : q.arbiter = p.arbiter
  flights : q.flights = p.flights
  watched : q.watched = p.watched
  ports : ∀ n : Slot, q.ports[n].besidesCounters = p.ports[n].besidesCounters
  status : p.status.Grows q.status
  gates : ∀ g : GateNo, p.gates[g].state = .closed → q.gates[g] = p.gates[g]

theorem Part.concludes_of_views {p q u : Part} (settles : p.Settles q) (alarms : u.besidesAlarms = q.besidesAlarms)
    (grows : q.status.Grows u.status) : p.Concludes u := by
  have view := settles.besidesExchange
  refine ⟨?_, ?_, ?_, ?_, fun n => ?_, ?_, fun g closed => ?_⟩
  · rw [alarms]
    exact (congrArg (fun q : Part => q.besidesAlarms.frame) view :)
  · exact (congrArg Part.arbiter alarms :).trans (congrArg Part.arbiter view :)
  · exact (Part.flights_of_alarms alarms).trans (Part.flights_of_exchange view)
  · exact (congrArg Part.watched alarms :).trans (congrArg Part.watched view :)
  · rw [Part.ports_of_alarms alarms]
    exact Part.port_of_exchange view n
  · rwa [Part.status_of_exchange view] at grows
  · have gates : u.gates = q.gates := (congrArg Part.gates alarms :)
    rw [gates]
    rcases settles.gate g with same | ⟨opened, -, -⟩
    · exact same
    · exact absurd (closed.symm.trans opened) nofun

theorem Part.concludes (old : Engine) (p : Part) : p.Concludes (p.settleExchange old).activateAlarms :=
  Part.concludes_of_views (Part.settles_settleExchange old p) (Part.besidesAlarms_activateAlarms _) (Part.grows_activateAlarms _)

end Sys2Proof.Machine
end


section
/-! PROOFS. The rings that an activation changes stay empty at index 0 for the rest of it (R47, R98, R100). -/
namespace Sys2Proof.Machine

/-! ### What a slot leaves alone as it meets a new plan -/

theorem Part.besidesSlot_compareSlot (n : Slot) (p : Part) : (p.compareSlot n).besidesSlot n = p.besidesSlot n := by
  rw [Part.compareSlot_eq]
  split
  · exact Part.besidesSlot_enterRemoving n false p
  split
  · exact Part.besidesSlot_enterPowering n p
  split
  · unfold Part.rejectCard
    split
    · exact Part.besidesSlot_modPort n _ p
    · exact Part.besidesSlot_enterFenced n _ false p
  · unfold Part.keepSlot
    split
    · exact Part.besidesSlot_cancelCheck n p
    split
    · unfold Part.endWaiver
      rw [Part.besidesSlot_modPort, Part.besidesSlot_armStrobe, Part.besidesSlot_startHeartbeat]
    · rfl

theorem Part.besidesSlot_rekey (old : Plan) (n : Slot) (p : Part) : (p.rekey old n).besidesSlot n = p.besidesSlot n := by
  unfold Part.rekey
  split
  · exact Part.besidesSlot_startHeartbeat n p
  · rfl

theorem Part.besidesSlot_expirePresence (n : Slot) (p : Part) : (p.expirePresence n).besidesSlot n = p.besidesSlot n := by
  unfold Part.expirePresence
  split
  · exact Part.besidesSlot_presenceIsFound n p
  split
  · exact Part.besidesSlot_presenceIsLost n p
  · rfl

theorem Part.besidesSlot_expireHeartbeat (n : Slot) (p : Part) : (p.expireHeartbeat n).besidesSlot n = p.besidesSlot n := by
  unfold Part.expireHeartbeat
  split
  · exact Part.besidesSlot_loseHeartbeat n _ p
  · rfl

theorem Part.idles_powerFault (n : Slot) (why : FenceReason) (p : Part) : p.Idles (p.powerFault n why) := by
  unfold Part.powerFault
  split
  · exact Part.idles_enterRemoving n true p
  · exact Part.idles_enterFenced n why true p

theorem Part.idles_expirePresence (n : Slot) (p : Part) : p.Idles (p.expirePresence n) := by
  unfold Part.expirePresence
  split
  · exact Part.idles_presenceIsFound n p
  split
  · exact Part.idles_presenceIsLost n p
  · exact .refl p

theorem Part.idles_expireHeartbeat (n : Slot) (p : Part) : p.Idles (p.expireHeartbeat n) := by
  have lost := Part.idles_modPort n Port.withoutHeartbeat p
  unfold Part.expireHeartbeat
  split
  · by_cases fences : p.plan.slots[n].fenceOnHeartbeat = true ∧ n ≠ 0
    · rw [Part.loseHeartbeat_of_fences fences]
      exact lost.trans (Part.idles_enterFenced n _ false _)
    · rw [Part.loseHeartbeat_of_not fences]
      exact lost
  · exact .refl p

/-! ### Rings that were reset stay so -/

section reset
variable {r : RingNo} {p q : Part}

theorem Part.WasReset.idles (s : p.Idles q) (h : p.WasReset r) : q.WasReset r := by
  induction s with
  | refl => exact h
  | tail _ last ih => exact last.wasReset ih

theorem Part.WasReset.settles (s : p.Settles q) (h : p.WasReset r) : q.WasReset r :=
  s.keeps (P := Part.WasReset r) (fun _ _ => Part.Settling.wasReset) h

/-- A change that leaves ring `r`, its place on the take list and the requested writes as they are. -/
theorem Part.WasReset.of_ring (ring : q.rings[r] = p.rings[r]) (list : r ∈ q.engine.takeList ↔ r ∈ p.engine.takeList)
    (pending : p.Pending { ring := r, value := 0 } → q.Pending { ring := r, value := 0 }) (h : p.WasReset r) : q.WasReset r := by
  obtain ⟨rest, producer, high, requested⟩ := h
  unfold Part.WasReset
  rw [ring]
  exact ⟨rest.of_ring ring list, producer, high, pending requested⟩

theorem Part.WasReset.keepDests {r' : RingNo} {y : Head} (head : p.headRecord r' = some y) (why : Discard) (keep : Slot → Bool)
    (h : p.WasReset r) : (p.keepDests r' y why keep).WasReset r := by
  have ne : r' ≠ r := by
    rintro rfl
    exact absurd (h.1.1.symm.trans (Part.headRecord_eq_some.mp head).2) nofun
  refine h.of_ring (Part.keepDests_ring_ne ne _ _ _ _) (Part.mem_takeList_keepDests_ne ne _ _ _ _) fun pending => ?_
  exact pending.of_engine (Part.mem_indexQueue_keepDests_ne ne _ _ _) (Part.keepDests_waiting _ _ _ _ _)

theorem Part.pending_voidCopy {w : IndexWrite} (h : p.Pending w) : p.voidCopy.Pending w := by
  have queue := p.voidCopy_engine.2.1
  rcases h with mem | waiting
  · exact .inl (queue ▸ mem)
  · refine .inr ?_
    unfold Part.voidCopy
    split
    · exact waiting
    · dsimp only
      rw [waiting]
      dsimp only
      split
      · exact waiting
      · exact waiting

theorem Part.WasReset.voidCopy (h : p.WasReset r) : p.voidCopy.WasReset r := by
  obtain ⟨takes, -, -, -, rings, -⟩ := p.voidCopy_engine
  exact h.of_ring (by rw [rings]) (by rw [takes]) Part.pending_voidCopy

theorem Part.WasReset.resetRing (r' : RingNo) (why : Discard) (h : p.WasReset r) : (p.resetRing why r').WasReset r := by
  by_cases e : r' = r
  · subst e
    exact Part.wasReset_resetRing why r' p
  · exact h.resetRing_ne e why

theorem Part.WasReset.resetSlotRings (n : Slot) (h : p.WasReset r) : (p.resetSlotRings n).WasReset r := by
  have into : (p.voidInto n).WasReset r := by
    unfold Part.voidInto
    split
    · split
      · split
        · next y head =>
          refine h.voidCopy.keepDests ?_ _ _
          rw [Part.headRecord_congr (p := p) (by rw [p.voidCopy_engine.2.2.2.2.1]), head]
        · exact h
      · exact h
    · exact h
  have out : ((p.voidInto n).voidFrom n).WasReset r := by
    unfold Part.voidFrom
    split
    · split
      · exact into.voidCopy
      · exact into
    · exact into
  rw [Part.resetSlotRings_eq]
  unfold Part.resetPresent
  exact forEach_invariant (fun u : Part => u.WasReset r) 8 _
    (fun k u hu => Part.resetPresent_round (slotRing n k) u (fun u => u.WasReset r) (hu.resetRing _ _) hu) _ out

theorem Part.WasReset.reviewHigh (r' : RingNo) (h : p.WasReset r) : (p.reviewHigh r').WasReset r := by
  cases ingress : isEgress r' with
  | true =>
    unfold Part.reviewHigh
    rw [if_pos ingress]
    exact h
  | false =>
    rw [Part.reviewHigh_of_ingress ingress]
    by_cases e : r' = r
    · subst e
      refine Part.WasReset.of_ring (p := p) ?_ Iff.rfl id h
      have low : highFlag p.plan.rings[r'] 0 false = false := by
        unfold highFlag
        split
        · next high => exact absurd high (Nat.not_lt_zero _)
        · exact ite_self _
      rw [Part.modRing_self, h.ring, Ring.occupancy_emptied rfl, low, Bool.and_false]
    · exact Part.WasReset.of_ring (p := p) (Part.modRing_ne e _ p) Iff.rfl id h

theorem Part.WasReset.expireHead (r' : RingNo) (h : p.WasReset r) : (p.expireHead r').WasReset r := by
  have ended : ∀ (b : Batch) (u : Part), u.WasReset r → (u.endBatch b).WasReset r := fun b u hu => hu.of_ring rfl Iff.rfl id
  unfold Part.expireHead
  split
  · next y head =>
    have kept := h.keepDests head .holdExpired fun _ => false
    dsimp only
    split
    · split
      · exact ended _ _ kept
      · exact kept
    · exact kept
  · exact h

end reset

/-! ### Changed rings -/

/-- Ring `r` was reset, and the copy of its card's index word with it (R98). -/
def Part.Emptied (r : RingNo) (p : Part) : Prop := p.WasReset r ∧ p.watched.get (cardOwnedWord r) = 0

section emptied
variable {r : RingNo} {p q : Part}

theorem Part.Emptied.resetRing (r' : RingNo) (why : Discard) (h : p.Emptied r) : (p.resetRing why r').Emptied r := by
  refine ⟨h.1.resetRing r' why, ?_⟩
  rw [Part.resetRing_watched]
  by_cases e : r' = r
  · subst e
    exact Watched.get_set_self _ _ _
  · rw [Watched.get_set_ne _ _ _ _ fun same => e (cardOwnedWord_injective same)]
    exact h.2

theorem Part.emptied_resetRing (why : Discard) (r : RingNo) (p : Part) : (p.resetRing why r).Emptied r := by
  refine ⟨Part.wasReset_resetRing why r p, ?_⟩
  rw [Part.resetRing_watched]
  exact Watched.get_set_self _ _ _

theorem Part.Emptied.slot {n : Slot} (view : q.besidesSlot n = p.besidesSlot n) (idles : p.Idles q) (h : p.Emptied r) : q.Emptied r :=
  ⟨h.1.idles idles, by rw [Part.watched_of_besidesSlot view]; exact h.2⟩

theorem Part.Emptied.exchange (view : q.besidesExchange = p.besidesExchange) (reset : q.WasReset r) (h : p.Emptied r) : q.Emptied r :=
  ⟨reset, by rw [Part.watched_of_exchange view]; exact h.2⟩

theorem Part.Emptied.keepDests {r' : RingNo} {y : Head} (head : p.headRecord r' = some y) (why : Discard) (keep : Slot → Bool)
    (h : p.Emptied r) : (p.keepDests r' y why keep).Emptied r :=
  h.exchange (Part.besidesExchange_keepDests (Part.egress_of_headRecord head) y why keep p) (h.1.keepDests head why keep)

theorem Part.Emptied.admitSlot (n : Slot) (h : p.Emptied r) : (p.admitSlot n).Emptied r := by
  have rings : (p.resetSlotRings n).Emptied r := by
    refine ⟨h.1.resetSlotRings n, ?_⟩
    have voided : ((p.voidInto n).voidFrom n).watched = p.watched := Part.watched_of_exchange (Part.besidesExchange_voided n p)
    rw [Part.resetSlotRings_eq]
    unfold Part.resetPresent
    refine forEach_invariant (fun u : Part => u.watched.get (cardOwnedWord r) = 0) 8 _ (fun k u hu => ?_) _ ?_
    · refine Part.resetPresent_round (slotRing n k) u (fun u => u.watched.get (cardOwnedWord r) = 0) ?_ hu
      rw [Part.resetRing_watched]
      by_cases e : slotRing n k = r
      · subst e
        exact Watched.get_set_self _ _ _
      · rw [Watched.get_set_ne _ _ _ _ fun same => e (cardOwnedWord_injective same)]
        exact hu
    · rw [voided]
      exact h.2
  rw [Part.admitSlot_eq]
  exact ⟨rings.1.idles (Part.idles_enterAdmitted n _), by rw [Part.enterAdmitted_watched]; exact rings.2⟩

theorem Part.Emptied.expireSlot (n : Slot) (h : p.Emptied r) : (p.expireSlot n).Emptied r := by
  have presence := h.slot (Part.besidesSlot_expirePresence n p) (Part.idles_expirePresence n p)
  have state : ∀ u : Part, u.Emptied r → (u.expireState n).Emptied r := by
    intro u hu
    rcases u.expireState_cases n with ⟨why, e⟩ | ⟨-, e⟩ | e <;> rw [e]
    · exact hu.slot (Part.besidesSlot_powerFault n why u) (Part.idles_powerFault n why u)
    · exact hu.admitSlot n
    · exact hu
  rw [Part.expireSlot_eq]
  exact (state _ presence).slot (Part.besidesSlot_expireHeartbeat n _) (Part.idles_expireHeartbeat n _)

theorem Part.Emptied.activateSlots (old : Plan) (h : p.Emptied r) : (p.activateSlots old).Emptied r := by
  unfold Part.activateSlots
  refine forEach_invariant (fun u : Part => u.Emptied r) 12 _ (fun n u hu => hu.expireSlot n) _ ?_
  refine forEach_invariant (fun u : Part => u.Emptied r) 12 _ (fun n u hu => ?_) p h
  exact (hu.slot (Part.besidesSlot_compareSlot n u) (Part.idles_compareSlot n u)).slot (Part.besidesSlot_rekey old n _)
    (Part.idles_rekey old n _)

/-- A changed ring is empty once its turn has come, and stays so under the later ones. -/
theorem Part.emptied_of_changed {old : Plan} (changed : ringChanged old.rings[r] p.plan.rings[r] = true) :
    (p.resetChangedRings old).Emptied r := by
  rw [Part.resetChangedRings_eq]
  refine forEach_each (s := p) (Before := fun _ (q : Part) => q.plan = p.plan)
    (After := fun r (q : Part) => ringChanged old.rings[r] p.plan.rings[r] = true → q.Emptied r)
    (fun i q plan changed => ?_) (fun i j q _ plan => (Part.resetIfChanged_plan _ _ _).trans plan)
    (fun i j q _ h changed => ?_) (fun _ => rfl) r changed
  · unfold Part.resetIfChanged
    rw [plan, if_pos changed]
    exact Part.emptied_resetRing _ _ _
  · unfold Part.resetIfChanged
    split
    · exact (h changed).resetRing _ _
    · exact h changed

theorem Part.Emptied.dropLostDests (h : p.Emptied r) : p.dropLostDests.Emptied r := by
  refine forEach_invariant (fun u : Part => u.Emptied r) 96 _ (fun r' u hu => ?_) p h
  split
  · next y head => exact hu.keepDests head _ _
  · exact hu

theorem Part.reviewHigh_watched (r' : RingNo) (p : Part) : (p.reviewHigh r').watched = p.watched := by
  unfold Part.reviewHigh
  split <;> rfl

theorem Part.Emptied.reviewAllHigh (h : p.Emptied r) : p.reviewAllHigh.Emptied r :=
  forEach_invariant (fun u : Part => u.Emptied r) 96 _
    (fun r' u hu => ⟨hu.1.reviewHigh r', by rw [Part.reviewHigh_watched]; exact hu.2⟩) p h

theorem Part.replanTicks_watched (old new : Plan) (p : Part) : (p.replanTicks old new).watched = p.watched := by
  have kept : ∀ q : Part, (q.retimeProg old).watched = q.watched := by
    intro q
    unfold Part.retimeProg
    split <;> rfl
  exact kept p.closeGates

theorem Part.Emptied.replanTicks (old new : Plan) (h : p.Emptied r) : (p.replanTicks old new).Emptied r :=
  ⟨h.1.idles (Part.idles_replanTicks old new p), by rw [Part.replanTicks_watched]; exact h.2⟩

theorem Part.Emptied.activateClock (h : p.Emptied r) : p.activateClock.Emptied r := by
  have kept : ∀ k : Clock, (p.withClock k).Emptied r := fun k => ⟨h.1.idles (.same rfl rfl rfl), h.2⟩
  rw [Part.activateClock_rest]
  exact kept _

theorem Part.Emptied.sweepDests (h : p.Emptied r) : p.sweepDests.Emptied r :=
  h.exchange (Part.besidesExchange_sweepDests p) (h.1.settles (Part.settles_sweepDests p))

theorem Part.Emptied.expireHead (r' : RingNo) (h : p.Emptied r) : (p.expireHead r').Emptied r := by
  refine ⟨h.1.expireHead r', ?_⟩
  have kept : (p.expireHead r').watched = p.watched := by
    unfold Part.expireHead
    split
    · next y head =>
      have dests := Part.watched_of_exchange
        (Part.besidesExchange_keepDests (Part.egress_of_headRecord head) y .holdExpired (fun _ => false) p)
      dsimp only
      split
      · split
        · exact dests
        · exact dests
      · exact dests
    · rfl
  rw [kept]
  exact h.2

theorem Part.Emptied.expireHeads (h : p.Emptied r) : p.expireHeads.Emptied r := by
  refine forEach_invariant (fun u : Part => u.Emptied r) 96 _ (fun r' u hu => ?_) p h
  split
  · exact hu.expireHead r'
  · exact hu

/-- A ring that an activation changes is empty when the exchange settles. -/
theorem Part.emptied_regulated {new : Plan} (changed : ringChanged p.plan.rings[r] new.rings[r] = true) :
    (p.regulated new).Emptied r := by
  have reset : ((p.replan new).resetChangedRings p.plan).Emptied r := Part.emptied_of_changed (p := p.replan new) changed
  have ticks : (p.retabled new).Emptied r := reset.dropLostDests.reviewAllHigh.replanTicks p.plan new
  have slots : (p.replanned new).Emptied r := ticks.activateSlots p.plan
  exact slots.activateClock.sweepDests.expireHeads

end emptied

end Sys2Proof.Machine
end


section
/-! PROOFS. How each slot meets a new plan: its port, its reads in flight and the dirty mark of its record (R61, R77, R79, R80). -/
namespace Sys2Proof.Machine

/-! ### The port -/

/-- A slot port after the first change of R79 that applies, or none. -/
def Port.compared (x : Port) (n : Slot) (new : SlotPlan) (now : Nat) : Port :=
  if new.enabled = false ∧ x.state.holds = true then x.removedBy false now
  else if new.enabled = true ∧ x.state = .standby then x.powered now
  else match x.mismatch new with
    | some why => if n = 0 then { x with admitResult := why } else x.fencedBy .planMismatch false
    | none =>
      if x.state = .quarantine then { x with check := none }
      else if n = 0 ∧ x.state = .admitted ∧ x.waived = true then
        { x with heartbeat := Heartbeat.begun new.key now, strobe := { x.strobe with armed := true }, waived := false }
      else x

/-- A slot port whose heartbeat key changes from `old` to `new` (R80). -/
def Port.rekeyed (x : Port) (old new : Word) (now : Nat) : Port :=
  if x.heartbeat.supervising = true ∧ old ≠ new then { x with heartbeat := Heartbeat.begun new now } else x

theorem SlotState.holds_iff {st : SlotState} :
    st.holds = true ↔ st = .powering ∨ st = .training ∨ st.linked = true ∨ st = .fenced := by
  cases st <;> simp [SlotState.holds, SlotState.linked]

theorem Port.replanned_eq (x : Port) (n : Slot) (old new : SlotPlan) (now : Nat) :
    x.replanned n old new now = (x.compared n new now).rekeyed old.key new.key now := by
  unfold Port.replanned Port.compared Port.mismatch Port.rekeyed
  simp only [SlotState.holds_iff]
  cases state : x.state <;> cases identity : x.identity <;> simp [identityFault_eq] <;> rfl

/-- The counters of a port have no part in how it meets a new plan. -/
theorem Port.besidesCounters_fencedBy (x : Port) (c : Counters) (reason : FenceReason) :
    (Port.fencedBy { x with counters := c } reason false).besidesCounters = (x.fencedBy reason false).besidesCounters := by
  simp only [Port.fencedBy, Bool.false_eq_true, if_false]
  split <;> rfl

theorem Port.besidesCounters_compared {x y : Port} (h : y.besidesCounters = x.besidesCounters) (n : Slot) (new : SlotPlan) (now : Nat) :
    (y.compared n new now).besidesCounters = (x.compared n new now).besidesCounters := by
  have same : y = { x with counters := y.counters } := (congrArg (fun z : Port => { z with counters := y.counters }) h :)
  rw [same]
  generalize y.counters = c
  have mismatch : Port.mismatch { x with counters := c } new = x.mismatch new := rfl
  unfold Port.compared
  rw [mismatch]
  dsimp only
  split
  · rfl
  split
  · rfl
  split
  · split
    · rfl
    · exact x.besidesCounters_fencedBy c .planMismatch
  split
  · rfl
  split <;> rfl

theorem Port.besidesCounters_rekeyed {x y : Port} (h : y.besidesCounters = x.besidesCounters) (old new : Word) (now : Nat) :
    (y.rekeyed old new now).besidesCounters = (x.rekeyed old new now).besidesCounters := by
  have same : y = { x with counters := y.counters } := (congrArg (fun z : Port => { z with counters := y.counters }) h :)
  rw [same]
  unfold Port.rekeyed
  dsimp only
  split <;> rfl

theorem Port.rekeyed_state (x : Port) (old new : Word) (now : Nat) : (x.rekeyed old new now).state = x.state := by
  unfold Port.rekeyed
  split <;> rfl

theorem Part.endWaiver_port (n : Slot) (p : Part) : (p.endWaiver n).ports[n] = { p.ports[n] with
    heartbeat := Heartbeat.begun p.plan.slots[n].key p.now, strobe := { p.ports[n].strobe with armed := true }, waived := false } := by
  unfold Part.endWaiver Part.armStrobe Part.startHeartbeat
  rw [Part.modPort_self, Part.modPort_self, Part.modPort_self]
  rfl

theorem Part.compareSlot_port (n : Slot) (p : Part) :
    (p.compareSlot n).ports[n] = p.ports[n].compared n p.plan.slots[n] p.now := by
  rw [Part.compareSlot_eq]
  unfold Port.compared
  split
  · exact Part.enterRemoving_port n false p
  split
  · next standby => exact Part.enterPowering_port (SlotState.ne_admitted standby.2 nofun)
  cases p.ports[n].mismatch p.plan.slots[n] with
  | some why =>
    unfold Part.rejectCard
    dsimp only
    split
    · exact Part.modPort_self n _ p
    · exact Part.enterFenced_port n _ false p
  | none =>
    unfold Part.keepSlot
    dsimp only
    by_cases quarantine : p.ports[n].state = .quarantine
    · rw [if_pos quarantine]
      cases check : p.ports[n].check with
      | some k =>
        rw [if_pos ⟨quarantine, rfl⟩]
        exact Part.cancelCheck_port n p
      | none =>
        have served : ¬(n = 0 ∧ p.ports[n].state = .admitted ∧ p.ports[n].waived = true) :=
          fun e => absurd (quarantine.symm.trans e.2.1) nofun
        rw [if_neg (by simp), if_neg served, ← check]
    · rw [if_neg fun e => quarantine e.1, if_neg quarantine]
      split
      · exact Part.endWaiver_port n p
      · rfl

theorem Part.rekey_port (old : Plan) (n : Slot) (p : Part) :
    (p.rekey old n).ports[n] = p.ports[n].rekeyed old.slots[n].key p.plan.slots[n].key p.now := by
  unfold Part.rekey Port.rekeyed
  simp only [Bool.and_eq_true, bne_iff_ne]
  split
  · exact Part.modPort_self n _ p
  · rfl

/-! ### The reads in flight -/

/-- What the marks on the reads `l` of slot `n` are as its port goes from `x` to `y`. -/
structure Port.Met (n : Slot) (x y : Port) (l : List Flight) : Prop where
  removed : y.state = .removing → x.state ≠ .removing → ∀ f ∈ l, ∀ tag fenced dropped, f.purpose = .card n tag fenced dropped →
    dropped = true
  fenced : y.state = .fenced → x.state ≠ .fenced → ∀ f ∈ l, ∀ tag fenced dropped, f.purpose = .card n tag fenced dropped →
    if x.link = true then fenced = true else dropped = true
  unchecked : x.check.isSome = true → x.state = .quarantine → ∀ f ∈ l, ∀ live, f.purpose = .check n live → live = false

theorem mem_of_filter_of {n : Slot} {l k : List Flight} (same : k.filter (Flight.of n) = l.filter (Flight.of n)) {f : Flight} (mem : f ∈ k)
    (own : f.of n = true) : f ∈ l := by
  have kept : f ∈ k.filter (Flight.of n) := List.mem_filter.mpr ⟨mem, own⟩
  rw [same] at kept
  exact (List.mem_filter.mp kept).1

theorem Flight.of_card {n : Slot} {f : Flight} {tag : Tag} {a b : Bool} (h : f.purpose = .card n tag a b) : f.of n = true := by
  unfold Flight.of
  rw [h]
  exact beq_self_eq_true n

theorem Flight.of_check {n : Slot} {f : Flight} {live : Bool} (h : f.purpose = .check n live) : f.of n = true := by
  unfold Flight.of
  rw [h]
  exact beq_self_eq_true n

/-- The reads of the slot are the same. -/
theorem Port.Met.of_filter {n : Slot} {x y : Port} {l k : List Flight} (same : k.filter (Flight.of n) = l.filter (Flight.of n))
    (h : Port.Met n x y l) : Port.Met n x y k where
  removed leaves was f mem tag a b e := h.removed leaves was f (mem_of_filter_of same mem (Flight.of_card e)) tag a b e
  fenced leaves was f mem tag a b e := h.fenced leaves was f (mem_of_filter_of same mem (Flight.of_card e)) tag a b e
  unchecked some was f mem live e := h.unchecked some was f (mem_of_filter_of same mem (Flight.of_check e)) live e

theorem marked_card {n : Slot} {fence : Bool} {l : List Flight} {f : Flight} (mem : f ∈ markedFlights n fence l) {tag : Tag}
    {a b : Bool} (e : f.purpose = .card n tag a b) : if fence = true then a = true else b = true := by
  unfold markedFlights at mem
  obtain ⟨g, -, rfl⟩ := List.mem_map.mp mem
  obtain ⟨purpose, data⟩ := g
  cases purpose with
  | card m t a' b' =>
    by_cases own : m = n
    · subst own
      dsimp only at e
      rw [if_pos rfl] at e
      cases fence <;> injection e with _ _ ea eb
      · exact eb.symm
      · exact ea.symm
    · dsimp only at e
      rw [if_neg own] at e
      injection e with slot
      exact absurd slot own
  | check | plan | header | copy => cases e

theorem marked_check {n : Slot} {fence : Bool} {l : List Flight} {f : Flight} (mem : f ∈ markedFlights n fence l) {live : Bool}
    (e : f.purpose = .check n live) : live = false := by
  unfold markedFlights at mem
  obtain ⟨g, -, rfl⟩ := List.mem_map.mp mem
  obtain ⟨purpose, data⟩ := g
  cases purpose with
  | check m was =>
    injection e with slot alive
    subst slot
    simpa using alive.symm
  | card m t a' b' =>
    dsimp only at e
    split at e <;> cases e
  | plan | header | copy => cases e

theorem unchecked_check {n : Slot} {l : List Flight} {f : Flight} (mem : f ∈ uncheckedFlights n l) {live : Bool}
    (e : f.purpose = .check n live) : live = false := by
  unfold uncheckedFlights at mem
  obtain ⟨g, -, rfl⟩ := List.mem_map.mp mem
  obtain ⟨purpose, data⟩ := g
  cases purpose with
  | check m was =>
    injection e with slot alive
    subst slot
    simpa using alive.symm
  | card | plan | header | copy => cases e

theorem Port.powered_state (x : Port) (now : Nat) : (x.powered now).state ≠ .removing ∧ (x.powered now).state ≠ .fenced := by
  unfold Port.powered
  dsimp only
  split <;> exact ⟨nofun, nofun⟩

/-- The marks of a slot's reads as it meets the new plan (R11, R12, R61, R79). -/
theorem Part.met_compareSlot (n : Slot) (p : Part) :
    Port.Met n p.ports[n] (p.ports[n].compared n p.plan.slots[n] p.now) (p.compareSlot n).flights := by
  have still : ∀ {y : Port} {l : List Flight}, y.state = p.ports[n].state → (p.ports[n].check.isSome = true →
      p.ports[n].state = .quarantine → ∀ f ∈ l, ∀ live, f.purpose = .check n live → live = false) → Port.Met n p.ports[n] y l :=
    fun same unchecked => ⟨fun leaves was => absurd (same.symm.trans leaves) was, fun leaves was => absurd (same.symm.trans leaves) was,
      unchecked⟩
  rw [Part.compareSlot_eq]
  unfold Port.compared
  split
  · rw [Part.enterRemoving_flights]
    exact ⟨fun _ _ f mem tag a b e => marked_card (fence := false) mem e, fun leaves => (nomatch leaves),
      fun _ _ f mem live e => marked_check mem e⟩
  split
  · next standby =>
    obtain ⟨removing, fenced⟩ := p.ports[n].powered_state p.now
    exact ⟨fun leaves => absurd leaves removing, fun leaves => absurd leaves fenced,
      fun _ quarantine => absurd (standby.2.symm.trans quarantine) nofun⟩
  cases mismatch : p.ports[n].mismatch p.plan.slots[n] with
  | some why =>
    have served : p.ports[n].state ≠ .quarantine := by
      intro quarantine
      unfold Port.mismatch at mismatch
      rw [quarantine, if_neg (by simp)] at mismatch
      cases mismatch
    unfold Part.rejectCard
    dsimp only
    split
    · exact still rfl fun _ quarantine => absurd quarantine served
    · rw [Part.enterFenced_flights]
      refine ⟨fun leaves => (nomatch leaves), fun _ _ f mem tag a b e => ?_, fun _ quarantine => absurd quarantine served⟩
      simpa using marked_card mem e
  | none =>
    unfold Part.keepSlot
    dsimp only
    by_cases quarantine : p.ports[n].state = .quarantine
    · rw [if_pos quarantine]
      split
      · rw [Part.cancelCheck_flights]
        exact still rfl fun _ _ f mem live e => unchecked_check mem e
      · next none => exact still rfl fun some was => absurd ⟨was, some⟩ none
    · rw [if_neg quarantine, if_neg (mt And.left quarantine)]
      split
      · exact still rfl fun _ was => absurd was quarantine
      · exact still rfl fun _ was => absurd was quarantine

/-- A change of state makes the record of the slot dirty (R54). -/
theorem Part.compareSlot_dirty {n : Slot} {p : Part} (moved : (p.ports[n].compared n p.plan.slots[n] p.now).state ≠ p.ports[n].state) :
    (p.compareSlot n).status.dirty[slotRecordNo n] = true := by
  rw [Part.compareSlot_eq]
  unfold Port.compared at moved
  split
  · exact Part.enterRemoving_dirty n false p
  · next off =>
    rw [if_neg off] at moved
    split
    · exact Part.enterPowering_dirty n p
    · next on =>
      rw [if_neg on] at moved
      cases mismatch : p.ports[n].mismatch p.plan.slots[n] with
      | some why =>
        rw [mismatch] at moved
        dsimp only at moved
        unfold Part.rejectCard
        dsimp only
        split
        · next zero =>
          rw [if_pos zero] at moved
          exact absurd rfl moved
        · exact Part.enterFenced_dirty n _ false p
      | none =>
        rw [mismatch] at moved
        dsimp only at moved
        split at moved
        · exact absurd rfl moved
        split at moved
        · exact absurd rfl moved
        · exact absurd rfl moved

end Sys2Proof.Machine
end


section
/-! PROOFS. The slots in turn as a plan becomes active (R79, R80): what each one's turn brings about, and that the turns of the other
slots leave it alone. -/
namespace Sys2Proof.Machine

theorem Part.now_of_frame {p q : Part} (h : q.frame = p.frame) : q.now = p.now :=
  congrArg (fun k : Nat => k / Config.periodsPerMicrosecond) (Part.osc_of_frame h)

/-! ### What the turn of another slot leaves alone -/

/-- From part `p` to part `q` the port of slot `n` stays but for its counters, and its reads in flight stay. -/
structure Part.Spares (n : Slot) (p q : Part) : Prop where
  port : q.ports[n].besidesCounters = p.ports[n].besidesCounters
  flights : q.flights.filter (Flight.of n) = p.flights.filter (Flight.of n)

theorem Part.Spares.refl (n : Slot) (p : Part) : p.Spares n p := ⟨rfl, rfl⟩

theorem Part.Spares.trans {n : Slot} {p q r : Part} (h : p.Spares n q) (h' : q.Spares n r) : p.Spares n r :=
  ⟨h'.port.trans h.port, h'.flights.trans h.flights⟩

theorem Part.Turns.spares {m n : Slot} (ne : m ≠ n) {p q : Part} (h : p.Turns m q) : p.Spares n q := by
  obtain ⟨y, l, steps, turn⟩ := h
  refine ⟨turn.others n ne, ?_⟩
  rw [turn.flights]
  exact steps.flights_others ne

theorem Part.SlotMoves.spares {m n : Slot} (ne : m ≠ n) {p q : Part} (h : p.SlotMoves m q) : p.Spares n q :=
  h.keeps (P := p.Spares n) (fun _ _ move spared => spared.trans (move.turns.spares ne)) (.refl n p)

theorem Part.spares_meetPlan {m n : Slot} (ne : m ≠ n) (old : Plan) (p : Part) : p.Spares n ((p.compareSlot m).rekey old m) :=
  ((Part.turns_compareSlot m p).spares ne).trans ((Part.turns_rekey old m _).spares ne)

theorem Part.spares_expireSlot {m n : Slot} (ne : m ≠ n) (p : Part) : p.Spares n (p.expireSlot m) := by
  have presence : p.Spares n (p.expirePresence m) := by
    unfold Part.expirePresence
    split
    · exact (Part.turns_presenceIsFound m p).spares ne
    · split
      · exact (Part.turns_presenceIsLost m p).spares ne
      · exact .refl n p
  have state : ∀ q : Part, q.Spares n (q.expireState m) := by
    intro q
    rcases q.expireState_cases m with ⟨why, e⟩ | ⟨due, e⟩ | e <;> rw [e]
    · exact (Part.moves_powerFault m why q).spares ne
    · exact (Part.turns_admitSlot (SlotState.eq_of_due due)).spares ne
    · exact .refl n q
  have heartbeat : ∀ q : Part, q.Spares n (q.expireHeartbeat m) := by
    intro q
    unfold Part.expireHeartbeat
    split
    · exact (Part.moves_loseHeartbeat m _ q).spares ne
    · exact .refl n q
  rw [Part.expireSlot_eq]
  exact (presence.trans (state _)).trans (heartbeat _)

/-! ### Timers that have not run out -/

theorem Port.untimed_of_besidesCounters {x y : Port} (h : y.besidesCounters = x.besidesCounters) {plan : SlotPlan} {now : Nat}
    (untimed : x.untimed plan now) : y.untimed plan now := by
  have same : y = { x with counters := y.counters } := (congrArg (fun z : Port => { z with counters := y.counters }) h :)
  rw [same]
  exact untimed

theorem Part.elapsed_eq_false {p : Part} {start : Option Nat} {length : Nat} (h : ∀ t, start = some t → p.now < t + length) :
    p.elapsed start length = false := by
  unfold Part.elapsed
  split
  · exact decide_eq_false (Nat.not_le.mpr (h _ rfl))
  · rfl

/-- Nothing is due for a slot none of whose timers has run out (R80). -/
theorem Part.expireSlot_of_untimed {n : Slot} {p : Part} (h : p.ports[n].untimed p.plan.slots[n] p.now) : p.expireSlot n = p := by
  obtain ⟨presence, state, heartbeat⟩ := h
  have presence : ∀ level, p.presenceDue n level = false := fun level => by
    unfold Part.presenceDue
    rw [Part.elapsed_eq_false presence, Bool.false_and, Bool.false_and]
  have powerGood : p.powerGoodDue n = false := by
    unfold Part.powerGoodDue
    by_cases powering : p.ports[n].state = .powering
    · rw [Part.elapsed_eq_false fun t running => (state t running).1 powering, Bool.and_false]
    · rw [beq_eq_false_iff_ne.mpr powering, Bool.false_and]
  have training : p.trainingDue n = false := by
    unfold Part.trainingDue
    by_cases training : p.ports[n].state = .training
    · rw [Part.elapsed_eq_false fun t running => (state t running).2.1 training, Bool.and_false]
    · rw [beq_eq_false_iff_ne.mpr training, Bool.false_and]
  have admission : p.admitDue n = false := by
    unfold Part.admitDue
    by_cases admitting : p.ports[n].state = .admitting
    · rw [Part.elapsed_eq_false fun t running => (state t running).2.2 admitting, Bool.and_false]
    · rw [beq_eq_false_iff_ne.mpr admitting, Bool.false_and]
  have window : p.heartbeatDue n = false := by
    unfold Part.heartbeatDue
    cases supervising : p.ports[n].heartbeat.supervising with
    | false => rfl
    | true =>
      cases lost : p.ports[n].heartbeat.lost with
      | true => rfl
      | false =>
        rw [Part.elapsed_eq_false fun t start => Option.some.inj start ▸ heartbeat supervising lost]
        rfl
  unfold Part.expireSlot
  simp [presence, powerGood, training, admission, window]

/-! ### The turn of a slot -/

/-- Slot `n` of part `q` has met the plan: its port went from `x` to `y`, its reads are marked and its record is dirty as R11, R12,
R54 and R61 say. -/
structure Part.HasMet (n : Slot) (x y : Port) (q : Part) : Prop where
  port : q.ports[n].besidesCounters = y.besidesCounters
  flights : Port.Met n x y q.flights
  dirty : y.state ≠ x.state → q.status.dirty[slotRecordNo n] = true

theorem Port.Met.of_signs {n : Slot} {x x' y y' : Port} {l : List Flight} (state : x'.state = x.state) (link : x'.link = x.link)
    (check : x'.check = x.check) (entered : y'.state = y.state) (h : Port.Met n x' y' l) : Port.Met n x y l := by
  obtain ⟨removed, fenced, unchecked⟩ := h
  rw [state, entered] at removed
  rw [state, entered, link] at fenced
  rw [state, check] at unchecked
  exact ⟨removed, fenced, unchecked⟩

theorem Part.HasMet.spared {n : Slot} {x y : Port} {p q : Part} (spares : p.Spares n q) (shelved : p.Shelved q) (h : p.HasMet n x y) :
    q.HasMet n x y :=
  ⟨spares.port.trans h.port, h.flights.of_filter spares.flights, fun moved => shelved.dirty _ (h.dirty moved)⟩

/-- A slot's own turn: its port as `Port.replanned` says (R79, R80). -/
theorem Part.hasMet_meetPlan (old : Plan) (n : Slot) {x : Port} {p : Part} (port : p.ports[n].besidesCounters = x.besidesCounters) :
    ((p.compareSlot n).rekey old n).HasMet n x (x.replanned n old.slots[n] p.plan.slots[n] p.now) := by
  have frame := Part.frame_compareSlot n p
  have plan : (p.compareSlot n).plan = p.plan := Part.plan_of_frame frame
  have now : (p.compareSlot n).now = p.now := Part.now_of_frame frame
  have state : p.ports[n].state = x.state := (congrArg Port.state port :)
  have compared := Port.besidesCounters_compared port n p.plan.slots[n] p.now
  have entered : (p.ports[n].compared n p.plan.slots[n] p.now).state = (x.replanned n old.slots[n] p.plan.slots[n] p.now).state := by
    rw [Port.replanned_eq, Port.rekeyed_state]
    exact (congrArg Port.state compared :)
  have flights : ((p.compareSlot n).rekey old n).flights = (p.compareSlot n).flights := by
    unfold Part.rekey
    split <;> rfl
  have status : ((p.compareSlot n).rekey old n).status = (p.compareSlot n).status := by
    unfold Part.rekey
    split <;> rfl
  refine ⟨?_, ?_, fun moved => ?_⟩
  · rw [Part.rekey_port, plan, now, Port.replanned_eq]
    exact Port.besidesCounters_rekeyed (by rw [Part.compareSlot_port]; exact compared) _ _ _
  · rw [flights]
    exact (Part.met_compareSlot n p).of_signs state (congrArg Port.link port :) (congrArg Port.check port :) entered
  · rw [status]
    exact Part.compareSlot_dirty (by rw [entered, state]; exact moved)

/-- A slot with nothing due under the new lengths has met the plan when all slots have had their turn. -/
theorem Part.hasMet_activateSlots (old : Plan) (n : Slot) (p : Part)
    (untimed : (p.ports[n].replanned n old.slots[n] p.plan.slots[n] p.now).untimed p.plan.slots[n] p.now) :
    (p.activateSlots old).HasMet n p.ports[n] (p.ports[n].replanned n old.slots[n] p.plan.slots[n] p.now) := by
  have context : ∀ {q : Part}, q.frame = p.frame → q.plan = p.plan ∧ q.now = p.now := fun frame =>
    ⟨Part.plan_of_frame frame, Part.now_of_frame frame⟩
  have turn : ∀ m (q : Part), ((q.compareSlot m).rekey old m).frame = q.frame := fun m q =>
    (Part.frame_rekey old m _).trans (Part.frame_compareSlot m q)
  have met : ∀ m, let q := forEach 12 (fun m q => (q.compareSlot m).rekey old m) p
      q.frame = p.frame ∧ q.HasMet m p.ports[m] (p.ports[m].replanned m old.slots[m] p.plan.slots[m] p.now) := by
    refine forEach_each (s := p) (f := fun m (q : Part) => (q.compareSlot m).rekey old m)
      (Before := fun m (q : Part) => q.frame = p.frame ∧ q.ports[m].besidesCounters = p.ports[m].besidesCounters)
      (After := fun m (q : Part) => q.frame = p.frame
        ∧ q.HasMet m p.ports[m] (p.ports[m].replanned m old.slots[m] p.plan.slots[m] p.now)) ?_ ?_ ?_ fun m => ⟨rfl, rfl⟩
    · rintro m q ⟨frame, port⟩
      obtain ⟨plan, now⟩ := context frame
      have own := Part.hasMet_meetPlan old m port
      rw [plan, now] at own
      exact ⟨(turn m q).trans frame, own⟩
    · rintro i j q ne ⟨frame, port⟩
      exact ⟨(turn i q).trans frame, (Part.spares_meetPlan ne old q).port.trans port⟩
    · rintro i j q ne ⟨frame, own⟩
      exact ⟨(turn i q).trans frame,
        own.spared (Part.spares_meetPlan ne old q) ((Part.shelved_compareSlot i q).trans (Part.shelved_rekey old i _))⟩
  unfold Part.activateSlots
  refine (forEach_invariant (fun q : Part => q.frame = p.frame
    ∧ q.HasMet n p.ports[n] (p.ports[n].replanned n old.slots[n] p.plan.slots[n] p.now)) 12 _ ?_ _ (met n)).2
  rintro m q ⟨frame, own⟩
  by_cases e : m = n
  · subst e
    obtain ⟨plan, now⟩ := context frame
    rw [Part.expireSlot_of_untimed (by rw [plan, now]; exact Port.untimed_of_besidesCounters own.port untimed)]
    exact ⟨frame, own⟩
  · exact ⟨(Part.frame_expireSlot m q).trans frame, own.spared (Part.spares_expireSlot e q) (Part.shelved_expireSlot m q)⟩

end Sys2Proof.Machine
end


section
/-! PROOFS. What an activation makes of plan, loader, clock, ticks, gates, log ring and surroundings (R47 to R49, R145, R154, R160,
R188). -/
namespace Sys2Proof.Machine

/-! ### The clock (R145) -/

/-- The clock meets the new plan: Facc is brought into the new limit, and cabinet time goes on. -/
theorem Part.activateClock_time (p : Part) :
    p.activateClock.clock.facc = clampTo p.plan.clock.fmax p.clock.facc
      ∧ p.activateClock.cabinetTime = p.cabinetTime ∧ p.activateClock.clock.fraction = p.clock.fraction := by
  obtain ⟨x, a⟩ := p.activateRef_clock .a
  obtain ⟨y, b⟩ := (p.activateRef .a).activateRef_clock .b
  have refs : ((p.activateRef .a).activateRef .b).clock.besidesSelection = p.clock.besidesSelection := by
    rw [b, Clock.besidesSelection_setRef, a, Clock.besidesSelection_setRef]
  have plan : ((p.activateRef .a).activateRef .b).plan = p.plan := by
    have kept : ∀ (r : RefId) (q : Part), (q.activateRef r).plan = q.plan := by
      intro r q
      unfold Part.activateRef
      dsimp only
      split
      · rfl
      · split <;> rfl
    exact (kept .b _).trans (kept .a p)
  have selected := (Clock.besidesSelection_select ((p.activateRef .a).activateRef .b).clock p.plan.clock
    ((p.activateRef .a).activateRef .b).now).trans refs
  generalize chosen : ((p.activateRef .a).activateRef .b).clock.select p.plan.clock ((p.activateRef .a).activateRef .b).now = k
    at selected
  have facc : k.facc = p.clock.facc := (congrArg Clock.facc selected :)
  have time : (⟨k.seconds, k.ns, k.epoch⟩ : CabinetTime) = p.cabinetTime :=
    (congrArg (fun k : Clock => (⟨k.seconds, k.ns, k.epoch⟩ : CabinetTime)) selected :)
  have fraction : k.fraction = p.clock.fraction := (congrArg Clock.fraction selected :)
  unfold Part.activateClock
  dsimp only
  rw [plan, chosen, ← facc]
  split <;> exact ⟨rfl, time, fraction⟩

/-! ### Gates, ticks and log ring -/

/-- The PROG record under a changed period, the others as they were (R154). -/
theorem Part.retimeProg_gens (old : Plan) (p : Part) :
    (p.retimeProg old).gens = if old.clock.progPeriod = p.plan.clock.progPeriod then p.gens
      else modify p.gens 4 fun g =>
        let now := p.cabinetTime
        let past : Int := (now.seconds - g.last.seconds).toInt * 1000000000 + now.ns - g.last.ns
        let later := if past < 0 then g.last else now
        { g with last :=
          { later with ns := later.ns - later.ns % (p.plan.clock.progPeriod * 1000), epoch := p.clock.epoch } } := by
  unfold Part.retimeProg
  split <;> rfl

theorem Part.retimeProg_ledger (old : Plan) (p : Part) : (p.retimeProg old).ledger = p.ledger := by
  unfold Part.retimeProg
  split <;> rfl

/-- The gates all closed, their counts kept. -/
def Part.closedGates (p : Part) : Vector Gate 8 := mapTable (fun _ g => { g with state := .closed }) p.gates

theorem Part.closedGates_get (p : Part) (g : GateNo) : p.closedGates[g] = { p.gates[g] with state := .closed } :=
  getElem_mapTable _ _ _ _

theorem Part.replanTicks_ledger (old new : Plan) (p : Part) :
    (p.replanTicks old new).ledger = (p.closedGates, p.status.takeLog old.alarm new.alarm, p.flights, p.arbiter) := by
  have retimed := Part.retimeProg_ledger old p.closeGates
  unfold Part.ledger at retimed
  simp only [Prod.mk.injEq] at retimed
  obtain ⟨gates, status, flights, arbiter⟩ := retimed
  unfold Part.replanTicks Part.ledger
  dsimp only
  rw [gates, status, flights, arbiter]
  rfl

/-- Gates, status writer, reads in flight and arbiter when the slots meet the new plan. -/
theorem Part.retabled_ledger (new : Plan) (p : Part) :
    (p.retabled new).ledger = (p.closedGates, (p.status.mark 1).takeLog p.plan.alarm new.alarm, p.flights, p.arbiter) := by
  have rings := Part.ledger_replanRings p.plan (p.replan new)
  unfold Part.ledger at rings
  simp only [Prod.mk.injEq] at rings
  obtain ⟨gates, status, flights, arbiter⟩ := rings
  have closed : ((p.replan new).replanRings p.plan).closedGates = p.closedGates := by
    unfold Part.closedGates
    rw [gates]
    rfl
  unfold Part.retabled
  rw [Part.replanTicks_ledger, closed, status, flights, arbiter]
  rfl

/-- What lies around an activation: oscillator, reset control, contacts, and the mark of the SECOND tick. -/
def Part.surroundings (p : Part) : Nat × ResetControl × Vector Contact 8 × Bool := (p.osc, p.control, p.env, p.secondTick)

theorem Part.surroundings_of_frame {p q : Part} (h : q.frame = p.frame) : q.surroundings = p.surroundings :=
  (congrArg Part.surroundings h :)

theorem Part.gens_of_frame {p q : Part} (h : q.frame = p.frame) : q.gens = p.gens := (congrArg Part.gens h :)

theorem Part.replanTicks_surroundings (old new : Plan) (p : Part) : (p.replanTicks old new).surroundings = p.surroundings := by
  have retimed : ∀ q : Part, (q.retimeProg old).surroundings = q.surroundings := by
    intro q
    unfold Part.retimeProg
    split <;> rfl
  exact retimed p.closeGates

theorem Part.retabled_surroundings (new : Plan) (p : Part) : (p.retabled new).surroundings = p.surroundings := by
  unfold Part.retabled
  rw [Part.replanTicks_surroundings, Part.surroundings_of_frame (Part.frame_replanRings _ _)]
  rfl

theorem Part.retabled_plan (new : Plan) (p : Part) : (p.retabled new).plan = new :=
  (Part.plan_of_frame (Part.frame_activateSlots p.plan (p.retabled new))).symm.trans (Part.replanned_fields new p).1

theorem Part.retabled_gens (new : Plan) (p : Part) :
    (p.retabled new).gens = if p.plan.clock.progPeriod = new.clock.progPeriod then p.gens
      else modify p.gens 4 fun g =>
        let now := p.cabinetTime
        let past : Int := (now.seconds - g.last.seconds).toInt * 1000000000 + now.ns - g.last.ns
        let later := if past < 0 then g.last else now
        { g with last :=
          { later with ns := later.ns - later.ns % (new.clock.progPeriod * 1000), epoch := p.clock.epoch } } := by
  have frame := Part.frame_replanRings p.plan (p.replan new)
  have plan : ((p.replan new).replanRings p.plan).plan = new := (Part.plan_of_frame frame).trans rfl
  have clock : ((p.replan new).replanRings p.plan).clock = p.clock := (Part.clock_of_frame frame).trans rfl
  have gens : ((p.replan new).replanRings p.plan).gens = p.gens := (Part.gens_of_frame frame).trans rfl
  have ticks : ∀ (old : Plan) (q : Part), (q.replanTicks old new).gens = (q.closeGates.retimeProg old).gens := fun _ _ => rfl
  have view : ∀ q : Part, q.closeGates.plan = q.plan ∧ q.closeGates.clock = q.clock ∧ q.closeGates.gens = q.gens
      ∧ q.closeGates.cabinetTime = q.cabinetTime := fun _ => ⟨rfl, rfl, rfl, rfl⟩
  have time : ((p.replan new).replanRings p.plan).cabinetTime = p.cabinetTime := by
    unfold Part.cabinetTime
    rw [clock]
  obtain ⟨plan', clock', gens', time'⟩ := view ((p.replan new).replanRings p.plan)
  unfold Part.retabled
  rw [ticks, Part.retimeProg_gens, plan', clock', gens', time', plan, clock, gens, time]

/-! ### The SECOND tick of the instant is over -/

/-- What the end of the SECOND tick of an instant leaves alone. -/
theorem Part.endSecondTick_view (p : Part) :
    p.endSecondTick.besidesAlarms = p.tickOver.besidesAlarms ∧ p.status.Grows p.endSecondTick.status := by
  have tick : ∀ q : Part, q.besidesAlarms = p.besidesAlarms → q.tickOver.besidesAlarms = p.tickOver.besidesAlarms :=
    fun q h => (congrArg Part.tickOver h :)
  have grows : ∀ q : Part, p.status.Grows q.status → p.status.Grows q.tickOver.status := fun _ h => h
  rw [Part.endSecondTick_eq]
  exact ⟨tick _ (Part.besidesAlarms_endHolds p), grows _ (Part.grows_endHolds p)⟩

/-- The part that meets a new plan, in terms of the one before the event. -/
structure Part.Opens (p e : Part) : Prop where
  course : e.course = p.course
  surroundings : e.surroundings = (p.osc, p.control, p.env, false)
  gens : e.gens = p.gens
  gates : e.gates = p.gates
  flights : e.flights = p.flights
  arbiter : e.arbiter = p.arbiter
  ports : e.ports = p.ports
  status : p.status.Grows e.status

theorem Part.opens_endSecondTick (p : Part) : p.Opens p.endSecondTick := by
  obtain ⟨view, grows⟩ := Part.endSecondTick_view p
  generalize p.endSecondTick = e at view grows
  exact ⟨(congrArg Part.course view :), (congrArg Part.surroundings view :), (congrArg Part.gens view :),
    (congrArg Part.gates view :), (congrArg Part.flights view :), (congrArg Part.arbiter view :), (congrArg Part.ports view :), grows⟩

end Sys2Proof.Machine
end


section
/-! PROOFS. An activation from its event to its end (R47): O37. -/
namespace Sys2Proof.Machine

theorem Part.concludes_activate (new : Plan) (p : Part) : (p.endSecondTick.regulated new).Concludes (p.activate new) := by
  rw [Part.activate_stages]
  exact Part.concludes _ _

/-! ### Plan, loader, clock and surroundings -/

theorem Part.Opens.plan {p e : Part} (h : p.Opens e) : e.plan = p.plan := (Part.course_eq_iff.mp h.course).1
theorem Part.Opens.loader {p e : Part} (h : p.Opens e) : e.loader = p.loader := (Part.course_eq_iff.mp h.course).2.1
theorem Part.Opens.clock {p e : Part} (h : p.Opens e) : e.clock = p.clock := (Part.course_eq_iff.mp h.course).2.2

theorem Part.Opens.activationResult {p e : Part} (h : p.Opens e) (new : Plan) : e.activationResult new = p.activationResult new := by
  have control : e.control = p.control := (congrArg (fun c => c.2.1) h.surroundings :)
  unfold Part.activationResult Part.planResult
  rw [h.loader, control]

/-- Plan, loader and time after an activation (R47 to R49, R146). -/
theorem Part.activate_course (new : Plan) (p : Part) :
    (p.activate new).plan = new ∧ (p.activate new).loader = p.loader.finish (p.activationResult new)
      ∧ (p.activate new).clock.facc = clampTo new.clock.fmax p.clock.facc
      ∧ (p.activate new).cabinetTime = p.cabinetTime ∧ (p.activate new).clock.fraction = p.clock.fraction := by
  have opens := Part.opens_endSecondTick p
  have course := Part.course_activate new p
  generalize p.endSecondTick = e at opens course
  obtain ⟨plan, loader⟩ := (e.replanned new).activateClock_view
  obtain ⟨plan', loader', clock'⟩ := Part.replanned_fields new e
  obtain ⟨facc, time, fraction⟩ := (e.replanned new).activateClock_time
  have clock : e.clock = p.clock := opens.clock
  have cabinet : (e.replanned new).cabinetTime = p.cabinetTime := by
    unfold Part.cabinetTime
    rw [clock', clock]
  generalize p.activate new = t at course
  obtain ⟨ofPlan, ofLoader, ofClock⟩ := Part.course_eq_iff.mp course
  refine ⟨ofPlan.trans (plan.trans plan'), ?_, ?_, ?_, ?_⟩
  · rw [ofLoader, loader, loader', opens.loader, opens.activationResult]
  · rw [ofClock, facc, plan', clock', clock]
  · rw [← cabinet, ← time]
    unfold Part.cabinetTime
    rw [ofClock]
  · rw [ofClock, fraction, clock', clock]

theorem Part.Concludes.surroundings {p q : Part} (h : p.Concludes q) : q.surroundings = p.surroundings :=
  (congrArg Part.surroundings h.frame :)

theorem Part.Concludes.gens {p q : Part} (h : p.Concludes q) : q.gens = p.gens := (congrArg Part.gens h.frame :)

theorem Part.withClock_surroundings (k : Clock) (p : Part) : (p.withClock k).surroundings = p.surroundings := rfl
theorem Part.withClock_gens (k : Clock) (p : Part) : (p.withClock k).gens = p.gens := rfl

theorem Part.regulated_surroundings (new : Plan) (p : Part) : (p.regulated new).surroundings = p.surroundings :=
  (Part.surroundings_of_frame (Part.frame_regulated new p)).trans
    ((Part.withClock_surroundings _ _).trans (Part.retabled_surroundings new p))

theorem Part.activate_surroundings (new : Plan) (p : Part) :
    (p.activate new).surroundings = (p.osc, p.control, p.env, false) :=
  ((Part.concludes_activate new p).surroundings.trans (Part.regulated_surroundings new _)).trans
    (Part.opens_endSecondTick p).surroundings

/-- The tick generators after an activation (R154). -/
theorem Part.activate_gens (new : Plan) (p : Part) :
    (p.activate new).gens = if p.plan.clock.progPeriod = new.clock.progPeriod then p.gens
      else modify p.gens 4 fun g =>
        let now := p.cabinetTime
        let past : Int := (now.seconds - g.last.seconds).toInt * 1000000000 + now.ns - g.last.ns
        let later := if past < 0 then g.last else now
        { g with last :=
          { later with ns := later.ns - later.ns % (new.clock.progPeriod * 1000), epoch := p.clock.epoch } } := by
  have opens := Part.opens_endSecondTick p
  have concludes := Part.concludes_activate new p
  generalize p.endSecondTick = e at opens concludes
  have kept : (e.regulated new).gens = (e.retabled new).gens :=
    (Part.gens_of_frame (Part.frame_regulated new e)).trans (Part.withClock_gens _ _)
  have plan : e.plan = p.plan := opens.plan
  have clock : e.clock = p.clock := opens.clock
  have time : e.cabinetTime = p.cabinetTime := by
    unfold Part.cabinetTime
    rw [clock]
  rw [concludes.gens, kept, Part.retabled_gens, plan, clock, time, opens.gens]

/-! ### Gates, reads in flight and arbiter, log ring -/

theorem Part.retabled_fields (new : Plan) (p : Part) :
    (p.retabled new).gates = p.closedGates ∧ (p.retabled new).status = (p.status.mark 1).takeLog p.plan.alarm new.alarm
      ∧ (p.retabled new).flights = p.flights ∧ (p.retabled new).arbiter = p.arbiter := by
  have ledger := Part.retabled_ledger new p
  unfold Part.ledger at ledger
  simpa only [Prod.mk.injEq] using ledger

theorem Part.activate_gates (new : Plan) (p : Part) (g : GateNo) :
    (p.activate new).gates[g] = { p.gates[g] with state := .closed } := by
  have opens := Part.opens_endSecondTick p
  have concludes := Part.concludes_activate new p
  generalize p.endSecondTick = e at opens concludes
  have gates : (e.regulated new).gates[g] = { p.gates[g] with state := .closed } := by
    rw [(Part.shelved_regulated new e).gates, (Part.retabled_fields new e).1, Part.closedGates_get, opens.gates]
  rw [concludes.gates g (by rw [gates]), gates]

theorem Part.activate_flights (new : Plan) (p : Part) :
    (p.activate new).flights.map Flight.besidesMarks = p.flights.map Flight.besidesMarks := by
  have opens := Part.opens_endSecondTick p
  have concludes := Part.concludes_activate new p
  generalize p.endSecondTick = e at opens concludes
  rw [concludes.flights, (Part.shelved_regulated new e).flights, (Part.retabled_fields new e).2.2.1, opens.flights]

theorem Part.activate_arbiter (new : Plan) (p : Part) : (p.activate new).arbiter = p.arbiter := by
  have opens := Part.opens_endSecondTick p
  have concludes := Part.concludes_activate new p
  generalize p.endSecondTick = e at opens concludes
  rw [concludes.arbiter, (Part.shelved_regulated new e).arbiter, (Part.retabled_fields new e).2.2.2, opens.arbiter]

/-- The log ring after an activation (R188). -/
theorem Part.activate_log (new : Plan) (p : Part) :
    if p.plan.alarm.logBase = new.alarm.logBase ∧ p.plan.alarm.logCapacity = new.alarm.logCapacity then
      (p.activate new).status.log.producer = p.status.log.producer
        ∧ (p.activate new).status.log.consumer = p.status.log.consumer
        ∧ ∃ later, (p.activate new).status.logQueue = p.status.logQueue ++ later
    else (p.activate new).status.log.base = new.alarm.logBase ∧ (p.activate new).status.log.capacity = new.alarm.logCapacity
      ∧ (p.activate new).status.log.producer = 0 ∧ (p.activate new).status.log.consumer = 0
      ∧ ∀ record rest, p.status.logQueue = record :: rest → new.alarm.logCapacity ≠ 0 →
          ∃ later, (p.activate new).status.logQueue = { record with sequence := 0 } :: later := by
  have opens := Part.opens_endSecondTick p
  have concludes := Part.concludes_activate new p
  generalize p.endSecondTick = e at opens concludes
  have plan : e.plan = p.plan := opens.plan
  have shelved := Part.shelved_regulated new e
  have later : (e.retabled new).status.Grows (p.activate new).status :=
    (Status.Grows.of_same shelved.status shelved.dirty).trans concludes.status
  obtain ⟨-, status, -, -⟩ := Part.retabled_fields new e
  rw [status, plan] at later
  have marked : p.status.Grows (e.status.mark 1) := opens.status.trans (Status.grows_mark _ 1)
  split
  · next same =>
    rw [Status.takeLog_of_same same] at later
    have all := marked.trans later
    exact ⟨all.producer, all.consumer, all.queue⟩
  · next changed =>
    obtain ⟨base, capacity, producer, consumer, queue⟩ := Status.takeLog_view marked.queue changed
    refine ⟨later.base.trans base, later.capacity.trans capacity, later.producer.trans producer, later.consumer.trans consumer,
      fun record rest front some => ?_⟩
    obtain ⟨first, begun⟩ := queue record rest front some
    obtain ⟨more, grown⟩ := later.queue
    exact ⟨first ++ more, by rw [grown, begun, List.cons_append]⟩

/-! ### Rings and slots -/

/-- A ring that an activation changes is empty at index 0 after it (R100). -/
theorem Part.activate_ring {new : Plan} {p : Part} {r : RingNo} (changed : ringChanged p.plan.rings[r] new.rings[r] = true) :
    (p.activate new).Emptied r := by
  have opens := Part.opens_endSecondTick p
  have plan : p.endSecondTick.plan = p.plan := opens.plan
  have emptied : (p.endSecondTick.regulated new).Emptied r := Part.emptied_regulated (by rw [plan]; exact changed)
  have watched := (Part.concludes_activate new p).watched
  rw [Part.activate_stages] at watched ⊢
  exact ⟨(emptied.1.settles (Part.settles_settleExchange _ _)).idles (Part.idles_of_alarms (Part.besidesAlarms_activateAlarms _)),
    by rw [watched]; exact emptied.2⟩

/-- The stages between the turns of the slots and the end of an activation leave the slots alone. -/
theorem Part.desks_regulated (new : Plan) (p : Part) : (p.replanned new).SameDesks (p.regulated new) :=
  ((Part.desks_activateClock _).trans (.of_exchange (Part.besidesExchange_sweepDests _))).trans (Part.desks_expireHeads _)

theorem Part.dirtyIn_regulated (new : Plan) (p : Part) : (p.replanned new).status.DirtyIn (p.regulated new).status := by
  have clock : ∀ q : Part, q.activateClock.status = q.status := fun q => by
    rw [Part.activateClock_rest]
    rfl
  have heads : ∀ q : Part, q.Shelved q.sweepDests.expireHeads := fun q =>
    .of_ledger ((Part.ledger_expireHeads _).trans (Part.ledger_sweepDests q))
  exact (Status.DirtyIn.of_eq (by rw [clock])).trans (heads _).dirty

theorem Part.desks_retabled (new : Plan) (p : Part) : p.SameDesks (p.retabled new) :=
  ((Part.desks_replan new p).trans (Part.desks_replanRings p.plan _)).trans (Part.desks_replanTicks p.plan new _)

theorem Port.besidesCounters_replanned {x y : Port} (h : y.besidesCounters = x.besidesCounters) (n : Slot) (old new : SlotPlan)
    (now : Nat) : (y.replanned n old new now).besidesCounters = (x.replanned n old new now).besidesCounters := by
  rw [Port.replanned_eq, Port.replanned_eq]
  exact Port.besidesCounters_rekeyed (Port.besidesCounters_compared h n new now) _ _ _

theorem Part.HasMet.of_ports {n : Slot} {x x' y y' : Port} {q : Part} (before : x'.besidesCounters = x.besidesCounters)
    (after : y'.besidesCounters = y.besidesCounters) (h : q.HasMet n x' y') : q.HasMet n x y := by
  have state : x'.state = x.state := (congrArg Port.state before :)
  have entered : y'.state = y.state := (congrArg Port.state after :)
  refine ⟨h.port.trans after, h.flights.of_signs state (congrArg Port.link before :) (congrArg Port.check before :) entered,
    fun moved => h.dirty ?_⟩
  rw [entered, state]
  exact moved

/-- How slot `n` meets the new plan in an activation (R79, R80). -/
theorem Part.activate_slot (new : Plan) (p : Part) (n : Slot)
    (untimed : (p.ports[n].replanned n p.plan.slots[n] new.slots[n] p.now).untimed new.slots[n] p.now) :
    (p.activate new).HasMet n p.ports[n] (p.ports[n].replanned n p.plan.slots[n] new.slots[n] p.now) := by
  have opens := Part.opens_endSecondTick p
  have concludes := Part.concludes_activate new p
  generalize p.endSecondTick = e at opens concludes
  have plan : e.plan = p.plan := opens.plan
  have port : (e.retabled new).ports[n].besidesCounters = p.ports[n].besidesCounters :=
    ((Part.desks_retabled new e).ports n).trans (by rw [opens.ports])
  have now : (e.retabled new).now = p.now :=
    congrArg (fun v : Nat × ResetControl × Vector Contact 8 × Bool => v.1 / Config.periodsPerMicrosecond)
      ((Part.retabled_surroundings new e).trans opens.surroundings)
  have after := Port.besidesCounters_replanned port n p.plan.slots[n] new.slots[n] p.now
  have slots := Part.hasMet_activateSlots e.plan n (e.retabled new)
  rw [plan, Part.retabled_plan, now] at slots
  have met := (slots (Port.untimed_of_besidesCounters after untimed)).of_ports port after
  rw [← plan, ← Part.replanned_eq] at met
  have desks := Part.desks_regulated new e
  refine ⟨(concludes.ports n).trans ((desks.ports n).trans (by rw [met.port, plan])), ?_, fun moved => ?_⟩
  · rw [concludes.flights, ← plan]
    exact met.flights.of_filter (desks.flights n)
  · rw [← plan] at moved
    exact concludes.status.dirty _ (Part.dirtyIn_regulated new e _ (met.dirty moved))

theorem ringChanged_of {old new : RingPlan} (present : old.count ≠ 0 ∨ new.count ≠ 0)
    (differs : old.base ≠ new.base ∨ old.count ≠ new.count) : ringChanged old new = true := by
  unfold ringChanged RingPlan.present
  simp [present, differs]

/-- Settles O37, by the stages of an activation: the tables, the slots' turns, the clock, the exchange and the alarm unit. -/
theorem activationReplacesThePlan : Obligations.ActivationReplacesThePlan := by
  unfold Obligations.ActivationReplacesThePlan
  intro s new running due staged
  have taken : s.part.after .activation = s.part.activate new := by
    rw [Part.after_activation, Part.whenDue_of_due running due]
    unfold Part.activateStaged
    rw [staged]
  obtain ⟨plan, loader, facc, time, fraction⟩ := Part.activate_course new s.part
  have around := Part.activate_surroundings new s.part
  have ring := fun r => Part.activate_ring (new := new) (p := s.part) (r := r)
  have slot := Part.activate_slot new s.part
  have gates := Part.activate_gates new s.part
  have gens := Part.activate_gens new s.part
  have log := Part.activate_log new s.part
  have flights := Part.activate_flights new s.part
  have arbiter := Part.activate_arbiter new s.part
  refine ⟨s.modPart (Part.after .activation), exec_eq_after (c := .activation) nofun s, rfl, ?_⟩
  rw [State.modPart_part, taken]
  generalize s.part.activate new = t at plan loader facc time fraction around ring slot gates gens log flights arbiter
  unfold Part.surroundings at around
  simp only [Prod.mk.injEq] at around
  obtain ⟨osc, control, env, second⟩ := around
  refine ⟨plan, ?_, fun r present differs => ?_, gates, log, fun n untimed => ?_, gens, facc, time, fraction, osc, control, env, arbiter,
    second, flights⟩
  · rw [loader, Loader.finish_eq]
    rfl
  · have emptied := ring r (ringChanged_of present differs)
    have values := emptied.1.ring
    refine ⟨by rw [values], by rw [values], by rw [values], Part.headRecord_of_bare fun h take => ?_, emptied.2⟩
    rw [values] at take
    cases take
  · obtain ⟨port, ⟨removed, fenced, unchecked⟩, dirty⟩ := slot n untimed
    exact ⟨port, dirty, removed, fenced, unchecked⟩

end Sys2Proof.Machine
end
